-- ==== Sys2Proof/Word.lean ====
section
/-! DEFINITION. The word types of the model: a byte and a 64-byte line (R3: little-endian, bit 0 the least significant). -/

namespace Sys2Proof

/-- One byte of the store, of a host read or of a message. -/
abbrev Byte := BitVec 8

/-- One 64-byte line, byte `j` in bits `[8j+7:8j]` (R3). -/
abbrev Line := BitVec 512

end Sys2Proof
end

