-- ==== Sys2Proof/Syntax.lean ====
section
/-! DEFINITION. The commands of the block: one constructor of `Instr` per row of the table, with the row's operands. -/

namespace Sys2Proof

/-- A command in flight, named by its submission ring and the sequence number of its descriptor (R313). -/
structure CmdKey where
  sq  : Nat
  seq : BitVec 32
  deriving DecidableEq, Repr

/-- What a PCIe read of host memory returns (R346 check 8): the bytes, Unsupported Request or Completer Abort, poisoned data,
or a completion timeout. -/
inductive HostRead where
  | data (bytes : List Byte)
  | refused
  | poisoned
  | timeout
  deriving DecidableEq, Repr

/-- The message header slot of a Strait or Causeway message (R617) and the port it arrived on. `rsv` is true where a reserved
field of the message is nonzero; the class and op are the row's own. -/
structure Hdr where
  port   : Nat
  src    : Nat
  stream : Nat
  tag    : Nat
  sync   : Nat
  epoch  : BitVec 8
  alive  : BitVec 16
  addr   : BitVec 64
  rsv    : Bool
  deriving DecidableEq, Repr

/-- A line as a message carries it: its 64 bytes and the line check of its check slot (R618, R662). -/
structure WireLine where
  data  : Line
  check : BitVec 32
  deriving DecidableEq, Repr

/-- The outcome of one media operation after the one retry of R732. DESIGN CHOICE (log 74). -/
inductive Media where
  | clean
  | transient
  | lasting
  deriving DecidableEq, Repr

/-- A line that failed on the device's read and was read once more (R666, R732): its device offset, whether ECC found the error
or the line's check, and whether the second read failed too. DESIGN CHOICE (log 74). -/
structure LineFault where
  off     : Nat
  ecc     : Bool
  lasting : Bool
  deriving DecidableEq, Repr

/-- A HELLO (R644). -/
structure Hello where
  poolId   : Nat
  causeway : Bool
  joined   : Bool
  fwMajor  : Nat
  compatId : Nat
  epoch    : BitVec 64
  digest   : Nat
  deriving DecidableEq, Repr

/-- An ID_CLAIM (R700). -/
structure Claim where
  poolId   : Nat
  takeover : Bool
  handback : Bool
  epoch    : BitVec 64
  claimant : Nat
  nonce    : BitVec 64
  digest   : Nat
  deriving DecidableEq, Repr

/-- One flit as the flit layer sees it (R614, R616): the header fields, whether its CRC is good, the lane with the most symbol
errors of a bad copy, and the request slots its payload takes. -/
structure Flit where
  ftype       : Nat
  seq         : Nat
  ackSeq      : Nat
  nak         : Bool
  creditClass : Nat
  creditCount : Nat
  crcOk       : Bool
  badLane     : Nat
  deriving DecidableEq, Repr

/-- The state of a peer's row or partial result that a sub-command's answer carries, and the data a sub-command carries after
the lead's descriptor (R622). The operator chapters define the data; `words` holds it in the order they give. -/
structure SubData where
  words : List Nat
  bytes : List Byte
  deriving DecidableEq, Repr

/-- Geometry that DDR training finds (R260): DIMMs per channel, DIMM size code, speed code, whether every channel holds the same
number of DIMMs of one capacity, and whether any DIMM is present. -/
structure DdrFound where
  perChannel : Nat
  size       : Nat
  speed      : Nat
  uniform    : Bool
  deriving DecidableEq, Repr

/-- Geometry that the training of one flash channel finds (REF_CHAN_GEOM): NAND present, raw capacity in GiB, divider code and
whether the flash carries a valid format, with its op_select. -/
structure ChanFound where
  present  : Bool
  capacity : Nat
  divider  : Nat
  deriving DecidableEq, Repr

/-- What a step of the staggered power-up finds (R757). -/
structure StepFound where
  ddr       : DdrFound
  chans     : List ChanFound
  formatted : Bool
  opSelect  : Nat
  deriving DecidableEq, Repr

/-- A reading of the hottest sensor of a group, in units of 0.1 °C, and the die that gave it (R793). -/
structure TempReading where
  tenths : Int
  die    : Nat
  deriving DecidableEq, Repr

/-- One item of twin state as it crosses the Causeway (R707): the kind, its key words and its bytes. The kinds: 0 the bytes of a
line, named by isle and isle virtual address; 1 its poison bit; 2 Heddle entry; 3 atomic record; 4 region record; 5 isle record;
6 translation entry; 7 window entry; 8 binding entry; 9 ring state; 10 plan state; 11 sequence record; 12 watermark; 13 withdrawal;
14 TWIN_PAIR as dispatched (R702); 15 the end of the non-region unit; 16 a range that reads as zero; 17 the end of the copy (R727,
R730). -/
structure TwinItem where
  id    : Nat
  kind  : Nat
  words : List Nat
  bytes : List Byte
  deriving DecidableEq, Repr

/-- An SMBus transaction: the 7-bit address it names and whether its packet error code is right (R813). -/
structure Smb where
  addr  : Nat
  pecOk : Bool
  deriving DecidableEq, Repr

/-- A plan member's answer to PREPARE (R400): yes, or its refusal with reason, pick, resource and beat (R389). -/
structure PrepAnswer where
  yes      : Bool
  reason   : Nat
  pick     : Nat
  resource : Nat
  beat     : Nat
  deriving DecidableEq, Repr

/-- The commands and events of the block, one constructor per row of the table. -/
inductive Instr where
  | nop (k : CmdKey)
  | copy (k : CmdKey) (bursts : Nat) (bad : List LineFault)
  | fill (k : CmdKey) (bursts : Nat)
  | tileCopy (k : CmdKey) (bursts : Nat)
  | check (k : CmdKey) (bursts : Nat)
  | atomicBatch (k : CmdKey)
  | fence (k : CmdKey)
  | fenceComplete (k : CmdKey)
  | release (k : CmdKey)
  | acquire (k : CmdKey)
  | acquireReread (k : CmdKey)
  | acquireTimeout (k : CmdKey)
  | weave (k : CmdKey)
  | weavePhaseStart (k : CmdKey)
  | gatherAcquire (k : CmdKey)
  | writeRelease (k : CmdKey)
  | embGather (k : CmdKey)
  | embUpdate (k : CmdKey)
  | embStepClose (k : CmdKey)
  | embStats (k : CmdKey)
  | kvAppend (k : CmdKey)
  | attnDecode (k : CmdKey)
  | attnCombine (k : CmdKey)
  | seqCreate (k : CmdKey)
  | seqFork (k : CmdKey)
  | seqPublish (k : CmdKey)
  | seqHandoffOffer (k : CmdKey)
  | seqHandoffAccept (k : CmdKey)
  | seqRelease (k : CmdKey)
  | seqQuery (k : CmdKey)
  | handoffExpiry (handle : Nat)
  | orphanReclaim (handle : Nat)
  | ringGoneNotice (h : Hdr) (rings : List Nat)
  | atollSearch (k : CmdKey)
  | atollInsert (k : CmdKey)
  | atollDelete (k : CmdKey)
  | atollMerge (k : CmdKey)
  | mergeCommit (k : CmdKey)
  | oldRootFree (isle atoll : Nat)
  | atollCreate (k : CmdKey)
  | regionAlloc (k : CmdKey)
  | regionFree (k : CmdKey)
  | map (k : CmdKey)
  | unmap (k : CmdKey)
  | withdrawalStart
  | withdrawalSweepDone (id : Nat)
  | drainEnd (id : Nat)
  | drainBoundExpiry (id : Nat)
  | withdrawalComplete (id : Nat)
  | pinTier (k : CmdKey)
  | poisonClear (k : CmdKey)
  | planAdmit (k : CmdKey)
  | planStart (k : CmdKey)
  | planStop (k : CmdKey)
  | isleCreate (k : CmdKey)
  | isleChange (k : CmdKey)
  | isleDestroy (k : CmdKey)
  | bindSet (k : CmdKey)
  | isleActivate (k : CmdKey)
  | isleReset (k : CmdKey)
  | unitReset (k : CmdKey)
  | mapInstall (k : CmdKey)
  | portRetrain (k : CmdKey)
  | agentEvict (k : CmdKey)
  | ringCreate (k : CmdKey)
  | ringDestroy (k : CmdKey)
  | rowMigrate (k : CmdKey)
  | ferryHoldEnd
  | ferryCopyDone (table slot rows : Nat)
  | twinPair (k : CmdKey)
  | twinPairTimeout (k : CmdKey)
  | resyncCopyDone
  | routeSet (k : CmdKey)
  | attest (k : CmdKey) (draw : Nat)
  | keyAgree (k : CmdKey) (draw : Nat)
  | isleKeyLoad (k : CmdKey)
  | expelCert (k : CmdKey)
  | doorbellPoll (fn : Nat) (line : BitVec 64)
  | doorbellPollReturn (fn : Nat) (line : BitVec 64) (data : HostRead)
  | watchedWakeup (off : Nat)
  | descriptorFetch (context : Media)
  | descriptorArrival (k : CmdKey) (desc arg : HostRead)
  | descriptorReread (k : CmdKey) (desc arg : HostRead)
  | ringErrorRecord (sq : Nat) (ok : Bool)
  | completionWrite (k : CmdKey) (ok : Bool)
  | msixModerationTimeout (cq : Nat)
  | msixUnmask (fn vec : Nat)
  | eventPost
  | ringSetupCreate (fn : Nat)
  | ringSetupDestroy (fn sq : Nat)
  | sealWrite (value : BitVec 32)
  | fwGo (value : BitVec 32)
  | fwImageVerify (source : Nat) (image : HostRead)
  | firmwareStart (tableBase : Nat)
  | cfgGo (value : BitVec 32) (blob : HostRead)
  | portsGo (value : BitVec 32)
  | flashFormat (value : BitVec 32)
  | flashFormatDone
  | alertClear (value : BitVec 32)
  | portDisable (port : Nat) (value : BitVec 32)
  | portEnable (port : Nat) (value : BitVec 32)
  | strBindWrite (port entry : Nat) (value : BitVec 64)
  | hedModeWrite (value : BitVec 32)
  | vfBindWrite (vf : Nat) (value : BitVec 32)
  | msixAllocWrite (fn : Nat) (value : BitVec 32)
  | refSelectWrite (value : BitVec 32)
  | domainSelectWrite (dom : Nat) (value : BitVec 32)
  | clockSwitchDone (dom : Option Nat)
  | trdBeatLoRead (size : Nat)
  | cswEpochLoRead (size : Nat)
  | registerWrite (fn : Nat) (off size : Nat) (value : BitVec 64)
  | bar2Read (fn : Nat) (off len : Nat) (bad : List LineFault)
  | bar2Write (fn : Nat) (off : Nat) (bytes : List Byte)
  | readId (b : Smb)
  | setPoolId (b : Smb) (value : BitVec 16)
  | setAddr (b : Smb) (value : BitVec 8)
  | commit (b : Smb)
  | readStatus (b : Smb)
  | enumTokenReceived
  | coldReset (keyDraw : Nat)
  | warmReset
  | resetNRise
  | powerupStep (n : Nat) (found : StepFound)
  | powerOff
  | perst
  | flr (fn : Nat)
  | thermalSample (tj hbm : TempReading)
  | thermalTrip
  | oscTrim (code : BitVec 16)
  | clkRefLost (cause : Nat)
  | refSwitchBack
  | rootStopped
  | vloomAdjust (mv : Nat)
  | signalDetect (port : Nat)
  | portUp (port : Nat) (half : Option Nat) (reversed : Bool) (delay : Nat)
  | trainingFailed (port : Nat)
  | lossOfSignal (port : Nat)
  | flitReceive (port : Nat) (flit : Flit)
  | retireReq (port half : Nat)
  | retireAck (port half : Nat)
  | retrain (port : Nat)
  | echo (port : Nat) (stamp : BitVec 64)
  | echoReply (port : Nat) (stamp : BitVec 64) (delay : Nat)
  | linkAdaptation (port delay : Nat)
  | rdShared (h : Hdr) (directory : Media)
  | rdOwn (h : Hdr)
  | upgrade (h : Hdr)
  | dirty (h : Hdr)
  | wrBack (h : Hdr) (line : WireLine)
  | rdUncached (h : Hdr) (bad : List LineFault)
  | wrLine (h : Hdr) (line : WireLine)
  | wrPartial (h : Hdr) (mask : BitVec 64) (line : WireLine)
  | atomic (h : Hdr) (op : Nat) (a c : BitVec 128)
  | rdRun (h : Hdr)
  | wrRun (h : Hdr) (lines : List WireLine)
  | rspAck (h : Hdr)
  | rspData (h : Hdr) (line : WireLine)
  | status (h : Hdr) (code : Nat) (detail : BitVec 32)
  | progress (h : Hdr)
  | retry (h : Hdr) (backoff : Nat)
  | readData (h : Hdr) (code first : Nat) (lines : List WireLine)
  | runCont (h : Hdr) (first : Nat) (lines : List WireLine)
  | atomicResult (h : Hdr) (code : Nat) (prior : BitVec 128)
  | subcmd (h : Hdr) (desc : Nat) (data : SubData)
  | subcmdDone (h : Hdr) (code : Nat) (detail : BitVec 32) (count0 count1 : Nat) (data : SubData)
  | hello (port : Nat) (m : Hello)
  | idClaim (port : Nat) (c : Claim)
  | takeoverClaim (port : Nat) (c : Claim)
  | idConflict (port poolId : Nat) (nonce : BitVec 64)
  | claimStands
  | heartbeat (port src : Nat) (beat : BitVec 48) (epoch : BitVec 64)
  | imagePart (port : Nat) (offset total : Nat) (bytes : List Byte)
  | probe (port src : Nat)
  | probeAck (port src : Nat)
  | fenceNotice (port src : Nat)
  | planPrepare (port src handle : Nat) (plan : List Byte) (isle : Nat)
  | planPrepareAnswer (port src handle : Nat) (answer : PrepAnswer)
  | planCommit (port src handle : Nat)
  | planAbort (port src handle : Nat)
  | prepareTimeout (handle : Nat)
  | tentativeExpiry (handle : Nat)
  | pauseNotice (port src : Nat)
  | commitNotice (port src table slot newHome va : Nat) (epoch : BitVec 8) (step : BitVec 32)
  | certMessage (port src : Nat) (cert : List Byte)
  | beat (port : Nat) (number : BitVec 48) (root hops : Nat) (phaseErr : Int)
  | beatBoundary (slack : Int)
  | pickOverrun (k : CmdKey)
  | beatInputFailover
  | beatUnsynced (cause : Nat)
  | requestTimeout (id : Nat)
  | progressDue (id : Nat)
  | snoopTimeout (off : Nat)
  | agentSweepDone (idx : Nat)
  | epochHoldExpiry (id : Nat)
  | graceExpiry
  | tlbWalkDone (isle page : Nat) (tlb : Media)
  | tieringEpoch
  | warmupEnd
  | promotionCommit (isle page : Nat)
  | moveCommit (isle page : Nat)
  | flashReadDone (off : Nat) (outcome : Media) (restored : Bool)
  | flashProgramDone (off : Nat) (outcome : Media)
  | flashEraseDone (chan : Nat) (outcome : Media)
  | channelFailed (chan : Nat)
  | garbageCollection (chan spare : Nat)
  | patrolScrub (off : Nat) (corrected : Bool) (outcome : Media)
  | flashScrub (off : Nat) (outcome : Media) (restored : Bool)
  | telemetrySample
  | causewayLost
  | probeTimeout
  | causewayJournal (port : Nat) (item : TwinItem)
  | twinAcknowledgement (port id : Nat) (ok : Bool)
  | backOffExpiry (id : Nat)
  | completionTimeout (k : CmdKey) (arg : Bool)
  | busMasterEnableSet (fn : Nat)
  | vfEnableChange (enable : Bool)
  | enumInLow
  | pllLocked
  | resetEntryEnd
  | planArm (port src handle : Nat) (start : BitVec 48)
  | planStopNotice (port src handle : Nat) (atCycleEnd : Bool)
  | planMemberAck (port src handle : Nat) (code : Nat)
  | commitNoticeAck (port src table slot : Nat)
  | resyncWatermark (poolId region mark : Nat)
  | mergeCheckpoint (k : CmdKey)
  deriving DecidableEq, Repr

end Sys2Proof
end

