-- ==== Sys2Proof/Machine/Bits.lean ====
section
/-! DEFINITION. Bit fields, byte strings and the sorted maps the state is made of. -/

namespace Sys2Proof.Machine

/-- Field of `len` bits of `n` starting at bit `lo` (the manual's `[lo+len-1:lo]`). -/
def bits (n lo len : Nat) : Nat := (n >>> lo) % 2 ^ len

/-- Bit `i` of `n`. -/
def bit (n i : Nat) : Bool := n.testBit i

/-- Whether bits `[lo+len-1:lo]` of `n` are all zero: the check a reserved field needs (R11). -/
def zero (n lo len : Nat) : Bool := bits n lo len == 0

/-- A 0/1 field of a flag. -/
def Bool.toNat1 (b : Bool) : Nat := if b then 1 else 0

/-- `n` as `k` bytes, the lowest first (R3). -/
def leBytes (n : Nat) : Nat → List (BitVec 8)
  | 0 => []
  | k + 1 => BitVec.ofNat 8 n :: leBytes (n >>> 8) k

/-- The little-endian value of a byte string (R3). -/
def leVal : List (BitVec 8) → Nat
  | [] => 0
  | b :: bs => b.toNat + 256 * leVal bs

/-- The big-endian value of a byte string, for the structures whose tables say big-endian. -/
def beVal (l : List (BitVec 8)) : Nat := leVal l.reverse

/-- `n` as `k` bytes, the highest first. -/
def beBytes (n k : Nat) : List (BitVec 8) := (leBytes n k).reverse

/-- The field of `len` bytes at byte `off` of a byte string, little-endian; bytes beyond the end read as zero. -/
def field (bs : List (BitVec 8)) (off len : Nat) : Nat := leVal ((bs.drop off).take len)

/-- Whether every byte of `bs` in `[off, off+len)` is zero. -/
def zeros (bs : List (BitVec 8)) (off len : Nat) : Bool := field bs off len == 0

/-- The bytes of `bs` with those from `off` on replaced by `new`, the length unchanged. -/
def splice (bs : List (BitVec 8)) (off : Nat) (new : List (BitVec 8)) : List (BitVec 8) :=
  (bs.take off ++ new ++ bs.drop (off + new.length)).take bs.length

/-- `n` rounded up to a multiple of `m`, divided by `m`. -/
def ceilDiv (n m : Nat) : Nat := (n + m - 1) / m

/-- A map from numbers, kept sorted by rising key. -/
abbrev NMap (α : Type) := List (Nat × α)

/-- The entry of key `k`. -/
def NMap.get? {α : Type} (m : NMap α) (k : Nat) : Option α :=
  match m with
  | [] => none
  | (k', v) :: r => if k' = k then some v else NMap.get? r k

/-- The map with key `k` at `v`. -/
def NMap.set {α : Type} (m : NMap α) (k : Nat) (v : α) : NMap α :=
  match m with
  | [] => [(k, v)]
  | (k', v') :: r => if k' < k then (k', v') :: NMap.set r k v else if k' = k then (k, v) :: r else (k, v) :: (k', v') :: r

/-- The map without key `k`. -/
def NMap.del {α : Type} (m : NMap α) (k : Nat) : NMap α := m.filter (fun p => p.1 != k)

/-- The entry of key `k`, or `d`. -/
def NMap.getD {α : Type} (m : NMap α) (k : Nat) (d : α) : α := (NMap.get? m k).getD d

/-- The map with the entry of key `k` changed by `f`, where it has one. -/
def NMap.upd {α : Type} (m : NMap α) (k : Nat) (f : α → α) : NMap α :=
  m.map (fun p => if p.1 = k then (p.1, f p.2) else p)

/-- The lowest number below `bound` that is no key of a map, from `k` up; `fuel` numbers are tried. -/
def lowestFree {α : Type} (m : NMap α) (k : Nat) : Nat → Option Nat
  | 0 => none
  | fuel + 1 => if (NMap.get? m k).isSome then lowestFree m (k + 1) fuel else some k

/-- The value of an option of an event operand, with a default. -/
def orElseNat (o : Option Nat) (d : Nat) : Nat := o.getD d

/-- Saturating addition of one at `top` (a counter the tables call saturating). -/
def satInc (n top : Nat) : Nat := if n < top then n + 1 else n

/-- Insert `x` in an ascending list of numbers that holds it at most once. -/
def insertNat (x : Nat) : List Nat → List Nat
  | [] => [x]
  | y :: r => if x < y then x :: y :: r else if x = y then y :: r else y :: insertNat x r

end Sys2Proof.Machine
end

