-- ==== Sys2Proof/Machine/Crc.lean ====
section
/-! DEFINITION. The checks of the part: the four polynomials of R675, the line check and its two forms (R660–R663), and the
SHA-256 of the signed structures (FIPS 180-4; PRESUMED, log 6, since the spec names the standard and does not restate it). -/

namespace Sys2Proof.Machine

/-- A row of the polynomial table of R675; `poly` is written in the bit order the register runs in (reversed when `refl`). -/
structure CrcPoly where
  width : Nat
  poly  : Nat
  init  : Nat
  refl  : Bool
  xout  : Nat
  deriving DecidableEq, Repr

/-- CRC-32C, polynomial 0x1EDC6F41 reflected. -/
def crc32c : CrcPoly := { width := 32, poly := 0x82F63B78, init := 0xFFFFFFFF, refl := true, xout := 0xFFFFFFFF }
/-- CRC-32/ISO-HDLC, polynomial 0x04C11DB7 reflected. -/
def crc32iso : CrcPoly := { width := 32, poly := 0xEDB88320, init := 0xFFFFFFFF, refl := true, xout := 0xFFFFFFFF }
/-- CRC-64/ECMA-182. -/
def crc64ecma : CrcPoly := { width := 64, poly := 0x42F0E1EBA9EA3693, init := 0, refl := false, xout := 0 }
/-- CRC-16/T10-DIF. -/
def crc16dif : CrcPoly := { width := 16, poly := 0x8BB7, init := 0, refl := false, xout := 0 }

/-- The polynomial of a CHECK's poly field. -/
def crcOfCode (c : Nat) : CrcPoly := if c = 0 then crc32c else if c = 1 then crc32iso else if c = 2 then crc64ecma else crc16dif

/-- `k` shifts of the CRC register. -/
def crcShift (p : CrcPoly) (r : Nat) : Nat → Nat
  | 0 => r
  | k + 1 =>
    crcShift p
      (if p.refl then (if r.testBit 0 then (r >>> 1) ^^^ p.poly else r >>> 1)
       else if r.testBit (p.width - 1) then ((r <<< 1) ^^^ p.poly) % 2 ^ p.width else (r <<< 1) % 2 ^ p.width) k

/-- The register after one byte. -/
def crcByte (p : CrcPoly) (r : Nat) (b : BitVec 8) : Nat :=
  crcShift p (if p.refl then r ^^^ b.toNat else r ^^^ (b.toNat <<< (p.width - 8))) 8

/-- The register after a byte string. -/
def crcRun (p : CrcPoly) (r : Nat) (bs : List (BitVec 8)) : Nat := bs.foldl (crcByte p) r

/-- The CRC of a byte string. -/
def crc (p : CrcPoly) (bs : List (BitVec 8)) : Nat := crcRun p p.init bs ^^^ p.xout

/-- The line check of 64 data bytes under an isle field and an address field (R660). -/
def lineCheck (isle addr : Nat) (l : BitVec 512) : BitVec 32 :=
  BitVec.ofNat 32 (crc crc32c (leBytes l.toNat 64 ++ leBytes isle 2 ++ leBytes addr 8))

/-- The line check in wire form: isle field 0, the remote address with bits [5:0] zero (R662). -/
def wireCheck (addr : BitVec 64) (l : BitVec 512) : BitVec 32 := lineCheck 0 (addr.toNat / 64 * 64) l

/-- The conversion of a check between two forms (R663): `m` and `m'` are the 80-bit isle and address fields. -/
def convertCheck (c : BitVec 32) (m m' : Nat) : BitVec 32 :=
  c ^^^ BitVec.ofNat 32 (crcRun crc32c 0 (List.replicate 64 0 ++ leBytes (m ^^^ m') 10))

/-! ## SHA-256 -/

def rotr32 (x n : Nat) : Nat := ((x >>> n) ||| (x <<< (32 - n))) % 2 ^ 32

def shaK1 : List Nat :=
  [0x428a2f98, 0x71374491, 0xb5c0fbcf, 0xe9b5dba5, 0x3956c25b, 0x59f111f1, 0x923f82a4, 0xab1c5ed5, 0xd807aa98, 0x12835b01,
   0x243185be, 0x550c7dc3, 0x72be5d74, 0x80deb1fe, 0x9bdc06a7, 0xc19bf174, 0xe49b69c1, 0xefbe4786, 0x0fc19dc6, 0x240ca1cc,
   0x2de92c6f, 0x4a7484aa, 0x5cb0a9dc, 0x76f988da, 0x983e5152, 0xa831c66d, 0xb00327c8, 0xbf597fc7, 0xc6e00bf3, 0xd5a79147,
   0x06ca6351, 0x14292967]

def shaK2 : List Nat :=
  [0x27b70a85, 0x2e1b2138, 0x4d2c6dfc, 0x53380d13, 0x650a7354, 0x766a0abb, 0x81c2c92e, 0x92722c85, 0xa2bfe8a1, 0xa81a664b,
   0xc24b8b70, 0xc76c51a3, 0xd192e819, 0xd6990624, 0xf40e3585, 0x106aa070, 0x19a4c116, 0x1e376c08, 0x2748774c, 0x34b0bcb5,
   0x391c0cb3, 0x4ed8aa4a, 0x5b9cca4f, 0x682e6ff3, 0x748f82ee, 0x78a5636f, 0x84c87814, 0x8cc70208, 0x90befffa, 0xa4506ceb,
   0xbef9a3f7, 0xc67178f2]

/-- The eight working words of SHA-256. -/
structure ShaState where
  a : Nat
  b : Nat
  c : Nat
  d : Nat
  e : Nat
  f : Nat
  g : Nat
  h : Nat
  deriving DecidableEq, Repr

def shaInit : ShaState :=
  { a := 0x6a09e667, b := 0xbb67ae85, c := 0x3c6ef372, d := 0xa54ff53a, e := 0x510e527f, f := 0x9b05688c, g := 0x1f83d9ab,
    h := 0x5be0cd19 }

def shaRound (s : ShaState) (kw : Nat × Nat) : ShaState :=
  let s1 := rotr32 s.e 6 ^^^ rotr32 s.e 11 ^^^ rotr32 s.e 25
  let ch := (s.e &&& s.f) ^^^ ((2 ^ 32 - 1 - s.e) &&& s.g)
  let t1 := s.h + s1 + ch + kw.1 + kw.2
  let s0 := rotr32 s.a 2 ^^^ rotr32 s.a 13 ^^^ rotr32 s.a 22
  let mj := (s.a &&& s.b) ^^^ (s.a &&& s.c) ^^^ (s.b &&& s.c)
  { a := (t1 + s0 + mj) % 2 ^ 32, b := s.a, c := s.b, d := s.c, e := (s.d + t1) % 2 ^ 32, f := s.e, g := s.f, h := s.g }

/-- The message schedule: `w` holds the words so far, newest first. -/
def shaExtend (w : List Nat) : Nat → List Nat
  | 0 => w
  | k + 1 =>
    let g := fun i => w.getD i 0
    let s0 := rotr32 (g 14) 7 ^^^ rotr32 (g 14) 18 ^^^ (g 14 >>> 3)
    let s1 := rotr32 (g 1) 17 ^^^ rotr32 (g 1) 19 ^^^ (g 1 >>> 10)
    shaExtend ((g 15 + s0 + g 6 + s1) % 2 ^ 32 :: w) k

def shaBlock (s : ShaState) (words : List Nat) : ShaState :=
  let t := (List.zip (shaK1 ++ shaK2) (shaExtend words.reverse 48).reverse).foldl shaRound s
  { a := (s.a + t.a) % 2 ^ 32, b := (s.b + t.b) % 2 ^ 32, c := (s.c + t.c) % 2 ^ 32, d := (s.d + t.d) % 2 ^ 32,
    e := (s.e + t.e) % 2 ^ 32, f := (s.f + t.f) % 2 ^ 32, g := (s.g + t.g) % 2 ^ 32, h := (s.h + t.h) % 2 ^ 32 }

/-- Big-endian words of `k` groups of four bytes. -/
def beWords (bs : List (BitVec 8)) : Nat → List Nat
  | 0 => []
  | k + 1 => beVal (bs.take 4) :: beWords (bs.drop 4) k

def shaBlocks (s : ShaState) (bs : List (BitVec 8)) : Nat → ShaState
  | 0 => s
  | k + 1 => shaBlocks (shaBlock s (beWords bs 16)) (bs.drop 64) k

/-- SHA-256 of a byte string, as 32 bytes. -/
def sha256 (bs : List (BitVec 8)) : List (BitVec 8) :=
  let padLen := (119 - bs.length % 64) % 64
  let m := bs ++ [0x80] ++ List.replicate padLen 0 ++ beBytes (8 * bs.length) 8
  let s := shaBlocks shaInit m (m.length / 64)
  beBytes s.a 4 ++ beBytes s.b 4 ++ beBytes s.c 4 ++ beBytes s.d 4 ++ beBytes s.e 4 ++ beBytes s.f 4 ++ beBytes s.g 4 ++
    beBytes s.h 4

/-- SHA-256 as a 256-bit number, the first byte highest. -/
def sha256Nat (bs : List (BitVec 8)) : Nat := beVal (sha256 bs)

end Sys2Proof.Machine
end

