-- ==== Sys2Proof/Machine/Flags.lean ====
section
/-! DEFINITION. The status codes, the event codes and the opcodes of the commands, as the chapters' tables give them, and the
flags of a descriptor and of a completion record. -/

namespace Sys2Proof.Machine

/-! ## Status codes (the status tables of the chapters) -/

abbrev stOk : Nat := 0x0000
abbrev stBadDescriptor : Nat := 0x0010
abbrev stCheckMismatch : Nat := 0x0011
abbrev stAliveMismatch : Nat := 0x0012
abbrev stPermission : Nat := 0x0020
abbrev stNotMapped : Nat := 0x0021
abbrev stPartialMap : Nat := 0x0022
abbrev stWithdrawn : Nat := 0x0023
abbrev stReroute : Nat := 0x0030
abbrev stStaleEpoch : Nat := 0x0031
abbrev stVersionConflict : Nat := 0x0040
abbrev stNotOwner : Nat := 0x0041
abbrev stQuota : Nat := 0x0050
abbrev stAdmitRefused : Nat := 0x0051
abbrev stPoison : Nat := 0x0060
abbrev stDataLost : Nat := 0x0061
abbrev stDegraded : Nat := 0x0062
abbrev stAbortedReset : Nat := 0x0070
abbrev stAbortedFenced : Nat := 0x0071
abbrev stTimeout : Nat := 0x0080
abbrev stInternal : Nat := 0x00F0

/-! ## Event codes (R360 and the event tables of the later chapters) -/

abbrev evRingError : Nat := 0x0001
abbrev evOverflow : Nat := 0x0002
abbrev evTranslationFault : Nat := 0x0101
abbrev evAgentLost : Nat := 0x0201
abbrev evFlashWear : Nat := 0x0301
abbrev evChannelFailed : Nat := 0x0302
abbrev evPlanOverrun : Nat := 0x0401
abbrev evBeatUnsynced : Nat := 0x0402
abbrev evPlanPaused : Nat := 0x0403
abbrev evBeatLocked : Nat := 0x0404
abbrev evHandoffReverted : Nat := 0x0501
abbrev evSeqOrphaned : Nat := 0x0502
abbrev evSeqReclaimed : Nat := 0x0503
abbrev evMigrationCommitted : Nat := 0x0601
abbrev evMigrationRolledBack : Nat := 0x0602
abbrev evMapNoticeMismatch : Nat := 0x0603
abbrev evPortDown : Nat := 0x0701
abbrev evLaneRetired : Nat := 0x0702
abbrev evIdConflict : Nat := 0x0703
abbrev evPeerRedirected : Nat := 0x0704
abbrev evJoinRefused : Nat := 0x0705
abbrev evLinePoisoned : Nat := 0x0801
abbrev evCertRefused : Nat := 0x0802
abbrev evCertAccepted : Nat := 0x0803
abbrev evTwinDegraded : Nat := 0x0901
abbrev evTwinTakeover : Nat := 0x0902
abbrev evFenced : Nat := 0x0903
abbrev evResyncDone : Nat := 0x0904
abbrev evResyncPartial : Nat := 0x0905
abbrev evRowRetired : Nat := 0x0906
abbrev evFlashDataLost : Nat := 0x0907
abbrev evSparesExhausted : Nat := 0x0908
abbrev evDeviceFault : Nat := 0x0909
abbrev evClkRefLost : Nat := 0x0A01
abbrev evClkRefSwitched : Nat := 0x0A02
abbrev evThermalWarn : Nat := 0x0B01
abbrev evThermalThrottle : Nat := 0x0B02

/-! ## Descriptor flags (R328) -/

/-- ORDERED: the completion record in order (R352). -/
def descOrdered (d : Nat) : Bool := bit d 16
/-- INTERRUPT: the record counts towards an interrupt (R355). -/
def descInterrupt (d : Nat) : Bool := bit d 17
/-- SCHEDULED: the command is a pick of a running plan (R349). -/
def descScheduled (d : Nat) : Bool := bit d 18
/-- ARGBLOCK: bytes 16–31 reference an argument block (R329). -/
def descArgBlock (d : Nat) : Bool := bit d 19

/-! ## Completion record flags (R353) -/

/-- Byte 8 of a completion record: phase of the pass, SHORT, ring_event. -/
def recordFlags (phase short ringEvent : Bool) : Nat := phase.toNat + 2 * short.toNat + 4 * ringEvent.toNat

/-- The phase bit of record `m` of a CQ of `2^log2` slots: 1 on passes 0, 2, 4 … (R353). -/
def recordPhase (m log2 : Nat) : Bool := (m / 2 ^ log2) % 2 == 0

end Sys2Proof.Machine
end

