-- ==== Sys2Proof/Config.lean ====
section
/-! DEFINITION. What an implementation fixes or the spec leaves open: opaque constants nothing can evaluate. A statement about
one of them holds whatever it is. -/

namespace Sys2Proof.Config

/-- A byte whose contents the spec calls undefined (R28, R155, R441, R673). Applied to the state's free counter. Log entry 4. -/
opaque freeByte : Nat → BitVec 8

/-- A 64-bit value the spec leaves open. Applied to the state's free counter. Log entry 4. -/
opaque freeWord : Nat → BitVec 64

/-- A choice the spec leaves to the device (which way, which page, which shared-TLB victim). Log entry 4. -/
opaque freeChoice : Nat → Nat

/-- The 256-bit device seed in the fuses (R685). -/
opaque deviceSeed : Nat

/-- The vendor key hash in the fuses (R682). -/
opaque vendorKeyHash : Nat

/-- The fused minimum svn (R682). -/
opaque fusedMinSvn : Nat

/-- The JTAG lock fuse (R686). -/
opaque jtagLocked : Bool

/-- The production fuse (R686). -/
opaque productionFuse : Bool

/-- ECDSA P-256 verification of FIPS 186: public key (512 bits), digest, signature (512 bits). The standard is not restated. -/
opaque ecdsaVerify : Nat → Nat → Nat → Bool

/-- The device identity key pair derived from the seed: secret part (R685). -/
opaque identityPrivate : Nat → Nat

/-- The public key of a secret key, X then Y big-endian as 512 bits. -/
opaque ecPublic : Nat → Nat

/-- An ECDSA P-256 signature over a digest by a secret key, r then s as 512 bits; the last operand is the TRNG draw. -/
opaque ecdsaSign : Nat → Nat → Nat → Nat

/-- The ECDH shared x-coordinate of a secret key and a public key. -/
opaque ecdhX : Nat → Nat → Nat

/-- AES-256-GCM unwrap: key, iv, additional data, ciphertext, tag; none where the tag fails (R688). -/
opaque gcmUnwrap : Nat → Nat → Nat → Nat → Nat → Option Nat

/-- AES-256-GCM wrap without additional data: key, iv, plaintext; the ciphertext, then the 128-bit tag (R691). -/
opaque gcmWrap : Nat → Nat → Nat → Nat

/-- Whether every pair of a stack's or channel's spare rows is spent is a board and part matter (R733): spare rows per channel. -/
opaque spareRows : Nat → Nat

/-- Blocks of a flash channel of a capacity in GiB: the parts' block size is open (R305). -/
opaque flashBlocks : Nat → Nat

end Sys2Proof.Config
end

