-- ==== Sys2Proof/Machine/State.lean ====
section
/-! DEFINITION. The state of the block as plain data, its faults and refusals, and the state after reset. A field's docstring
gives, between bars, its width, the file and rule that name it and its reset value. The state after reset is the device as it
stands before PWRGD first rises (unpowered, empty): COLD_RESET and the rows after it bring it up. -/

namespace Sys2Proof.Machine

/-- Why a step stops with a fault. No meaning of this model faults: the spec answers every command. -/
inductive Fault where
  /-- Raised by no command; a stop of this kind would be safe (nothing could be proved of the state after it). -/
  | noFault
  deriving DecidableEq, Repr

/-- Why a command is refused. -/
inductive Refusal where
  /-- A command without a meaning in this model, by its mnemonic; safe: nothing is claimed of its effect. -/
  | notModelled (mnemonic : String)
  deriving DecidableEq, Repr

/-! ## Memory and pages -/

/-- The tier that a device offset lies in (R37). -/
inductive Tier where
  | hbm
  | ddr
  | flash
  | scratch
  deriving DecidableEq, Repr

/-- A moving page: where it goes and what started the move (R285, R287, R295). -/
structure Move where
  /-- | 52 bits | 06 R286 | absent | destination device offset of the page -/
  dest : Nat
  /-- | 2 bits | 06 R285, R287, R288 | absent | 0 Tide move, 1 promotion on load, 2 PIN_TIER move -/
  why : Nat
  /-- | 256 bits | 06 R285 | absent | bursts written after they were copied, as a bit set; all bursts count as copied at the start -/
  marked : Nat
  /-- | 1 bit | 06 R273 | absent | the flash source of the move has been read -/
  readDone : Bool
  deriving DecidableEq, Repr

/-- One allocated 64 KiB page of a data area (R56, R100, R274). Keyed by device offset divided by 65,536. -/
structure Page where
  /-- | 14 bits | 02 R56; 03 R100 | absent | isle that the page counts against -/
  isle : Nat
  /-- | 39 bits | 14 R661; 05 R240 | absent | isle virtual page number of the page (page owner table); table pages hold none -/
  vpage : Option Nat
  /-- | 32 bits | 02 R75, R84 | absent | region that the page belongs to; 0 for a table page or a reserved one -/
  region : Nat
  /-- | 16 bits | 06 R274–R277 | 0 | Tide access counter -/
  counter : BitVec 16
  /-- | 8 bits | 06 R274–R277 | 0 | Tide idle count -/
  idle : BitVec 8
  /-- | 4 bits | 06 R820 | absent | flash channel of a flash page -/
  chan : Nat
  /-- | record | 06 R285–R288 | absent | a move in progress -/
  move : Option Move
  deriving DecidableEq, Repr

/-- A region record (R74, R81, R707). Keyed by region id. -/
structure Region where
  /-- | 14 bits | 02 R86 | absent | owning isle -/
  isle : Nat
  /-- | 55 bits | 02 R74 | absent | isle virtual base address -/
  va : Nat
  /-- | 64 bits | 02 R74 | absent | length in bytes -/
  len : Nat
  /-- | 1 bit | 02 R74 | absent | coherent class -/
  coherent : Bool
  /-- | 2 bits | 02 R74 | absent | type: 0 plain, 1 Lagoon, 2 embedding, 3 Atoll -/
  ty : Nat
  /-- | 1 bit | 02 R74 | absent | mirrored attribute -/
  mirrored : Bool
  /-- | 13 bits | 02 R74 | absent | replica pool id, where valid -/
  replica : Option Nat
  /-- | 64 bits | 15 R728 | absent | resync cursor in bytes, while the region is under resync -/
  cursor : Option Nat
  deriving DecidableEq, Repr

/-! ## Isles, windows, bindings -/

/-- The state of an isle (R46). -/
inductive IsleState where
  | free
  | created
  | active
  | quiescing
  | resetting
  deriving DecidableEq, Repr

/-- An isle record (R46). Keyed by isle id. -/
structure Isle where
  /-- | 8 bits | 02 R46 | FREE (absent) | state -/
  state : IsleState
  /-- | 2 bits | 02 R46 | absent | shuttle_mode: true is time-shared -/
  timeShared : Bool
  /-- | 16 bits | 02 R46 | absent | unsched_weight -/
  weight : Nat
  /-- | 16 bits | 02 R46 | absent | ring_quota -/
  ringQuota : Nat
  /-- | 52 bits | 02 R46 | absent | trans_root -/
  transRoot : Nat
  /-- | 55 bits | 02 R46 | absent | bar2_base -/
  bar2Base : Nat
  /-- | 32 bits | 02 R46 | absent | heddle_quota -/
  heddleQuota : Nat
  /-- | 16 bits | 02 R46 | absent | shuttle_thread_quota -/
  shuttleQuota : Nat
  /-- | 16 bits | 02 R46 | absent | reef_thread_quota -/
  reefQuota : Nat
  /-- | 32 bits | 02 R46 | absent | hbm_page_quota -/
  hbmQuota : Nat
  /-- | 32 bits | 02 R46 | absent | ddr_page_quota -/
  ddrQuota : Nat
  /-- | 32 bits | 02 R46 | absent | flash_page_quota -/
  flashQuota : Nat
  /-- | 64 bits | 02 R46 | absent | cluster_mask -/
  clusterMask : BitVec 64
  /-- | 512 bits | 14 R688, R690 | absent | the AES-256-XTS key pair key1 ‖ key2, where the key slot holds one -/
  keys : Option Nat
  deriving DecidableEq, Repr

/-- A receiver-owned window (R122). Keyed by window id. -/
structure Window where
  /-- | 14 bits | 03 R122 | absent | isle reached -/
  isle : Nat
  /-- | 4 bits | 03 R122 | absent | rights: read 1, write 2, atomic 4, caching 8 -/
  rights : Nat
  /-- | 25 bits | 03 R122 | absent | length in 64 KiB units -/
  pages : Nat
  /-- | 55 bits | 03 R122 | absent | base isle virtual address -/
  base : Nat
  /-- | 1 bit | 03 R134 | absent | a withdrawal is removing the window -/
  leaving : Bool
  deriving DecidableEq, Repr

/-! ## Translation caches and withdrawals -/

/-- An entry of the shared TLB or a micro-TLB (R108–R111). -/
structure TlbEntry where
  /-- | 14 bits | 03 R109 | absent | isle tag -/
  isle : Nat
  /-- | 39 bits | 03 R110 | absent | first 64 KiB virtual page of the entry -/
  vpage : Nat
  /-- | 5 bits | 03 R104, R110 | absent | granule bits: 16, 21 or 29 -/
  gran : Nat
  /-- | 64 bits | 03 R98 | absent | the translation entry of the first page -/
  entry : Nat
  /-- | 1 bit | 03 R115 | absent | pinned -/
  pinned : Bool
  deriving DecidableEq, Repr

/-- What a withdrawal removes and which command asked for it (R132, R84, R131, R51). -/
structure Withdrawal where
  /-- | number | 03 R144 | absent | id of the withdrawal, in dispatch order -/
  id : Nat
  /-- | key | 03 R136 | absent | the command it answers, where a ring command started it -/
  cmd : Option CmdKey
  /-- | 2 bits | 03 R132, R137 | absent | 0 UNMAP range, 1 window, 2 REGION_FREE, 3 scratchpad mappings leaving an isle, 4 ISLE_DESTROY -/
  kind : Nat
  /-- | 14 bits | 03 R132 | absent | isle of the range -/
  isle : Nat
  /-- | list of 39-bit numbers | 03 R132, R84 | absent | the virtual pages being withdrawn -/
  vpages : List Nat
  /-- | list of 12-bit numbers | 03 R134; 02 R51 | absent | the windows being withdrawn -/
  windows : List Nat
  /-- | 3 bits | 03, phases table | waiting | 0 waiting for a comparator, 1 sweeping, 2 draining, 3 drained, 4 waiting for the twin, 5 waiting for an earlier withdrawal -/
  phase : Nat
  /-- | number | 03 R136, R818 | 0 | commands cut so far -/
  cut : Nat
  /-- | list | 03 R142 | absent | tracked lines whose recall is open -/
  recalls : List Nat
  /-- | number | 02 R50, R51, R84 | absent | region id of a REGION_FREE, isle id of an ISLE_CHANGE or ISLE_DESTROY; 0 otherwise -/
  obj : Nat
  deriving DecidableEq, Repr

/-! ## Requests -/

/-- Where a data request came from. -/
inductive Origin where
  | strait
  | bar2 (fn : Nat)
  deriving DecidableEq, Repr

/-- The kinds of data request (R210, R618, R68). -/
inductive ReqKind where
  | rdShared
  | rdOwn
  | upgrade
  | dirty
  | wrBack
  | rdUncached
  | wrLine
  | wrPartial
  | atomic
  | rdRun
  | wrRun
  | bar2Read
  | bar2Write
  deriving DecidableEq, Repr

/-- Why a request waits. -/
inductive Why where
  | walk
  | promotion
  | warmup
  | epochHold
  | takeover
  | overflow
  | backOff
  | lineBusy
  | agentIndex
  | earlierWrites
  deriving DecidableEq, Repr

/-- A data request in service (R628): its message, and how far it has got. -/
structure Req where
  /-- | number | 13 R628 | absent | the request's place in the device -/
  id : Nat
  /-- | enumeration | 13 R618 | absent | kind -/
  kind : ReqKind
  /-- | enumeration | 13 R617; 02 R68 | absent | Strait message or BAR2 access -/
  origin : Origin
  /-- | header slot | 13 R617 | absent | the message header -/
  hdr : Hdr
  /-- | 14 bits | 02 R57 | absent | bound isle -/
  isle : Nat
  /-- | lines | 13 R618 | absent | data carried, with checks -/
  lines : List WireLine
  /-- | bytes | 02 R68 | absent | BAR2 write data -/
  bytes : List Byte
  /-- | 64 bits | 13 R618 | absent | WR_PARTIAL byte mask -/
  mask : BitVec 64
  /-- | 8 bits | 05 R222 | absent | ATOMIC code -/
  op : Nat
  /-- | 128 bits | 05 R222 | absent | ATOMIC operand -/
  a : BitVec 128
  /-- | 128 bits | 05 R222 | absent | ATOMIC compare operand -/
  c : BitVec 128
  /-- | 55 bits | 02 R68 | absent | BAR2: isle virtual address -/
  va : Nat
  /-- | number | 02 R68 | absent | BAR2 read: length in bytes -/
  len : Nat
  /-- | 12 bits | 15 R718, R724 | absent | pool id addressed -/
  pool : Nat
  /-- | enumeration | 13 R629 | absent | what the request waits for, where it waits -/
  why : Option Why
  /-- | number | 13 R629 | absent | the key of that wait: a page, a line, an agent index or a set -/
  key : Nat
  /-- | lines | 05 R210 | empty | lines a holder forwarded to the request: offset, data, poison -/
  fwd : List (Nat × Line × Bool)
  /-- | 1 bit | 05 R210, R213 | 0 | an UPGRADE from a recorded holder: its grant carries no data -/
  keep : Bool
  deriving DecidableEq, Repr

/-! ## The Heddle -/

/-- Directory state of a line (R209). -/
inductive DirState where
  | shared
  | extExcl
  | extDirty
  | intMod
  | extOwned
  | intOwned
  deriving DecidableEq, Repr

/-- A directory entry (R208). Keyed by the device offset of its line. -/
structure DirEntry where
  /-- | 3 bits | 05 R209 | FREE (absent) | state -/
  state : DirState
  /-- | 10 bits | 05 R208 | absent | owner: a cluster for the INT states, an agent index for the EXT states -/
  owner : Nat
  /-- | 64 bits | 05 R208 | 0 | bit-vector mode: agents that may hold a copy -/
  extVector : BitVec 64
  /-- | 1 bit | 05 R208 | 0 | broadcast mode: some external agent may hold S -/
  extSharers : Bool
  /-- | 64 bits | 05 R208 (int_shared) | 0 | line caches that may hold S -/
  intShared : BitVec 64
  /-- | 1 bit | 05 R232–R234 | 0 | the entry lies in the spill area -/
  spilled : Bool
  /-- | number | 05 R232 | 0 | time of last use, for the least recently used way -/
  used : Nat
  deriving DecidableEq, Repr

/-- Who caused an open transaction, and waits for it. -/
inductive Who where
  | req (r : Req)
  | cmd (k : CmdKey)
  | recall
  | withdrawal (id : Nat)
  deriving DecidableEq, Repr

/-- An open transaction of the Heddle (R211, R231): snoops sent and not answered. Keyed by the device offset of its line. -/
structure Txn where
  /-- | enumeration | 05 R210 | absent | who caused it -/
  who : Who
  /-- | 1 bit | 05 R210 | absent | true: SNP_INV, false: SNP_SHARED -/
  inv : Bool
  /-- | list of indices and 9-bit tags | 05 R210, R219; 13 R617 | absent | agents that have not answered, each with its snoop's tag -/
  pending : List (Nat × Nat)
  /-- | line | 05 R210 | absent | data returned, with its poison mark -/
  data : Option (Line × Bool)
  /-- | 1 bit | 05 R254 | 0 | the answer turned out poisoned-lost: the causing request ends with ST_POISON -/
  lost : Bool
  /-- | 1 bit | 03 R142; 05 R253 | 0 | data the holders return is discarded -/
  discard : Bool
  deriving DecidableEq, Repr

/-- State of a line in a Shuttle line cache (R198). -/
inductive CacheState where
  | m
  | o
  | s
  deriving DecidableEq, Repr

/-- A line held by a Shuttle line cache (R198). -/
structure CacheLine where
  /-- | 6 bits | 05 R197 | absent | cluster -/
  cluster : Nat
  /-- | 52 bits | 05 R206 | absent | device offset of the line -/
  off : Nat
  /-- | 2 bits | 05 R198 | I (absent) | state -/
  state : CacheState
  /-- | 512 bits | 05 R198 | absent | data -/
  data : Line
  deriving DecidableEq, Repr

/-- An external caching agent (R197, R218, R816, R824). Keyed by agent index. -/
structure Agent where
  /-- | 5 bits | 05 R197 | absent | port -/
  port : Nat
  /-- | 11 bits | 05 R197 | absent | binding entry -/
  entry : Nat
  /-- | 12 bits | 05 R816 | absent | source pool id -/
  src : Nat
  /-- | 8 bits | 05 R816 | absent | stream id -/
  stream : Nat
  /-- | 14 bits | 05 R816 | absent | isle -/
  isle : Nat
  /-- | 12 bits | 03 R824; 13 R623 | absent | window through which the agent caches lines, with its base and length as recorded -/
  window : Option (Nat × Nat × Nat)
  /-- | 1 bit | 05 R249–R255 | 0 | lost, its sweep not ended -/
  lost : Bool
  /-- | 32 bits | 05 R257 | 0 | lines reclaimed -/
  reclaimed : Nat
  /-- | 32 bits | 05 R257 | 0 | lines poisoned-lost -/
  poisonedLost : Nat
  /-- | key | 05 R250; 18 R812 | absent | command that completes when the sweep ends -/
  cmd : Option CmdKey
  deriving DecidableEq, Repr

/-- A Shuttle cluster's own state (R64). Keyed by cluster number; what runs on it stands with the commands in flight. -/
structure Cluster where
  /-- | 14 bits | 02 R64 | absent: no isle served | isle last served -/
  lastIsle : Nat
  deriving DecidableEq, Repr

/-- The vector a WEAVE slot holds for one item (R434, R435): FP32 values, or the bytes of an encoded vector of a format. -/
structure SlotVal where
  /-- | 4 bits | 09 R434 | absent | format of an encoded vector; none for FP32 values -/
  enc : Option Nat
  /-- | 32-bit values | 09 R434 | absent | FP32 elements -/
  vals : List Nat
  /-- | bytes | 09 R434 | absent | encoded vector -/
  bytes : List Byte
  deriving DecidableEq, Repr

/-! ## Rings and commands -/

/-- A submission ring (R311–R317). Keyed by SQ id. -/
structure Sq where
  /-- | 14 bits | 07 R315 | absent | isle -/
  isle : Nat
  /-- | 8 bits | 07 R317 | absent | function of a host ring; 0 is PF0 -/
  fn : Nat
  /-- | 1 bit | 07 R315 | absent | sq_host -/
  host : Bool
  /-- | 1 bit | 07 R315 | absent | db_host -/
  dbHost : Bool
  /-- | 1 bit | 07 R315 | absent | management ring -/
  management : Bool
  /-- | 1 bit | 07 R315 | absent | events are posted to this ring's CQ -/
  events : Bool
  /-- | 5 bits | 07 R312 | absent | log2 of the depth -/
  log2 : Nat
  /-- | 64 bits | 07 R315 | absent | sq_base -/
  base : BitVec 64
  /-- | 64 bits | 07 R315 | absent | sq_db_line -/
  dbLine : BitVec 64
  /-- | 3 bits | 07 R315 | absent | sq_db_slot -/
  dbSlot : Nat
  /-- | 8 bits | 07 R315 | absent | poll_group -/
  pollGroup : Nat
  /-- | 11 bits | 07 R315 | absent | inflight_max -/
  inflightMax : Nat
  /-- | 12 bits | 07 R311 | absent | CQ id -/
  cq : Nat
  /-- | 16 bits | 07 R334 | 0xFFFF at creation | last alive value accepted on the SQ doorbell -/
  alive : BitVec 16
  /-- | 32 bits | 07 R335 | 0 at creation | index last accepted -/
  accepted : BitVec 32
  /-- | 32 bits | 07 R342 | 0 at creation | sequence number of the next descriptor to fetch -/
  fetched : BitVec 32
  /-- | 16 bits | 07 R350 | absent | cause, while the ring is in the error state -/
  err : Option Nat
  /-- | 1 bit | 07 R351 | 0 | the ring-error record is still to be written -/
  errRecord : Bool
  /-- | 1 bit | 07 R323 | 0 | a destroy has begun -/
  destroying : Bool
  /-- | key | 07 R323 | absent | RING_DESTROY that waits for it; a register-path destroy has none -/
  destroyCmd : Option CmdKey
  /-- | 9 bits | 07 R323 | absent | function whose BOB_RING_CMD destroys it -/
  destroyFn : Option Nat
  /-- | number | 07 R334 | 0 | doorbell values ignored -/
  ignored : Nat
  /-- | number | 07 R347 | 0 | transient re-reads -/
  rereads : Nat
  /-- | 1 bit | 16 R764 | 0 | fetching waits for Bus Master Enable -/
  awaitBme : Bool
  deriving DecidableEq, Repr

/-- A completion ring (R311–R315). Keyed by CQ id. -/
structure Cq where
  /-- | 14 bits | 07 R317 | absent | isle -/
  isle : Nat
  /-- | 8 bits | 07 R317 | absent | function -/
  fn : Nat
  /-- | 1 bit | 07 R315 | absent | cq_host -/
  host : Bool
  /-- | 5 bits | 07 R312 | absent | log2 of the depth -/
  log2 : Nat
  /-- | 64 bits | 07 R315 | absent | cq_base -/
  base : BitVec 64
  /-- | 1 bit | 07 R315 | absent | db_host of the ring that created it -/
  dbHost : Bool
  /-- | 64 bits | 07 R315 | absent | cq_db_line -/
  dbLine : BitVec 64
  /-- | 3 bits | 07 R315 | absent | cq_db_slot -/
  dbSlot : Nat
  /-- | 16 bits | 07 R334 | 0xFFFF at creation | last alive value accepted on the CQ head doorbell -/
  alive : BitVec 16
  /-- | 32 bits | 07 R344 | 0 at creation | records written -/
  written : BitVec 32
  /-- | 32 bits | 07 R336 | 0 at creation | records consumed -/
  consumed : BitVec 32
  /-- | number | 07 R344 | 0 at creation | slots reserved -/
  reserved : Nat
  /-- | 1 bit | 07 R315 | absent | msix_en -/
  msixEn : Bool
  /-- | 11 bits | 07 R315 | absent | msix_vector -/
  msixVector : Nat
  /-- | 8 bits | 07 R315 | absent | mod_count -/
  modCount : Nat
  /-- | 16 bits | 07 R315 | absent | mod_time -/
  modTime : Nat
  /-- | number | 07 R355 | 0 | counted records since the last message -/
  counted : Nat
  /-- | number | 07 R334 | 0 | doorbell values ignored -/
  ignored : Nat
  /-- | 1 bit | 07 R351 | 0 | the CQ could not be written -/
  broken : Bool
  deriving DecidableEq, Repr

/-- How far a command has got (R342–R352). -/
inductive Phase where
  | fetching
  | rereading
  | held
  | ready
  | running
  | ended
  deriving DecidableEq, Repr

/-- The sub-command of a lead to one peer (R19–R27). -/
structure Sub where
  /-- | number | 01 R24 | absent | place of its shard in shard-map order -/
  shard : Nat
  /-- | 12 bits | 01 R21 | absent | pool id addressed now -/
  peer : Nat
  /-- | 9 bits | 13 R617 | absent | tag, while a request is outstanding -/
  tag : Option Nat
  /-- | 512 bits | 13 R622 | absent | descriptor it carries -/
  desc : Nat
  /-- | words and bytes | 13 R622 | absent | data it carries -/
  data : SubData
  /-- | 1 bit | 01 R25, R26 | 0 | it has been resent once -/
  resent : Bool
  /-- | 16 bits | 01 R27 | absent | status of its answer -/
  status : Option Nat
  /-- | words and bytes | 01 R23 | absent | partial result of its answer -/
  answer : SubData
  /-- | 32 bits | 01 R23 | absent | counts of its answer -/
  counts : Nat × Nat
  deriving DecidableEq, Repr

/-- A command in flight (R342), from fetch until its record is written. Keyed by (sq, seq); a sub-command that this device
serves for a lead is a command too, with `lead` set and no ring. -/
structure Cmd where
  /-- | key | 07 R313 | absent | ring and sequence number -/
  key : CmdKey
  /-- | 14 bits | 02 R45 | absent | isle -/
  isle : Nat
  /-- | 512 bits | 07 R328 | absent | descriptor -/
  desc : Nat
  /-- | up to 4,096 bytes | 07 R329 | absent | argument block -/
  arg : List Byte
  /-- | enumeration | 07 R346–R352 | absent | phase -/
  phase : Phase
  /-- | 16 bits | 07 R353 | absent | status once ended -/
  status : Nat
  /-- | 32 bits | 07 R353 | absent | first count -/
  count0 : Nat
  /-- | 32 bits | 07 R353 | absent | second count -/
  count1 : Nat
  /-- | 1 bit | 07 R353 | 0 | SHORT flag -/
  short : Bool
  /-- | 1 bit | 07 R355; 14 R678 | 0 | counts towards an interrupt whatever INTERRUPT says -/
  forceIrq : Bool
  /-- | 64 bits | 03 R154 | 0 | bytes or items done -/
  done : Nat
  /-- | numbers | operator chapters | empty | the operator's own progress -/
  aux : List Nat
  /-- | list of (isle page) | 03 R138 | empty | virtual pages whose translation the command's bursts were issued under -/
  pages : List Nat
  /-- | lines | 05 R210 | empty | lines an external owner forwarded to the command: offset, data, poison -/
  fwd : List (Nat × Line × Bool)
  /-- | list of device pages | 06 R264 | empty | flash pages read for the command -/
  flashRead : List Nat
  /-- | list of ids | 15 R707 | empty | twin items whose acknowledgement the command waits for -/
  unacked : List Nat
  /-- | list | 01 R20 | empty | sub-commands of a lead -/
  subs : List Sub
  /-- | header | 13 R622 | absent | the lead's message, for a sub-command served here -/
  lead : Option Hdr
  /-- | words and bytes | 13 R622 | empty | data of a sub-command, or the partial result it answers -/
  data : SubData
  /-- | 8 bits | 01 R20 | absent | composition map epoch recorded at dispatch -/
  epoch : BitVec 8
  /-- | handle and pick | 08 R406 | absent | the plan pick that released it -/
  pick : Option (Nat × Nat)
  /-- | number | 08 R410 | absent | beat by whose end the record is due -/
  due : BitVec 48
  /-- | 1 bit | 08 R410 | 0 | it has overrun -/
  overrun : Bool
  /-- | clusters | 09 R443 | empty | Shuttle clusters it runs on -/
  clusters : List Nat
  /-- | 16 slots an item | 09 R434 | empty | WEAVE slots of each item, in the scratchpads of its clusters -/
  slots : List (List (Nat × SlotVal))
  deriving DecidableEq, Repr

/-- An event record held or to be posted (R359, R360). -/
structure Event where
  /-- | 16 bits | 07 R360 | absent | code -/
  code : Nat
  /-- | 16 bits | 08 R412 | 0 | bits [31:16] of the tag -/
  tagHigh : Nat
  /-- | 8 bits | 07 R360 | absent | unit -/
  unit : Nat
  /-- | 16 bits | 07 R360 | absent | source -/
  source : Nat
  /-- | 16 bits | 07 R360 | ST_OK | status -/
  status : Nat
  /-- | 32 bits | 07 R360 | absent | count0 -/
  count0 : Nat
  /-- | 32 bits | 07 R360 | absent | count1 -/
  count1 : Nat
  deriving DecidableEq, Repr

/-- One entry of a function's MSI-X table (R326, R356, R797). -/
structure Msix where
  /-- | 64 bits | 18 R797 | 0 (DESIGN CHOICE, log 3) | message address -/
  addr : BitVec 64
  /-- | 32 bits | 18 R797 | 0 (DESIGN CHOICE, log 3) | message data -/
  data : BitVec 32
  /-- | 1 bit | 07 R356 | 1 (PRESUMED PCI Express, log 3) | mask -/
  masked : Bool
  /-- | 1 bit | 07 R356 | 0 | pending bit -/
  pending : Bool
  deriving DecidableEq, Repr

/-- A PCIe function (R61, R326, R764, R804). Keyed by function number. -/
structure Fn where
  /-- | 512 bits | 07 R326 | 0 (DESIGN CHOICE, log 3) | BOB_RING_REC0–15 -/
  ringRec : Nat
  /-- | 1 bit | 07 R326 | 0 | BOB_RING_RESULT.busy -/
  busy : Bool
  /-- | 16 bits | 07 R326 | 0 | BOB_RING_RESULT.status -/
  status : Nat
  /-- | 12 bits | 07 R326 | 0 | BOB_RING_IDS.sq_id -/
  sqId : Nat
  /-- | 12 bits | 07 R326 | 0 | BOB_RING_IDS.cq_id -/
  cqId : Nat
  /-- | map | 07 R326 | empty | MSI-X table entries that differ from the reset entry -/
  msix : NMap Msix
  /-- | 1 bit | 16 R764; 18 R799 | 0 | Bus Master Enable -/
  bme : Bool
  /-- | 12 bits | 18 R804 | BOB_MSIX_ALLOC reset | vectors of the function as taken -/
  vectors : Nat
  /-- | number | 02 R70 | 0 | BAR2 writes dropped -/
  dropped : Nat
  deriving DecidableEq, Repr

/-! ## Plans -/

/-- State of a plan (R386, R391, R401). -/
inductive PlanState where
  | preparing
  | tentative
  | admitted
  | started
  | paused
  deriving DecidableEq, Repr

/-- A pick record (R381). -/
structure Pick where
  member : Nat
  sq     : Nat
  opcode : Nat
  pred   : Nat
  start  : Nat
  span   : Nat
  first  : Nat
  ranges : Nat
  demand : List (Nat × Nat)
  deriving DecidableEq, Repr

/-- A sync record (R382, R383). -/
structure SyncRec where
  relPick   : Nat
  acqPick   : Nat
  relScope  : Nat
  acqScope  : Nat
  flagRange : Nat
  dataFirst : Nat
  dataCount : Nat
  deriving DecidableEq, Repr

/-- A plan as its byte string gives it (R379–R383). -/
structure PlanText where
  cycle   : Nat
  digest  : Nat
  members : List Nat
  picks   : List Pick
  ranges  : List (Nat × Nat × Nat)
  syncs   : List SyncRec
  deriving DecidableEq, Repr

/-- A plan the device holds (R386). Keyed by its handle. -/
structure Plan where
  /-- | up to 2 MiB | 08 R379–R383 | absent | header, members, picks, ranges, sync records -/
  text : PlanText
  /-- | enumeration | 08 R386, R401 | absent | state -/
  state : PlanState
  /-- | 14 bits | 08 R391 | absent | isle that admitted it -/
  isle : Nat
  /-- | 9 bits | 08 R380 | absent | this device's place in the member table -/
  me : Nat
  /-- | number | 08 R398, R411 | absent | order of admission -/
  order : Nat
  /-- | 48 bits | 08 R390 | absent | start beat last armed -/
  startBeat : BitVec 48
  /-- | key | 08 R387, R390, R392 | absent | the command that is under way on it -/
  cmd : Option CmdKey
  /-- | list of members | 08 R402, R391 | empty | members whose answer or acknowledgement is awaited -/
  waiting : List Nat
  /-- | list | 08 R400, R403 | empty | refusals received: member, reason, pick, resource, beat -/
  refusals : List (Nat × Nat × Nat × Nat × Nat)
  /-- | 2 bits | 08 R393 | 0 | stop asked: 0 no, 1 at the next boundary, 2 at the end of the cycle, 3 releasing nothing more -/
  stopping : Nat
  /-- | 1 bit | 08 R370 | 0 | pause at the next beat boundary -/
  pausing : Option (Nat × Nat)
  /-- | list of pool ids | 08 R393, R404 | empty | devices that ordered the plan stopped and await this device's acknowledgement -/
  owes : List Nat
  deriving DecidableEq, Repr

/-! ## Links, twin, pool -/

/-- A Strait or Causeway port (R611, R632–R639). Keyed 0–23 for SP0–SP23 and 24–25 for CW0–CW1. -/
structure Port where
  /-- | 3 bits | 13 STR_PORT_STATUS | 0 DOWN | state: 0 DOWN, 1 TRAINING, 2 UP ×8, 3 UP ×4, 4 FAILED -/
  state : Nat
  /-- | 8 bits | 13 STR_PORT_STATUS | 0 | retired lanes -/
  retired : BitVec 8
  /-- | 1 bit | 13 STR_PORT_STATUS | 0 | loss of signal -/
  los : Bool
  /-- | 1 bit | 13 STR_PORT_STATUS | 0 | lane order reversed -/
  reversed : Bool
  /-- | 8 bits | 13 STR_PORT_STATUS | 0 | training attempts since reset -/
  attempts : Nat
  /-- | 1 bit | 13 STR_PORT_CTRL | 1 | enable -/
  enable : Bool
  /-- | 1 bit | 13 STR_PORT_CTRL | 0 | beat_out -/
  beatOut : Bool
  /-- | 1 bit | 13 STR_PORT_CTRL | 1 | allow_x4 -/
  allowX4 : Bool
  /-- | 24 bits | 13 R642 | 0 | STR_LINK_DELAY -/
  delay : BitVec 24
  /-- | 32 bits | 13 R635 | 0 | STR_REPLAY_COUNT -/
  replays : BitVec 32
  /-- | 32 bits | 13 R624 | 0 | STR_ALIVE_GAP -/
  aliveGap : BitVec 32
  /-- | 32 bits | 02 R59 | 0 | STR_NOBIND_COUNT -/
  nobind : BitVec 32
  /-- | number | 03 R142 | 0 | write-backs dropped into withdrawn ranges -/
  droppedBacks : Nat
  /-- | number | 13 R624 | 0 | duplicate messages dropped -/
  duplicates : Nat
  /-- | 1 bit | 13 R633, R761 | 1 | transmitters in electrical idle -/
  txIdle : Bool
  /-- | 1 bit | 16 R758 | 0 | started by its power-up step -/
  started : Bool
  /-- | number | 13 R633 | 0 | attempts that have failed since the port last came up -/
  failures : Nat
  /-- | 1 bit | 13 R632, R639 | 0 | the training under way is a retrain: it keeps equalizer settings and replay buffer -/
  warm : Bool
  /-- | 1 bit | 13 R636 | 0 | the training under way is a fall-back to ×4 -/
  fallback : Bool
  /-- | key | 13 R638 | absent | PORT_RETRAIN that waits for the port -/
  cmd : Option CmdKey
  /-- | record | 13 R644 | absent | the partner's last HELLO -/
  partner : Option Hello
  /-- | half and lane | 13 R635, R636 | absent | retirement under way: the half in the own numbering, and the lane named faulty where
  this device named it -/
  retiring : Option (Nat × Option Nat)
  /-- | 10 bits | 13 R614 | 0x3FF (DESIGN CHOICE, log 3) | seq of the last payload flit received in order -/
  rxSeq : Nat
  /-- | 10 bits | 13 R634 | 0x3FF (DESIGN CHOICE, log 3) | last ack_seq received -/
  acked : Nat
  /-- | 10 bits | 13 R634–R635 | absent | seq of the flit whose replay is awaited -/
  failing : Option Nat
  /-- | 10 bits | 13 R634 | absent | seq that a nak made the device replay from, until it is acknowledged -/
  replayFrom : Option Nat
  /-- | 6 × slots | 13 R626, R627 | 0 | credit granted and returned by the partner since port up, by class (log 30) -/
  credit : List Nat
  /-- | 2 numbers | 13 R642 | 0 | ECHO_REPLYs since the last measurement, and the sum of their delays in 1/16 ns -/
  echoes : Nat × Nat
  /-- | 1 bit | 13 R631 | 0 | request timeouts on the port are suspended -/
  suspended : Bool
  /-- | 1 bit | 13 R650 | 0 | the partner's HELLO failed R373 -/
  refusedHello : Bool
  deriving DecidableEq, Repr

/-- A route table entry (R651). Keyed by pool id. -/
structure Route where
  /-- | 24 bits | 13 R651 | 0 (DESIGN CHOICE, log 3) | port_mask -/
  mask : BitVec 24
  /-- | 12 bits | 13 R651 | 0 (DESIGN CHOICE, log 3) | twin_alias -/
  aliasId : Nat
  /-- | 1 bit | 13 R651 | 0 (DESIGN CHOICE, log 3) | alias_valid -/
  aliasValid : Bool
  /-- | 1 bit | 13 R651 | 0 (DESIGN CHOICE, log 3) | redirected -/
  redirected : Bool
  /-- | 12 bits | 13 R651 | 0 (DESIGN CHOICE, log 3) | standby -/
  standbyId : Nat
  /-- | 1 bit | 13 R651 | 0 (DESIGN CHOICE, log 3) | standby_valid -/
  standbyValid : Bool
  deriving DecidableEq, Repr

/-- A request that the device sent and that is not answered (R630, R654). Keyed by an id. -/
structure Outstanding where
  /-- | 12 bits | 13 R630 | absent | destination pool id -/
  dest : Nat
  /-- | 9 bits | 13 R630 | absent | tag -/
  tag : Nat
  /-- | 8 bits | 13 R617 | absent | stream it left on -/
  stream : Nat
  /-- | 5 bits | 13 R652 | absent | port it left on; 31 where no port could take it -/
  port : Nat
  /-- | key | 01 R20 | absent | the lead command -/
  cmd : CmdKey
  /-- | number | 01 R20 | absent | the place of the sub-command among the lead's -/
  shard : Nat
  /-- | 1 bit | 13 R654 | 0 | sent on the pool id's own port_mask although its entry is redirected (R724) -/
  direct : Bool
  /-- | 1 bit | 05 R238 | 0 | refused with RETRY: it is resent when its back-off ends -/
  backOff : Bool
  deriving DecidableEq, Repr

/-- State of the twin pair (R738). -/
inductive TwinState where
  | unpaired
  | paired
  | degraded
  | resync
  | fenced
  deriving DecidableEq, Repr

/-- What the device holds of its partner (R707), in a form it can serve. -/
structure Mirror where
  /-- | map | 15 R707 | empty | translation entries of the partner: key isle × 2^39 + virtual page -/
  entries : NMap Nat
  /-- | map | 15 R707 | empty | window table of the partner -/
  windows : NMap Window
  /-- | map | 15 R707 | empty | Strait binding entries of the partner: key port × 2,048 + entry -/
  binds : NMap (BitVec 64)
  /-- | map | 15 R707 | empty | isle records of the partner -/
  isles : NMap Isle
  /-- | map | 15 R707 | empty | region records of the partner, by region id -/
  regions : NMap Region
  /-- | map | 15 R707 | empty | directory entries of the partner's mirrored coherent lines: the line's state, then for each holder
  its source, stream, window, base and length -/
  dir : NMap (List Nat)
  /-- | list | 15 R707, R719 | empty | atomics performed: source, stream, tag, alive, prior value -/
  atomics : List (Nat × Nat × Nat × BitVec 16 × BitVec 128)
  /-- | map | 15 R707, R720 | empty | mirrored rings of the partner: state words of each SQ -/
  rings : NMap (List Nat)
  /-- | map | 15 R707 | empty | plans of the partner: handle to state words -/
  plans : NMap (List Nat)
  /-- | map | 15 R707 | empty | Lagoon sequence records of the partner -/
  seqs : NMap (List Nat)
  /-- | map | 15 R729 | empty | resync watermarks: pool id × 2^32 + region to 64 MiB units -/
  marks : NMap Nat
  /-- | 1 bit | 15 R711 | 0 | stale: never served -/
  stale : Bool
  /-- | 1 bit | 15 R727, R731 | 0 | the non-region unit has arrived whole -/
  unitDone : Bool
  deriving DecidableEq, Repr

/-- Work that waits for the twin's acknowledgement of an item (R160, R216, R143). -/
inductive TwinWait where
  | reply (r : Req) (status : Nat) (lines : List (Line × Bool)) (grant : Nat) (prior : BitVec 128)
  | cmd (k : CmdKey)
  | withdrawal (id : Nat)
  deriving DecidableEq, Repr

/-! ## Outputs -/

/-- The kinds of management message the device sends (R644–R657, R370, R400, R550, R696, R702, R710, R713). -/
inductive Mgmt where
  | hello
  | idClaim
  | takeoverClaim
  | idConflict
  | heartbeat
  | imagePart
  | probe
  | probeAck
  | fenceNotice
  | planPrepare
  | planAnswer
  | planCommit
  | planAbort
  | planArm
  | planStop
  | planAck
  | pauseNotice
  | commitNotice
  | commitNoticeAck
  | cert
  | ringGone
  | twinPair
  | twinAck
  | watermark
  deriving DecidableEq, Repr

/-- What the device sends out of its pins and links, newest last. -/
inductive Out where
  /-- A posted write of a completion record to host memory (R354). -/
  | hostWrite (fn : Nat) (addr : BitVec 64) (bytes : List Byte)
  /-- An MSI-X message of a function's vector (R355). -/
  | msix (fn vec : Nat) (addr : BitVec 64) (data : BitVec 32)
  /-- A PCIe read of host memory. -/
  | hostRead (fn : Nat) (addr : BitVec 64) (len : Nat)
  /-- The completion of a BAR2 read: data, Unsupported Request, or poisoned (EP). -/
  | bar2 (fn : Nat) (result : HostRead)
  /-- The value a register read returns. -/
  | regRead (value : BitVec 64)
  /-- A response or data message on a Strait or Causeway port (R618): header of the request it answers, op, response word and
  data. Op is the code of R618 with the class in bits [7:5]. -/
  | message (port : Nat) (dst stream tag : Nat) (op : Nat) (status : Nat) (grant : Nat) (detail : Nat)
      (lines : List WireLine) (words : List Nat)
  /-- A snoop to an external agent (R210): remote address of the line. -/
  | snoop (port dst stream tag : Nat) (inv : Bool) (addr : BitVec 64)
  /-- A sub-command (R622). -/
  | subcmd (port dst stream tag : Nat) (epoch : BitVec 8) (desc : Nat) (data : SubData)
  /-- The answer of a sub-command (R23). -/
  | subDone (port dst stream tag : Nat) (status detail count0 count1 : Nat) (data : SubData)
  /-- A sub-command forwarded to a slot's new home, which answers the lead itself (R552): the lead's header goes with it. -/
  | forward (port dst : Nat) (h : Hdr) (desc : Nat) (data : SubData)
  /-- A management message: its kind, destination pool id where it has one, and its words. -/
  | manage (port : Nat) (dst : Nat) (op : Mgmt) (words : List Nat)
  /-- An item of twin state over the Causeway (R707). -/
  | twin (item : TwinItem)
  /-- A nak: replay from ack_seq + 1 (R634). -/
  | nak (port ackSeq : Nat)
  /-- A link-control flit (R616): op, half, stamp. -/
  | control (port op half : Nat) (stamp : BitVec 64)
  /-- An SMBus answer; none is a NACK (R813). -/
  | smbus (answer : Option (List Byte))
  /-- A beat marker (R641). -/
  | marker (port : Nat) (beat : BitVec 48) (root hops : Nat)
  deriving DecidableEq, Repr

/-- One entry of the flash journal (R769). -/
structure JEntry where
  ty    : Nat
  state : Nat
  isle  : Nat
  a     : Nat
  b     : Nat
  pos   : Nat
  deriving DecidableEq, Repr

/-! ## The groups of the state -/

/-- Boot, seal, measurement and reset report (chapters 14, 16, 18). -/
structure Harbour where
  /-- | 1 bit | 18 HBR_SEAL | 0 | the setup seal -/
  sealed : Bool
  /-- | 8 bits | 18 HBR_SETUP_STATUS | 0 | seal_refusals -/
  sealRefusals : Nat
  /-- | 3 bits | 18 HBR_SETUP_STATUS | 0 | last_cause -/
  lastCause : Nat
  /-- | 8 bits | 18 HBR_SETUP_STATUS | 0 | bad_access -/
  badAccess : Nat
  /-- | 8 bits | 18 HBR_SETUP_STATUS | 0 | refused_writes -/
  refusedWrites : Nat
  /-- | 3 bits | 18 HBR_BOOT_STATUS | 0 | state: 0 waiting, 1 fetching, 2 verifying, 3 running, 4 refused and waiting -/
  boot : Nat
  /-- | 4 bits | 18 HBR_BOOT_STATUS | 0 | cause of the last refusal -/
  bootCause : Nat
  /-- | 1 bit | 18 HBR_BOOT_STATUS | 0 | source: 0 mailbox, 1 Causeway -/
  bootSource : Nat
  /-- | 8 bits | 18 HBR_BOOT_STATUS | 0 | refusals -/
  bootRefusals : Nat
  /-- | 8 bits | 18 HBR_BOOT_STATUS | 0 | svn of the running image -/
  svn : Nat
  /-- | 8 bits | 18 HBR_BOOT_STATUS | 0 | fw_major of the running image -/
  fwMajor : Nat
  /-- | 32 bits | 14 R681 | 0 | compat_id of the running image -/
  compatId : Nat
  /-- | 32 bits | 14 R681 | 0 | entry offset at which the image was started -/
  entry : Nat
  /-- | 64 bits | 18 HBR_FW_ADDR | 0 (DESIGN CHOICE, log 3) | mailbox address -/
  fwAddr : BitVec 64
  /-- | 32 bits | 18 HBR_FW_LEN | 0 (DESIGN CHOICE, log 3) | mailbox length -/
  fwLen : BitVec 32
  /-- | up to 8 MiB | 14 R681, R684 | empty | image in Harbour SRAM, header first -/
  image : List Byte
  /-- | up to 8 MiB | 13 R647 | empty | image parts that arrived over the Causeway -/
  parts : List Byte
  /-- | 32 bits | 13 R647 | 0 | total length that the parts name -/
  partsTotal : Nat
  /-- | 1 bit | 14 R682 | 0 | a verified image waits for its start -/
  verified : Bool
  /-- | 256 bits | 14 R683 | 0 before a start | firmware measurement -/
  measurement : Nat
  /-- | 64 bits | 18 HBR_CFG_ADDR | 0 (DESIGN CHOICE, log 3) | blob address -/
  cfgAddr : BitVec 64
  /-- | 4,096 bytes | 18 R800, R801 | absent | the configuration blob -/
  blob : Option (List Byte)
  /-- | 256 bits | 18 R800 | 0 | configuration digest, byte j in bits [8j+7:8j] -/
  digest : Nat
  /-- | 52 bits | 18 ISL_TABLE_BASE | 0 | device offset of the isle record table -/
  isleTable : Nat
  /-- | 64 KiB | 16 R768 | empty | reset report -/
  report : List Byte
  /-- | entries | 16 R768, R769 | empty; kept across every reset | flash journal -/
  journal : List JEntry
  /-- | 12 bits | 16 R768 | 0xFFF | pool id journaled -/
  jPool : Nat
  /-- | 64 bits | 16 R768 | 0 (DESIGN CHOICE, log 3) | epoch journaled -/
  jEpoch : BitVec 64
  /-- | 48 bits | 16 R768 | 0 (DESIGN CHOICE, log 3) | last beat journaled -/
  jBeat : BitVec 48
  /-- | 2 bits | 16 R768; 17 R792 | 0 | cause that the journal holds for the next report: 3 trip record, 4 root stopped -/
  jCause : Nat
  /-- | 2 bits | 16 R768 | 0 | kind of the last reset: 0 none, 1 cold, 2 warm -/
  resetKind : Nat
  /-- | 512 bits | 06 R308 | 0 before the first cold reset | isle 0's key pair -/
  isle0Key : Nat
  /-- | 1 bit | 16 R761 | 0 | reset entry is under way -/
  inEntry : Bool
  /-- | 1 bit | 16 R761 | 0 | RESET_N rose before reset entry ended -/
  entryRise : Bool
  deriving DecidableEq, Repr

/-- Keys, identity and certificates (chapter 14). -/
structure Trust where
  /-- | 256 bits | 14 R687 | absent | transport key -/
  transport : Option Nat
  /-- | 32 bits | 14 R688 | absent | last key_seq accepted under the transport key -/
  lastKeySeq : Option Nat
  /-- | 256 bits | 14 R691 | absent | pairing key -/
  pairing : Option Nat
  /-- | 5 bits | 14 SEC_MGR_CTRL | 0 | key_count -/
  keyCount : Nat
  /-- | 5 bits | 14 SEC_MGR_CTRL | 0 | threshold -/
  threshold : Nat
  /-- | 16 × 512 bits | 14 R692; 18 R797 | 0 (DESIGN CHOICE, log 3) | SEC_MGR_KEY0–15, byte j in bits [8j+7:8j] -/
  mgrKeys : NMap Nat
  /-- | list | 14 R694 | empty | certificates accepted: target, epoch, beat, action -/
  accepted : List (Nat × BitVec 64 × BitVec 48 × Nat)
  /-- | number | 14 R695 | 0 | certificates refused -/
  refused : Nat
  /-- | 32 bits | 14 SEL_TRANSIENT_COUNT | 0 | transient check mismatches -/
  transientCount : BitVec 32
  /-- | 32 bits | 14 SEL_LASTING_COUNT | 0 | lasting check mismatches -/
  lastingCount : BitVec 32
  /-- | 32 bits | 14 SEL_REFUSED_COUNT | 0 | requests refused for their check -/
  refusedCount : BitVec 32
  deriving DecidableEq, Repr

/-- Pool identity, membership and the management pins (chapters 13, 15, 17, 18). -/
structure Pool where
  /-- | 12 bits | 18 HBR_POOL_ID | 0xFFF | pool id -/
  id : Nat
  /-- | 1 bit | 18 HBR_POOL_ID | 0 | claimed -/
  claimed : Bool
  /-- | 1 bit | 18 HBR_POOL_ID | 0 | isolated -/
  isolated : Bool
  /-- | 1 bit | 18 HBR_POOL_ID | 0 | joined -/
  joined : Bool
  /-- | 64 bits | 15 R699 | 0 before a claim stands (DESIGN CHOICE, log 3) | epoch of the own pool id -/
  epoch : BitVec 64
  /-- | 32 bits | 15 R738 | 0 (DESIGN CHOICE, log 3) | CSW_EPOCH_HI as latched -/
  epochLatch : BitVec 32
  /-- | 64 bits | 13 R648 | absent | nonce of the claim under way -/
  nonce : Option (BitVec 64)
  /-- | 1 bit | 13 R649 | 0 | a conflict met the claim under way -/
  conflict : Bool
  /-- | 12 bits | 18 R813 | absent | pool id recorded by SET_POOL_ID -/
  smbPool : Option Nat
  /-- | 7 bits | 18 R813 | absent | address recorded by SET_ADDR -/
  smbAddr : Option Nat
  /-- | 1 bit | 18 R813 | 0 | COMMIT has been accepted -/
  committed : Bool
  /-- | map | 15, Pairing and epochs | empty | epoch known of each other pool id -/
  epochs : NMap (BitVec 64)
  /-- | list | 13 R648 | empty | membership view -/
  members : List Nat
  /-- | list | 13 R648 | empty | (pool id, nonce) flooded already -/
  flooded : List (Nat × BitVec 64)
  /-- | list | 13 R649 | empty | claimants whose claim this member answered with ID_CONFLICT: port × 4,096 + pool id -/
  refusing : List Nat
  /-- | list | 15 R725 | empty | pool ids marked expelled -/
  expelled : List Nat
  /-- | 1 bit | 17 R779 | 0 | ENUM_IN taken as high -/
  enumIn : Bool
  /-- | 2 bits | 17 R775, R778 | high impedance | ENUM_OUT: none is high impedance -/
  enumOut : Option Bool
  /-- | 1 bit | 17 R783 | 0 | ALERT_N driven low by the root monitor (R748) -/
  rootAlert : Bool
  /-- | 1 bit | 17 R791 | 0 | THERMTRIP_N latched low -/
  tripped : Bool
  /-- | 1 bit | 16 R759 | 0 | PWRGD -/
  pwrgd : Bool
  /-- | 1 bit | 16 R759 | 1 | RESET_N -/
  resetN : Bool
  deriving DecidableEq, Repr

/-- Clock sources, domains, rails and staggered power-up (chapter 16). -/
structure Clocks where
  /-- | 1 bit | 16 CLK_SRC_CTRL | 0 | ref_sel -/
  refSel : Bool
  /-- | 5 bits | 16 CLK_SRC_CTRL | 0 | timing_port -/
  timingPort : Nat
  /-- | 1 bit | 16 CLK_SRC_CTRL | 0 | trim_src -/
  trimSrc : Bool
  /-- | 1 bit | 16 CLK_SRC_CTRL | 0 | force -/
  force : Bool
  /-- | 1 bit | 16 CLK_MON_STATUS | 0 | osc_alive -/
  oscAlive : Bool
  /-- | 1 bit | 16 CLK_MON_STATUS | 0 | refclk_alive -/
  refclkAlive : Bool
  /-- | 1 bit | 16 CLK_MON_STATUS | 0 | root_alive -/
  rootAlive : Bool
  /-- | 1 bit | 16 CLK_MON_STATUS | 0 | pll_locked -/
  pllLocked : Bool
  /-- | 1 bit | 16 CLK_MON_STATUS | 0 | holdover -/
  holdover : Bool
  /-- | 1 bit | 16 CLK_MON_STATUS | 0 | ref_is_lane -/
  refIsLane : Bool
  /-- | 1 bit | 16 CLK_MON_STATUS | 0 | switch_pending -/
  switchPending : Bool
  /-- | 24 bits | 16 CLK_LANE_ALIVE | 0 (DESIGN CHOICE, log 3) | monitor of L0 of each port -/
  laneAlive : BitVec 24
  /-- | 16 bits | 16 CLK_OSC_TRIM | 0 (DESIGN CHOICE, log 3) | trim code -/
  trim : BitVec 16
  /-- | 100 bits | 16 CLK_DOM_CTRL | 1 for CD94–CD99, else 0 | sel -/
  domSel : BitVec 100
  /-- | 100 bits | 16 CLK_DOM_CTRL | 0 | force -/
  domForce : BitVec 100
  /-- | 100 bits | 16 CLK_DOM_CTRL | 0 | pending -/
  domPending : BitVec 100
  /-- | 100 bits | 16 CLK_DOM_CTRL | 1 | in_reset -/
  domReset : BitVec 100
  /-- | 100 bits | 16 R831 | 0 | a switch asked for before the domain was started -/
  domAsked : BitVec 100
  /-- | 10 bits | 16 PWR_VLOOM | 750 | setpoint_mv -/
  vloom : Nat
  /-- | 10 bits | 16 PWR_VLOOM | 650 | floor_mv -/
  floor : Nat
  /-- | 10 bits | 16 PWR_VLOOM | 850 | ceiling_mv -/
  ceiling : Nat
  /-- | 3 bits | 16 PWR_STAGGER_CTRL | 2 | ports_per_step -/
  perStep : Nat
  /-- | 14 bits | 16 PWR_STAGGER_CTRL | 2,000 | step_us -/
  stepUs : Nat
  /-- | 1 bit | 16 PWR_STAGGER_CTRL | 0 | ports_go has been written -/
  portsGo : Bool
  /-- | 4 bits | 18 PWR_STAGGER_STATUS | 0 | last whole step of the staggered power-up finished -/
  stepDone : Nat
  /-- | 5 bits | 18 PWR_STAGGER_STATUS | 0 | ports_started -/
  portsStarted : Nat
  deriving DecidableEq, Repr

/-- Temperature (chapter 17, TEL block of chapter 18). -/
structure Thermal where
  /-- | 16 + 4 bits | 18 TEL_TJ | 0 | highest die reading and its die -/
  tj : TempReading
  /-- | 16 + 4 bits | 18 TEL_HBM_TEMP | 0 | highest stack reading and its stack -/
  hbm : TempReading
  /-- | 1 bit | 18 TEL_ALERT_STATUS | 0 | thermal_warn -/
  warn : Bool
  /-- | 1 bit | 18 TEL_ALERT_STATUS | 0 | thermal_throttle -/
  throttle : Bool
  /-- | 1 bit | 17 R790 | 0 | the warning that a die's reading started is in force -/
  warnTj : Bool
  /-- | 1 bit | 17 R790 | 0 | the warning that a stack's reading started is in force -/
  warnHbm : Bool
  /-- | 1 bit | 17 R790 | 0 | the throttle is in force -/
  throttled : Bool
  /-- | 1 bit | 17 R790 | 0 | HBM4 refresh rate doubled -/
  refresh2x : Bool
  deriving DecidableEq, Repr

/-- The store: contents, poison, pages, regions (chapters 02, 06, 14). -/
structure Store where
  /-- | 2^52 bytes | 02 R37 | nothing listed; an unlisted byte reads as zero (R80, log 2) | contents by device offset, plaintext (R309) -/
  cells : List Host.Cell
  /-- | 1 bit a line | 14 R669 | 0 | poison map: offsets of poisoned lines, ascending -/
  poison : List Nat
  /-- | 1 bit a line | 15 R734 | 0 | flash lines marked lost, and scratchpad lines that keep failing (R666), ascending -/
  lost : List Nat
  /-- | map | 02 R53, R56; 03 R100 | empty | allocated pages by device page number -/
  pages : NMap Page
  /-- | map | 02 R74–R82 | empty | regions by region id -/
  regions : NMap Region
  /-- | 1 bit | 18 MEM_STATUS | 0 | hbm_ready -/
  hbmReady : Bool
  /-- | 1 bit | 18 MEM_STATUS | 0 | ddr_ready -/
  ddrReady : Bool
  /-- | 1 bit | 18 MEM_STATUS | 0 | population_error -/
  popError : Bool
  /-- | 2 bits | 18 MEM_STATUS | 0 | dimms_per_channel -/
  dimms : Nat
  /-- | 3 bits | 18 MEM_STATUS | 0 | dimm_size -/
  dimmSize : Nat
  /-- | 3 bits | 18 MEM_STATUS | 0 | ddr_speed -/
  ddrSpeed : Nat
  /-- | 3 bits | 18 MEM_DDR_CTRL | 4 | speed_cap -/
  speedCap : Nat
  /-- | 32 bits | 15 R738 | 0 | MEM_ECC_TRANSIENT -/
  eccTransient : BitVec 32
  /-- | map | 15 R733 | empty | rows retired by channel unit -/
  retired : NMap Nat
  /-- | 8 + 8 bits | 15 MEM_SCRUB_CTRL | 24 | dram_hours -/
  dramHours : Nat
  /-- | 8 bits | 15 MEM_SCRUB_CTRL | 7 | flash_days -/
  flashDays : Nat
  deriving DecidableEq, Repr

/-- One flash channel (chapter 18, REF_CHAN_GEOM). Keyed 0–15. -/
structure Chan where
  /-- | 1 bit | 18 REF_FLASH_STATUS | 0 | present -/
  present : Bool
  /-- | 15 bits | 18 REF_CHAN_GEOM | 0 | capacity_gib -/
  capacity : Nat
  /-- | 2 bits | 18 REF_CHAN_GEOM | 0 | divider -/
  divider : Nat
  /-- | 1 bit | 18 REF_CHAN_GEOM; 06 R306 | 0 | failed -/
  failed : Bool
  /-- | 1 bit | 18 REF_CHAN_GEOM; 06 R305 | 0 | wear_low -/
  wearLow : Bool
  /-- | 1 bit | 18 REF_CHAN_GEOM; 06 R305 | 0 | full -/
  full : Bool
  /-- | number | 06 R305 | 0 (DESIGN CHOICE, log 3) | spare blocks left -/
  spare : Nat
  /-- | number | 15 R732 | 0 | blocks retired -/
  retired : Nat
  deriving DecidableEq, Repr

/-- Flash (chapters 06, 15, 18). -/
structure Flash where
  /-- | map | 18 REF_CHAN_GEOM | 16 channels, absent NAND | channels -/
  chans : NMap Chan
  /-- | 1 bit | 18 REF_FLASH_STATUS | 0 | formatted -/
  formatted : Bool
  /-- | 1 bit | 18 REF_FLASH_STATUS | 0 | formatting -/
  formatting : Bool
  /-- | 2 bits | 18 REF_FLASH_STATUS | 0 | op_applied -/
  opApplied : Nat
  /-- | 2 bits | 18 REF_FLASH_CFG | 0 | op_select -/
  opSelect : Nat
  /-- | number | 18 REF_FLASH_USABLE | 0 | raw GiB of the formatted channels -/
  rawGib : Nat
  /-- | 32 bits | 15 R738 | 0 | REF_READ_TRANSIENT -/
  readTransient : BitVec 32
  /-- | 32 bits | 15 R738 | 0 | REF_PROG_TRANSIENT -/
  progTransient : BitVec 32
  /-- | 32 bits | 15 R738 | 0 | REF_ERASE_TRANSIENT -/
  eraseTransient : BitVec 32
  /-- | list | 06 R264, R270; 03 R141 | empty | flash reads outstanding for DMA commands: command, device page -/
  reads : List (CmdKey × Nat)
  deriving DecidableEq, Repr

/-- Tide (chapter 06). -/
structure Tide where
  /-- | 1 bit | 06 MEM_TIDE_CTRL | 1 | enable -/
  enable : Bool
  /-- | 2 bits | 06 MEM_TIDE_CTRL | 1 | promote_target -/
  target : Nat
  /-- | 16 bits | 06 MEM_TIDE_EPOCH | 100 | epoch_ms -/
  epochMs : Nat
  /-- | 8 bits | 06 MEM_TIDE_EPOCH | 20 | warmup_epochs -/
  warmupEpochs : Nat
  /-- | 16 bits | 06 MEM_TIDE_PROMOTE | 256 | hbm_threshold -/
  hbmThreshold : Nat
  /-- | 16 bits | 06 MEM_TIDE_PROMOTE | 16 | seed -/
  seed : Nat
  /-- | 16 bits | 06 MEM_TIDE_DEMOTE | 16 | ddr_threshold -/
  ddrThreshold : Nat
  /-- | 8 bits | 06 MEM_TIDE_DEMOTE | 50 | flash_idle_epochs -/
  flashIdle : Nat
  /-- | 8 bits | 06 MEM_TIDE_WATERMARK | 5 | hbm_low_pct -/
  hbmLow : Nat
  /-- | 8 bits | 06 MEM_TIDE_WATERMARK | 8 | hbm_target_pct -/
  hbmTarget : Nat
  /-- | 8 bits | 06 MEM_TIDE_WATERMARK | 5 | ddr_low_pct -/
  ddrLow : Nat
  /-- | 8 bits | 06 MEM_TIDE_WATERMARK | 8 | ddr_target_pct -/
  ddrTarget : Nat
  /-- | 16 bits | 06 MEM_TIDE_RATE | 16,384 | max_dram_moves -/
  maxMoves : Nat
  /-- | 16 bits | 06 MEM_TIDE_RATE | 4,096 | max_flash_demotes -/
  maxDemotes : Nat
  /-- | 32 bits | 06 MEM_TIDE_NO_ROOM | 0 | accesses served without room -/
  noRoom : BitVec 32
  /-- | 32 bits | 06 MEM_TIDE_SKIPPED | 0 | pages skipped -/
  skipped : BitVec 32
  /-- | 32 bits | 06 MEM_TIDE_ABANDONED | 0 | demotions abandoned -/
  abandoned : BitVec 32
  /-- | 1 bit | 06 R291 | 1 after a reset | warm-up hold -/
  warmup : Bool
  /-- | list of (isle page) | 06 R270 | empty | loads that wait for a promotion place, in arrival order -/
  waiting : List (Nat × Nat)
  deriving DecidableEq, Repr

/-- Translation (chapter 03). -/
structure Trans where
  /-- | 65,536 entries | 03 R109 | empty | shared TLB -/
  tlb : List TlbEntry
  /-- | 121 × 64 entries | 03 R108 | empty | micro-TLBs: 0–23 the Strait ports, 24–25 the Causeway, 26 PCIe; the engines' lie in the shared TLB's shadow (log 9) -/
  micro : NMap (List TlbEntry)
  /-- | up to 256 | 03 R112 | empty | walks in progress: isle, virtual page -/
  walks : List (Nat × Nat)
  /-- | list | 03 R113 | empty | misses that wait for a free walk -/
  walkQueue : List (Nat × Nat)
  /-- | 16 bits | 18 TRN_DRAIN_BOUND | 100 | bound_us -/
  drainBound : Nat
  /-- | 16 bits | 02 TRN_MAP_GRACE | 20 | grace_100us -/
  grace : Nat
  /-- | map | 03 R122 | empty | window table -/
  windows : NMap Window
  /-- | list | 03 R144 | empty | withdrawals in dispatch order -/
  withdrawals : List Withdrawal
  /-- | number | 03 R144 | 0 | id of the next withdrawal -/
  nextWd : Nat
  deriving DecidableEq, Repr

/-- The Heddle (chapter 05). -/
structure Heddle where
  /-- | 1 bit | 18 HED_MODE | 0 | mode: true is broadcast -/
  broadcast : Bool
  /-- | 4,194,304 entries + spill area | 05 R207, R233 | empty | directory by line offset -/
  dir : NMap DirEntry
  /-- | up to 8,192 | 05 R215 | empty | open transactions by line offset -/
  txns : NMap Txn
  /-- | map | 05 R218 | empty | external agents by index -/
  agents : NMap Agent
  /-- | map | 05 R237 | empty | consecutive refusals by port × 2^20 + source × 2^8 + stream -/
  refusals : NMap Nat
  /-- | 32 bits | 05 HED_RECALL_COUNT | 0 (18 R797) | recalls -/
  recalls : BitVec 32
  /-- | 16 bits | 18 HED_STATUS | 0 | caching_refused -/
  cachingRefused : Nat
  /-- | list of offsets | 05 R246 | empty | doorbell lines written whose wake-up Bobbin has not taken -/
  wakeups : List Nat
  /-- | up to 16,384 | 05 R247 | empty | ACQUIREs and gathers that hold a watched-line entry: command, line offset -/
  acquires : List (CmdKey × Nat)
  /-- | list | 05 R247 | empty | waiting acquires whose flag line a write was granted since their last read -/
  wakeCmds : List CmdKey
  /-- | number | 05 R232 | 0 | clock of directory uses -/
  clock : Nat
  /-- | lines | 05 R198 | empty | contents of the Shuttle line caches -/
  caches : List CacheLine
  deriving DecidableEq, Repr

/-- Bobbin (chapter 07). -/
structure Bobbin where
  /-- | 4,096 contexts | 07 R311 | empty | submission rings by id -/
  sqs : NMap Sq
  /-- | 4,096 contexts | 07 R311 | empty | completion rings by id -/
  cqs : NMap Cq
  /-- | 256 functions | 07 R326; 18 R794 | PF0 and no VF | functions by number -/
  fns : NMap Fn
  /-- | 256 × 12 bits | 07 R338 | 20 each | BOB_POLL_GROUP periods that differ from 20 -/
  pollGroups : NMap Nat
  /-- | 256 × 12 bits | 18 BOB_MSIX_ALLOC | 64 for PF0, 1 otherwise | counts that differ from the reset value -/
  msixAlloc : NMap Nat
  /-- | 1 bit | 18 R804 | 0 | VF Enable -/
  vfEnable : Bool
  /-- | up to 64 | 07 R339 | empty | doorbell polls outstanding: function, line -/
  polls : List (Nat × BitVec 64)
  /-- | list | 07 R339 | empty | polls due that wait for a place -/
  pollQueue : List (Nat × BitVec 64)
  /-- | 32 bits | 07 R339 | 0 (18 R797) | late polls -/
  latePolls : BitVec 32
  /-- | number | 07 R345 | 4,095 (DESIGN CHOICE, log 3) | ring last served -/
  lastServed : Nat
  /-- | up to 16,384 | 07 R342 | empty | commands in flight -/
  cmds : List Cmd
  /-- | up to 1,024 | 07 R359 | empty | events held, oldest first -/
  held : List Event
  /-- | number | 07 R359 | 0 | events dropped and not yet reported -/
  dropped : Nat
  deriving DecidableEq, Repr

/-- The Treadle (chapter 08). -/
structure Treadle where
  /-- | 48 bits | 08 R363 | 0 (18 R797) | beat counter -/
  beat : BitVec 48
  /-- | 16 bits | 08, TRD_BEAT_HI | 0 (DESIGN CHOICE, log 3) | TRD_BEAT_HI as latched -/
  latch : BitVec 16
  /-- | 3 bits | 08 TRD_BEAT_CTRL | 1 | period_sel -/
  period : Nat
  /-- | 1 bit | 08 TRD_BEAT_CTRL | 0 | beat_root -/
  root : Bool
  /-- | 5 bits | 08 TRD_BEAT_CTRL | 0 | primary_in -/
  primary : Nat
  /-- | 5 bits | 08 TRD_BEAT_CTRL | 31 | alternate_in -/
  alternate : Nat
  /-- | 1 bit | 08 TRD_SYNC_STATUS | 0 | locked -/
  locked : Bool
  /-- | 1 bit | 08 TRD_SYNC_STATUS | 0 | unsynced -/
  unsynced : Bool
  /-- | 1 bit | 08 TRD_SYNC_STATUS | 0 | on_alternate -/
  onAlternate : Bool
  /-- | 8 bits | 08 TRD_SYNC_STATUS | 0 | hops -/
  hops : Nat
  /-- | 16 bits | 08 TRD_SYNC_STATUS | 0 | last corrected phase error, signed ns -/
  phaseErr : Int
  /-- | 7 bits | 08 R364 | 0 | consecutive markers within ±64 ns -/
  run : Nat
  /-- | number | 08 R366, R368, R412 | 0 | beats since the last marker -/
  sinceMarker : Nat
  /-- | 12 bits | 08 R367 | 0xFFF (DESIGN CHOICE, log 3) | pool id of the beat root as markers name it -/
  rootId : Nat
  /-- | 10 bits | 08 TRD_ADMIT_SHARE | 40 | bg_permille -/
  bg : Nat
  /-- | 10 bits | 08 TRD_ADMIT_SHARE | 100 | us_permille -/
  us : Nat
  /-- | 16 bits | 08 TRD_PREPARE_TIMEOUT | 50 | timeout_100us -/
  prepare : Nat
  /-- | 16 bits | 08 R376 | 0 (DESIGN CHOICE, log 3) | TRD_PACE_SLACK -/
  slack : BitVec 16
  /-- | 32 bits | 08 R410 | 0 (18 R797) | TRD_OVERRUN -/
  overruns : BitVec 32
  /-- | 32 bits | 08 R407 | 0 (18 R797) | TRD_PICK_MISSED -/
  missed : BitVec 32
  /-- | up to 64 | 08 R386 | empty | plans by handle -/
  plans : NMap Plan
  /-- | 16 bits | 08 R388 | 0 (DESIGN CHOICE, log 3) | next plan sequence number -/
  nextPlan : BitVec 16
  /-- | number | 08 R398 | 0 | admissions made -/
  admissions : Nat
  /-- | list of keys | 08 R398 | empty | PLAN_ADMITs in dispatch order -/
  admitQueue : List CmdKey
  /-- | map | 08 R375 | empty | budget counters: plan, pick, resource, units left in this beat -/
  budgets : List (Nat × Nat × Nat × Nat)
  deriving DecidableEq, Repr

/-- Strait, Causeway and the routes (chapter 13). -/
structure Links where
  /-- | 26 ports | 13 R611 | each at its reset | ports -/
  ports : NMap Port
  /-- | 24 × 2,048 × 64 bits | 02 R58 | 0 (DESIGN CHOICE, log 3) | binding entries that are not zero: key port × 2,048 + entry -/
  binds : NMap (BitVec 64)
  /-- | 255 × 16 bits | 18 ISL_VF_BIND | 0 | bindings of VFs that are not zero -/
  vfBinds : NMap (BitVec 32)
  /-- | 4,096 entries | 13 R651 | 0 (DESIGN CHOICE, log 3) | route table -/
  routes : NMap Route
  /-- | 16 bits | 13 STR_REQ_TIMEOUT | 100 | timeout_us -/
  reqTimeout : Nat
  /-- | map | 13 R624 | empty | last alive accepted by source × 2^8 + stream -/
  rxAlive : NMap (BitVec 16)
  /-- | map | 13 R624 | empty | last alive sent by destination × 2^8 + stream -/
  txAlive : NMap (BitVec 16)
  /-- | list | 13 R628 | empty | requests in service that wait -/
  parked : List Req
  /-- | number | 13 R628 | 0 | id of the next request or outstanding request -/
  nextId : Nat
  /-- | map | 13 R630 | empty | requests the device issued -/
  outstanding : NMap Outstanding
  deriving DecidableEq, Repr

/-- The twin (chapter 15). -/
structure Twin where
  /-- | 4 bits | 15 CSW_TWIN_CTRL | 3 | hb_miss_beats -/
  hbMiss : Nat
  /-- | 16 bits | 15 CSW_TWIN_TIMERS | 200 | probe_us -/
  probeUs : Nat
  /-- | 16 bits | 15 CSW_TWIN_TIMERS | 500 | takeover_us -/
  takeoverUs : Nat
  /-- | 3 bits | 15 CSW_TWIN_STATUS | UNPAIRED | state -/
  state : TwinState
  /-- | 12 bits | 15 CSW_TWIN_STATUS | 0xFFF | partner -/
  partner : Nat
  /-- | 12 bits | 15 CSW_TWIN_STATUS | 0xFFF | taken-over pool id -/
  held : Nat
  /-- | 12 bits | 15 R731 | 0xFFF | second pool id taken over from the source of an unfinished resync, served from the own-space copy -/
  also : Nat
  /-- | state | 15 R707 | empty | what the device holds of its partner -/
  mirror : Mirror
  /-- | 1 bit | 15 R710 | 0 | a probe is unanswered -/
  probing : Bool
  /-- | list | 15 R710, R160 | empty | items sent and not acknowledged, with what waits for each -/
  waits : List (Nat × TwinWait)
  /-- | number | 15 R707 | 0 | id of the next item -/
  nextItem : Nat
  /-- | key | 15 R702 | absent | TWIN_PAIR under way, with its mode -/
  pairCmd : Option CmdKey
  /-- | words | 15 R702 | absent | the partner's TWIN_PAIR as announced: sender, device it names, mode, state of its pair, pool id it
  holds, whether it has no mirrored region and no taken-over pool id, then its journaled watermarks -/
  peerPair : Option (List Nat)
  /-- | 2 bits | 15 R730 | 0 | resync between two DEGRADED partners: this device's copies are done, the partner's are done -/
  done : Bool × Bool
  /-- | 1 bit | 15 R727 | 0 | the partner too is a source of the resync -/
  peerSource : Bool
  /-- | 12 bits | 15 R730, R731 | 0xFFF | pool id that the partner holds by takeover, as its non-region unit named it -/
  srcHeld : Nat
  /-- | 2 numbers | 15 R730 | 0 | regions and bytes that the partner copied -/
  peerCopied : Nat × Nat
  /-- | 1 bit | 15 R727 | 0 | this device is the source of the resync -/
  source : Bool
  /-- | list | 15 R727 | empty | regions still to be copied, first the one in progress -/
  toCopy : List Nat
  /-- | number | 15 R730 | 0 | regions copied -/
  copied : Nat
  /-- | number | 15 R730 | 0 | bytes copied -/
  copiedBytes : Nat
  /-- | number | 15 R709 | 0 | beats since a HEARTBEAT on either Causeway port -/
  silent : Nat
  deriving DecidableEq, Repr

/-! ## Composition map and operators -/

/-- A shard slot of an embedding table (R512). -/
structure Slot where
  /-- | 40 bits | 11 R512 | absent | first_row -/
  first : Nat
  /-- | 12 bits | 11 R512 | absent | home -/
  pool : Nat
  /-- | 55 bits | 11 R512 | absent | shard_va -/
  va : Nat
  deriving DecidableEq, Repr

/-- A table record of the composition map (R511) with its slots. Keyed by table_id. -/
structure Table where
  /-- | 14 bits | 11 R511 | absent | isle -/
  isle : Nat
  /-- | 4 bits | 11 R511 | absent | row format -/
  fmt : Nat
  /-- | 1 bit | 11 R511 | absent | sat -/
  sat : Bool
  /-- | 1 bit | 11 R511 | absent | sr -/
  sr : Bool
  /-- | 2 bits | 11 R511 | absent | opt -/
  opt : Nat
  /-- | 13 bits | 11 R511 | absent | width -/
  width : Nat
  /-- | 40 bits | 11 R511 | absent | rows -/
  rows : Nat
  /-- | 32 bits | 11 R511 | absent | first_step -/
  firstStep : BitVec 32
  /-- | 32 bits | 11 R511 | absent | eps -/
  eps : Nat
  /-- | 32 bits | 11 R511 | absent | sr_seed -/
  srSeed : Nat
  /-- | 55 bits | 11 R511 | absent | staging_va -/
  stagingVa : Nat
  /-- | 64 bits | 11 R511 | absent | staging_len -/
  stagingLen : Nat
  /-- | up to 4,096 records | 11 R512 | absent | slots -/
  slots : List Slot
  deriving DecidableEq, Repr

/-- An Atoll record of the composition map (R558). Keyed by atoll_id. -/
structure AtollRec where
  /-- | 14 bits | 12 R558 | absent | isle -/
  isle : Nat
  /-- | up to 512 × 12 bits | 12 R558 | absent | shard homes in order -/
  homes : List Nat
  deriving DecidableEq, Repr

/-- A composition map (R94). -/
structure CompMap where
  /-- | 8 bits | 02 R94 | 0 | epoch -/
  epoch : BitVec 8
  /-- | up to 1,024 | 11 R511 | empty | tables -/
  tables : NMap Table
  /-- | up to 256 | 12 R558 | empty | Atolls -/
  atolls : NMap AtollRec
  deriving DecidableEq, Repr

/-- The composition maps of the device (R87–R95). -/
structure Maps where
  /-- | map | 02 R95 | epoch 0, no table, no Atoll | the current map -/
  cur : CompMap
  /-- | map | 02 R89 | absent | the previous map -/
  prev : Option CompMap
  /-- | 1 bit | 02 R92 | 0 | the composition grace runs -/
  grace : Bool
  deriving DecidableEq, Repr

/-- A KV sequence's record at its home (R460). Keyed by record slot; a partner's sequences stand from slot 65,536 up (log 16). -/
structure KvSeq where
  /-- | 32 bits | 10 R459 | absent | generation -/
  gen : BitVec 32
  /-- | 14 bits | 10 R459 | absent | isle -/
  isle : Nat
  /-- | 9 bits | 10 R452 | absent | layers -/
  layers : Nat
  /-- | 7 bits | 10 R452 | absent | kv_heads -/
  kvHeads : Nat
  /-- | 9 bits | 10 R452 | absent | head_dim -/
  headDim : Nat
  /-- | 4 bits | 10 R452 | absent | kv_fmt -/
  fmt : Nat
  /-- | 5 bits | 10 R452 | absent | group -/
  group : Nat
  /-- | 1 bit | 10 R452 | absent | sat -/
  sat : Bool
  /-- | up to 64 entries | 10 R456 | absent | placement: pool id, first span -/
  place : List (Nat × Nat)
  /-- | layers × 24 bits | 10 R460 | 0 at creation | fills -/
  fills : List Nat
  /-- | 32 bits | 10 R460 | 1 at creation | reference count -/
  refs : Nat
  /-- | 24 bits | 10 R502 | issuing ring | owner_ring -/
  owner : Nat
  /-- | 2 bits | 10 R502 | OWNED | state: 0 OWNED, 1 OFFERED, 2 ORPHANED -/
  ostate : Nat
  /-- | 1 bit | 10 R502 | 0 | sealed -/
  isSealed : Bool
  /-- | 24 bits | 10 R502 | 0 | target_ring -/
  target : Nat
  /-- | 256 bits each | 10 R496 | empty | content keys of its registry entries -/
  keys : List Nat
  /-- | 1 bit | 10 R506, R507 | 0 | the owner ring is gone -/
  ownerGone : Bool
  /-- | list | 10 R493, R504 | empty | mutating commands under way: lead pool id and command -/
  mutating : List (Nat × CmdKey)
  deriving DecidableEq, Repr

/-- Lagoon state (chapter 10). -/
structure Lagoon where
  /-- | 65,536 slots | 10 R460 | empty | sequence records homed here -/
  seqs : NMap KvSeq
  /-- | map | 10 R459 | 0 (DESIGN CHOICE, log 3) | generation of each slot that has been used -/
  gens : NMap (BitVec 32)
  /-- | list | 10 R454, R457 | empty | page maps: handle, layer, page index (position ÷ T), isle and virtual page as isle × 2^39 + page -/
  pages : List (Nat × Nat × Nat × Nat)
  /-- | map | 10 R457 | empty | page-map page of each sequence held: handle to isle × 2^39 + virtual page -/
  mapPages : NMap Nat
  /-- | 4,096 × 512 bytes | 10 R507 | empty | homes named by each SQ's commands; those of rings that a
  warm reset ended stand from 16,384 up until the homes are told (log 45) -/
  ringHomes : NMap (List Nat)
  /-- | 16 bits | 10 ISL_LAGOON_HOLDS | 50 | handoff_ms -/
  handoffMs : Nat
  /-- | 16 bits | 10 ISL_LAGOON_HOLDS | 10 | orphan_s -/
  orphanS : Nat
  deriving DecidableEq, Repr

/-- A staged contribution's place (R530, R532): its bytes lie in the staging area. -/
structure Staged where
  table  : Nat
  index  : Nat
  row    : Nat
  src    : Nat
  useq   : Nat
  pos    : Nat
  deriving DecidableEq, Repr

/-- A share of one update at a home (R529, R530). -/
structure Share where
  table  : Nat
  step   : BitVec 32
  src    : Nat
  useq   : Nat
  count  : Nat
  staged : Bool
  deriving DecidableEq, Repr

/-- A running migration (R545–R554). -/
structure Migration where
  /-- | key | 11 R545 | absent | ROW_MIGRATE -/
  cmd : CmdKey
  /-- | 16 bits | 11 R545 | absent | table -/
  table : Nat
  /-- | 12 bits | 11 R545 | absent | slot -/
  slot : Nat
  /-- | 12 bits | 11 R545 | absent | new home -/
  pool : Nat
  /-- | 55 bits | 11 R545 | absent | new_shard_va -/
  va : Nat
  /-- | 3 bits | 11 R548–R550 | absent | 0 waiting for the hold (HOME), 1 COPYING, 2 copied, 3 copying the log again, 4 commit notice sent -/
  phase : Nat
  /-- | 40 bits | 11 R549 | 0 | rows copied: the cursor -/
  cursor : Nat
  /-- | list | 11 R549 | empty | rows logged, ascending -/
  log : List Nat
  /-- | number | 11 R550 | 0 | rows copied again -/
  again : Nat
  /-- | 32 bits | 11 R550 | absent | step that the committing close closes -/
  step : BitVec 32
  deriving DecidableEq, Repr

/-- Embedding state (chapter 11). -/
structure Emb where
  /-- | 32 bits a table | 11 R515 | absent | open step of each table held; a partner's tables stand from 65,536 up (log 16) -/
  openStep : NMap (BitVec 32)
  /-- | list | 11 R535 | empty | tables whose step is closing here -/
  closing : List Nat
  /-- | list | 11 R529, R530 | empty | shares reserved and staged -/
  shares : List Share
  /-- | list | 11 R530, R532 | empty | staged contributions in their areas -/
  staged : List Staged
  /-- | map | 11 R535, R542 | empty | close last applied here for each table: step, lead, rows written, contributions applied -/
  lastClose : NMap (BitVec 32 × Nat × Nat × Nat)
  /-- | list | 11 R535 | empty | closes finished here that a reset interrupted: table, step -/
  interrupted : List (Nat × BitVec 32)
  /-- | 64 bits an isle | 11 R518 | 0 | dropped counters -/
  dropped : NMap Nat
  /-- | 2 × 32 bits a slot | 11 R543 | 0 | rows read and contributions staged: key table × 4,096 + slot -/
  counters : NMap (Nat × Nat)
  /-- | record | 11 R545 | absent | migration of this device -/
  migration : Option Migration
  /-- | list | 11 R552 | empty | FORWARDED slots: table, slot, new home, epoch e -/
  forwarded : List (Nat × Nat × Nat × BitVec 8)
  /-- | 8 bits | 11 MEM_FERRY_CTRL | 10 | hold_epochs -/
  holdEpochs : Nat
  /-- | 8 bits | 11 MEM_FERRY_CTRL | 32 | rate_gbps -/
  rateGbps : Nat
  /-- | number | 11 R548 | 0 | tiering epochs since the last cold or warm reset -/
  epochs : Nat
  deriving DecidableEq, Repr

/-- A root of a shard (R575) with its segment table (R570). -/
structure Root where
  /-- | 32 bits | 12 R575 | 0 | node_count -/
  nodes : Nat
  /-- | 32 bits | 12 R575 | 0 | live_count -/
  live : Nat
  /-- | 32 bits | 12 R575 | 0xFFFF_FFFF | entry_node -/
  entry : Nat
  /-- | list of 32-bit entries | 12 R570 | empty | segment table T -/
  segs : List Nat
  deriving DecidableEq, Repr

/-- A side entry (R575): sequence number, item id, norm, attributes, codes. -/
structure Side where
  seq   : Nat
  id    : Nat
  norm  : Nat
  attrs : List Nat
  codes : List Int
  deriving DecidableEq, Repr

/-- A merge that holds a snapshot (R603–R609). -/
structure Merge where
  /-- | key | 12 R603 | absent | command that runs it; none after a reset -/
  cmd : Option CmdKey
  /-- | 32 bits | 12 R603 | absent | snapshot side_tail -/
  sideTail : Nat
  /-- | 32 bits | 12 R603 | absent | snapshot tomb_tail -/
  tombTail : Nat
  /-- | list | 12 R604 | absent | the new graph: for each node number its record bytes, or nothing for an absent node -/
  graph : List (Option (List Byte))
  /-- | number | 12 R610 | absent | nodes and side entries removed -/
  removed : Nat
  /-- | number | 12 R591 | 0 | records that could not be read -/
  lost : Nat
  /-- | 32 bits | 12 R605 | absent | entry node of the new root -/
  entry : Nat
  /-- | list | 12 R606 | empty | slots of the segments written, 0xFFFF_FFFF for an empty segment -/
  written : List Nat
  /-- | number | 12 R606 | 0 | segments checkpointed -/
  checkpoint : Nat
  deriving DecidableEq, Repr

/-- A shard of an Atoll (R573–R580). Keyed by isle × 65,536 + atoll_id. -/
structure Shard where
  /-- | 12 bits | 12 R578 | absent | dims -/
  dims : Nat
  /-- | 2 bits | 12 R578 | absent | metric -/
  metric : Nat
  /-- | 7 bits | 12 R578 | absent | degree -/
  degree : Nat
  /-- | 32 bits | 12 R578 | absent | side_cap -/
  sideCap : Nat
  /-- | 32 bits | 12 R578 | absent | tomb_cap -/
  tombCap : Nat
  /-- | 32 bits | 12 R578 | absent | nav_pages -/
  navPages : Nat
  /-- | 55 bits | 12 R578 | absent | record_va -/
  recordVa : Nat
  /-- | number | 12 R569 | absent | S -/
  slots : Nat
  /-- | 55 bits | 12 R578 | absent | meta_va -/
  metaVa : Nat
  /-- | dims × 64 bits | 12 R573 | absent | scale and offset of each dimension as FP32 bits -/
  so : List (Nat × Nat)
  /-- | 1 bit | 12 R574 | 0 | active root: true is B -/
  active : Bool
  /-- | 1 bit | 12 R574 | 0 | merging -/
  merging : Bool
  /-- | 64 bits | 12 R574 | 0 | generation -/
  gen : BitVec 64
  /-- | 32 bits | 12 R574 | 0 | side_head -/
  sideHead : Nat
  /-- | 32 bits | 12 R574 | 0 | side_tail -/
  sideTail : Nat
  /-- | 32 bits | 12 R574 | 0 | tomb_head -/
  tombHead : Nat
  /-- | 32 bits | 12 R574 | 0 | tomb_tail -/
  tombTail : Nat
  /-- | record | 12 R575 | empty graph | root A -/
  rootA : Root
  /-- | record | 12 R575 | empty graph | root B -/
  rootB : Root
  /-- | list | 12 R574, R575 | empty | side entries -/
  sides : List Side
  /-- | list | 12 R575 | empty | tombstones: log position, item id -/
  tombs : List (Nat × Nat)
  /-- | list of node numbers | 12 R576 | empty | navigation cache -/
  nav : List Nat
  /-- | record | 12 R603 | absent | merge that holds a snapshot -/
  merge : Option Merge
  /-- | list | 12 R608 | empty | slots of the old root not yet freed -/
  oldSlots : List Nat
  deriving DecidableEq, Repr

/-- Atoll state (chapter 12). -/
structure Atolls where
  /-- | up to 256 | 12 R579 | empty | shards -/
  shards : NMap Shard
  /-- | list | 12 R594, R603 | empty | Reef threads in use: isle, threads, command -/
  threads : List (Nat × Nat × CmdKey)
  deriving DecidableEq, Repr

/-- The state of the block. DESIGN CHOICE (log 99). -/
structure State where
  harbour : Harbour
  trust   : Trust
  pool    : Pool
  clocks  : Clocks
  thermal : Thermal
  store   : Store
  flash   : Flash
  tide    : Tide
  /-- | 16,384 records | 02 R46 | empty (all FREE) | isle records by id -/
  isles   : NMap Isle
  trans   : Trans
  heddle  : Heddle
  /-- | 64 clusters | 09 R413; 02 R64 | none has served an isle | Shuttle clusters -/
  clusters : NMap Cluster
  bobbin  : Bobbin
  treadle : Treadle
  links   : Links
  twin    : Twin
  maps    : Maps
  lagoon  : Lagoon
  emb     : Emb
  atolls  : Atolls
  /-- | list | the model's own | empty | what the device has sent, newest last (log 5) -/
  out     : List Out
  /-- | number | the model's own | 0 (DESIGN CHOICE, log 4) | counter that the free values of Config are applied to -/
  free    : Nat
  /-- | queue | the model's own | empty | commands waiting, first in, first out (log 1) -/
  pending : List Instr
  deriving DecidableEq, Repr

/-! ## Reset -/

/-- A port before it is started (R761, STR_PORT_CTRL and STR_PORT_STATUS). -/
def Port.reset : Port :=
  { state := 0, retired := 0, los := false, reversed := false, attempts := 0, enable := true, beatOut := false, allowX4 := true,
    delay := 0, replays := 0, aliveGap := 0, nobind := 0, droppedBacks := 0, duplicates := 0, txIdle := true, started := false,
    failures := 0, warm := false, fallback := false, cmd := none, partner := none, retiring := none, rxSeq := 0x3FF, acked := 0x3FF,
    failing := none, replayFrom := none, credit := [0, 0, 0, 0, 0, 0], echoes := (0, 0),
    suspended := false, refusedHello := false }

/-- A flash channel before training. -/
def Chan.reset : Chan :=
  { present := false, capacity := 0, divider := 0, failed := false, wearLow := false, full := false, spare := 0, retired := 0 }

/-- A PCIe function after reset (R326). -/
def Fn.reset (vectors : Nat) : Fn :=
  { ringRec := 0, busy := false, status := 0, sqId := 0, cqId := 0, msix := [], bme := false, vectors := vectors, dropped := 0 }

/-- An MSI-X table entry after reset. -/
def Msix.reset : Msix := { addr := 0, data := 0, masked := true, pending := false }

/-- An empty mirror. -/
def Mirror.empty : Mirror :=
  { entries := [], windows := [], binds := [], isles := [], regions := [], dir := [], atomics := [], rings := [], plans := [],
    seqs := [], marks := [], stale := false, unitDone := false }

/-- The empty composition map of epoch 0 (R95). -/
def CompMap.empty : CompMap := { epoch := 0, tables := [], atolls := [] }

/-- Harbour before any reset; the flash journal is empty. -/
def Harbour.reset : Harbour :=
  { sealed := false, sealRefusals := 0, lastCause := 0, badAccess := 0, refusedWrites := 0, boot := 0, bootCause := 0,
    bootSource := 0, bootRefusals := 0, svn := 0, fwMajor := 0, compatId := 0, entry := 0, fwAddr := 0, fwLen := 0, image := [],
    parts := [], partsTotal := 0, verified := false, measurement := 0, cfgAddr := 0, blob := none, digest := 0, isleTable := 0,
    report := [], journal := [], jPool := 0xFFF, jEpoch := 0, jBeat := 0, jCause := 0, resetKind := 0, isle0Key := 0,
    inEntry := false, entryRise := false }

def Trust.reset : Trust :=
  { transport := none, lastKeySeq := none, pairing := none, keyCount := 0, threshold := 0, mgrKeys := [], accepted := [],
    refused := 0, transientCount := 0, lastingCount := 0, refusedCount := 0 }

def Pool.reset : Pool :=
  { id := 0xFFF, claimed := false, isolated := false, joined := false, epoch := 0, epochLatch := 0, nonce := none,
    conflict := false, smbPool := none, smbAddr := none, committed := false, epochs := [], members := [], flooded := [],
    refusing := [], expelled := [], enumIn := false, enumOut := none, rootAlert := false, tripped := false, pwrgd := false,
    resetN := true }

def Clocks.reset : Clocks :=
  { refSel := false, timingPort := 0, trimSrc := false, force := false, oscAlive := false, refclkAlive := false,
    rootAlive := false, pllLocked := false, holdover := false, refIsLane := false, switchPending := false, laneAlive := 0,
    trim := 0, domSel := BitVec.ofNat 100 (63 * 2 ^ 94), domForce := 0, domPending := 0,
    domReset := BitVec.ofNat 100 (2 ^ 100 - 1), domAsked := 0, vloom := 750, floor := 650, ceiling := 850, perStep := 2,
    stepUs := 2000, portsGo := false, stepDone := 0, portsStarted := 0 }

def Thermal.reset : Thermal :=
  { tj := ⟨0, 0⟩, hbm := ⟨0, 0⟩, warn := false, throttle := false, warnTj := false, warnHbm := false, throttled := false, refresh2x := false }

def Store.reset : Store :=
  { cells := [], poison := [], lost := [], pages := [], regions := [], hbmReady := false, ddrReady := false, popError := false,
    dimms := 0, dimmSize := 0, ddrSpeed := 0, speedCap := 4, eccTransient := 0, retired := [], dramHours := 24, flashDays := 7 }

def Flash.reset : Flash :=
  { chans := (List.range 16).map (fun k => (k, Chan.reset)), formatted := false, formatting := false, opApplied := 0,
    opSelect := 0, rawGib := 0, readTransient := 0, progTransient := 0, eraseTransient := 0, reads := [] }

def Tide.reset : Tide :=
  { enable := true, target := 1, epochMs := 100, warmupEpochs := 20, hbmThreshold := 256, seed := 16, ddrThreshold := 16,
    flashIdle := 50, hbmLow := 5, hbmTarget := 8, ddrLow := 5, ddrTarget := 8, maxMoves := 16384, maxDemotes := 4096,
    noRoom := 0, skipped := 0, abandoned := 0, warmup := true, waiting := [] }

def Trans.reset : Trans :=
  { tlb := [], micro := [], walks := [], walkQueue := [], drainBound := 100, grace := 20, windows := [], withdrawals := [],
    nextWd := 0 }

def Heddle.reset : Heddle :=
  { broadcast := false, dir := [], txns := [], agents := [], refusals := [], recalls := 0, cachingRefused := 0, wakeups := [],
    acquires := [], wakeCmds := [], clock := 0, caches := [] }

def Bobbin.reset : Bobbin :=
  { sqs := [], cqs := [], fns := [(0, Fn.reset 64)], pollGroups := [], msixAlloc := [], vfEnable := false, polls := [],
    pollQueue := [], latePolls := 0, lastServed := 4095, cmds := [], held := [], dropped := 0 }

def Treadle.reset : Treadle :=
  { beat := 0, latch := 0, period := 1, root := false, primary := 0, alternate := 31, locked := false, unsynced := false,
    onAlternate := false, hops := 0, phaseErr := 0, run := 0, sinceMarker := 0, rootId := 0xFFF, bg := 40, us := 100,
    prepare := 50, slack := 0, overruns := 0, missed := 0, plans := [], nextPlan := 0, admissions := 0, admitQueue := [],
    budgets := [] }

def Links.reset : Links :=
  { ports := (List.range 26).map (fun n => (n, Port.reset)), binds := [], vfBinds := [], routes := [], reqTimeout := 100,
    rxAlive := [], txAlive := [], parked := [], nextId := 0, outstanding := [] }

def Twin.reset : Twin :=
  { hbMiss := 3, probeUs := 200, takeoverUs := 500, state := .unpaired, partner := 0xFFF, held := 0xFFF, also := 0xFFF, mirror := Mirror.empty,
    probing := false, waits := [], nextItem := 0, pairCmd := none, peerPair := none, done := (false, false),
    peerSource := false, srcHeld := 0xFFF, peerCopied := (0, 0), source := false, toCopy := [], copied := 0,
    copiedBytes := 0, silent := 0 }

def Maps.reset : Maps := { cur := CompMap.empty, prev := none, grace := false }

def Lagoon.reset : Lagoon :=
  { seqs := [], gens := [], pages := [], mapPages := [], ringHomes := [], handoffMs := 50, orphanS := 10 }

def Emb.reset : Emb :=
  { openStep := [], closing := [], shares := [], staged := [], lastClose := [], interrupted := [], dropped := [], counters := [], migration := none,
    forwarded := [], holdEpochs := 10, rateGbps := 32, epochs := 0 }

def Atolls.reset : Atolls := { shards := [], threads := [] }

/-- The block at reset: every field at the value the spec states, or that the log names. -/
def State.reset : State :=
  { harbour := Harbour.reset, trust := Trust.reset, pool := Pool.reset, clocks := Clocks.reset, thermal := Thermal.reset,
    store := Store.reset, flash := Flash.reset, tide := Tide.reset, isles := [], trans := Trans.reset, heddle := Heddle.reset,
    clusters := [], bobbin := Bobbin.reset, treadle := Treadle.reset, links := Links.reset, twin := Twin.reset,
    maps := Maps.reset, lagoon := Lagoon.reset, emb := Emb.reset, atolls := Atolls.reset, out := [], free := 0, pending := [] }

end Sys2Proof.Machine
end

