-- ==== Sys2Proof/Machine/Mem.lean ====
section
/-! DEFINITION. The store by device offset: bytes and lines, the areas of the offset map, poison and lost marks, pages and
their quotas. -/

namespace Sys2Proof.Machine

/-! ## Cells -/

/-- The byte a list of cells gives an address; an unlisted address reads as zero (R80; log 2). -/
def Memory.read (m : List Host.Cell) (a : Nat) : Byte := NMap.getD m a 0

/-- A byte written: a zero removes the entry, so that equal contents are equal lists. -/
def Memory.write (m : List Host.Cell) (a : Nat) (b : Byte) : List Host.Cell := if b = 0 then NMap.del m a else NMap.set m a b

/-- Bytes written at consecutive addresses. -/
def Memory.writes (m : List Host.Cell) (a : Nat) : List Byte → List Host.Cell
  | [] => m
  | b :: bs => Memory.writes (Memory.write m a b) (a + 1) bs

/-- Every byte in `[a, a+n)` removed: they read as zero. -/
def Memory.clear (m : List Host.Cell) (a n : Nat) : List Host.Cell := m.filter (fun c => c.1 < a || a + n ≤ c.1)

/-- Whether the cells are in canonical form: addresses strictly rising, no entry equal to what an unlisted address reads as. -/
def Memory.wf : List Host.Cell → Bool
  | [] => true
  | [c] => c.2 != 0
  | c :: c' :: r => c.2 != 0 && c.1 < c'.1 && Memory.wf (c' :: r)

/-! ## The offset map (R37–R42) -/

/-- Size of a 64 KiB page. -/
abbrev pageSize : Nat := 65536

/-- Usable HBM: 179 GiB (R37). -/
def hbmEnd : Nat := 0x2CC0000000
/-- The Shuttle scratchpad windows: 64 windows of 2 MiB (R38). -/
def scratchBase : Nat := 0x4000000000
def scratchEnd : Nat := scratchBase + 64 * 0x200000
/-- The DDR data area begins here (R39). -/
def ddrBase : Nat := 0x40000000000
/-- The flash data area begins here (R39). -/
def flashBase : Nat := 0x1000000000000

/-- DIMM capacity in GiB by the dimm_size code of MEM_STATUS (chapter 18). -/
def dimmGib (c : Nat) : Nat := if c = 1 then 32 else if c = 2 then 64 else if c = 3 then 128 else if c = 4 then 256 else 0

/-- Usable 64 KiB pages of the DDR data area: 958/1024 of raw on eight channels (R42; R260 gives zero with a population error). -/
def ddrPages (s : State) : Nat :=
  if s.store.popError then 0 else 8 * s.store.dimms * dimmGib s.store.dimmSize * 16384 * 958 / 1024

/-- Usable 64 KiB pages of the flash data area after overprovisioning (R303); zero while unformatted (R809). -/
def flashPages (s : State) : Nat :=
  if s.flash.formatted then s.flash.rawGib * 16384 * (if s.flash.opApplied = 0 then 14 else 12) / 16 else 0

/-- Usable 64 KiB pages of the HBM data area. -/
def hbmPages : Nat := hbmEnd / pageSize

/-- The data area or scratchpad window that a device offset lies in; none for a reserved offset or a carve-out (R40). -/
def tierOf (s : State) (off : Nat) : Option Tier :=
  if off < hbmEnd then some .hbm
  else if scratchBase ≤ off ∧ off < scratchEnd then some .scratch
  else if ddrBase ≤ off ∧ off < ddrBase + ddrPages s * pageSize then some .ddr
  else if flashBase ≤ off ∧ off < flashBase + flashPages s * pageSize then some .flash
  else none

/-- First device page number and number of pages of a tier's data area. -/
def tierArea (s : State) : Tier → Nat × Nat
  | .hbm => (0, hbmPages)
  | .ddr => (ddrBase / pageSize, ddrPages s)
  | .flash => (flashBase / pageSize, flashPages s)
  | .scratch => (scratchBase / pageSize, 64 * 32)

/-- Cluster of a scratchpad offset (R38). -/
def scratchCluster (off : Nat) : Nat := (off - scratchBase) / 0x200000

/-! ## Bytes and lines -/

/-- `n` bytes from device offset `a`. -/
def readBytes (s : State) (a : Nat) : Nat → List Byte
  | 0 => []
  | n + 1 => Memory.read s.store.cells a :: readBytes s (a + 1) n

/-- The little-endian value of `n` bytes at device offset `a` (R3). -/
def readNat (s : State) (a n : Nat) : Nat := leVal (readBytes s a n)

/-- Bytes written at device offset `a`. -/
def writeBytes (a : Nat) (bs : List Byte) (s : State) : State :=
  { s with store := { s.store with cells := Memory.writes s.store.cells a bs } }

/-- `n` bytes from `a` set to zero. -/
def clearBytes (a n : Nat) (s : State) : State :=
  { s with store := { s.store with cells := Memory.clear s.store.cells a n } }

/-- The line at a line-aligned offset. -/
def readLine (s : State) (off : Nat) : Line := BitVec.ofNat 512 (readNat s off 64)

def writeLine (off : Nat) (l : Line) (s : State) : State := writeBytes off (leBytes l.toNat 64) s

/-- The line of an offset. -/
def lineOf (off : Nat) : Nat := off / 64 * 64

/-! ## Poison and lost marks (R669, R734) -/

def isPoisoned (s : State) (line : Nat) : Bool := s.store.poison.contains line
def isLost (s : State) (line : Nat) : Bool := s.store.lost.contains line

def setPoison (line : Nat) (s : State) : State :=
  { s with store := { s.store with poison := insertNat line s.store.poison } }

def clearPoison (line : Nat) (s : State) : State :=
  { s with store := { s.store with poison := s.store.poison.filter (· != line) } }

/-- A scratchpad line has no poison bit (R666); every other line takes the mark. -/
def markPoison (line : Nat) (p : Bool) (s : State) : State :=
  if p then (if scratchBase ≤ line ∧ line < scratchEnd then { s with store := { s.store with lost := insertNat line s.store.lost } }
             else setPoison line s)
  else clearPoison line s

def setLost (line : Nat) (s : State) : State := { s with store := { s.store with lost := insertNat line s.store.lost } }

def clearLost (line : Nat) (s : State) : State :=
  { s with store := { s.store with lost := s.store.lost.filter (· != line) } }

/-- A whole line written: its poison bit and lost mark are cleared (R670). -/
def putLine (off : Nat) (l : Line) (s : State) : State := writeLine off l (clearLost off (clearPoison off s))

/-- The status a read of a line meets: ST_DATA_LOST for a lost line, ST_POISON for a poisoned one (R670, R734). A scratchpad
line that keeps failing its check ends a read with ST_POISON (R666). -/
def lineStatus (s : State) (line : Nat) : Nat :=
  if isLost s line then (if scratchBase ≤ line ∧ line < scratchEnd then stPoison else stDataLost)
  else if isPoisoned s line then stPoison else stOk

/-- Lines that hold the bytes `[a, a+n)`. -/
def linesOf (a n : Nat) : List Nat :=
  if n = 0 then [] else (List.range ((a + n - 1) / 64 - a / 64 + 1)).map (fun i => (a / 64 + i) * 64)

/-- The first failing status of the lines under `[a, a+n)`. -/
def rangeStatus (s : State) (a n : Nat) : Nat :=
  match (linesOf a n).find? (fun l => lineStatus s l != stOk) with
  | some l => lineStatus s l
  | none => stOk

/-! ## Pages and quotas (R53–R56, R100) -/

def getPage (s : State) (p : Nat) : Option Page := NMap.get? s.store.pages p

def updPage (p : Nat) (f : Page → Page) (s : State) : State :=
  { s with store := { s.store with pages := NMap.upd s.store.pages p f } }

/-- Whether a device page lies in a tier's data area. -/
def inTier (t : Tier) (p : Nat) : Bool :=
  match t with
  | .hbm => p < hbmPages
  | .scratch => scratchBase / pageSize ≤ p && p < scratchEnd / pageSize
  | .ddr => ddrBase / pageSize ≤ p && p < flashBase / pageSize
  | .flash => flashBase / pageSize ≤ p

/-- Pages that count against an isle in a tier: those that lie there, and those on their way there (R56). -/
def tierUse (s : State) (isle : Nat) (t : Tier) : Nat :=
  (s.store.pages.filter (fun e => e.2.isle == isle && inTier t e.1)).length +
    (s.store.pages.filter (fun e => e.2.isle == isle &&
      (match e.2.move with | some m => inTier t (m.dest / pageSize) | none => false))).length

/-- The quota of an isle in a tier. DEDUCED (log 100). -/
def tierQuota (i : Isle) : Tier → Nat
  | .hbm => i.hbmQuota
  | .ddr => i.ddrQuota
  | .flash => i.flashQuota
  | .scratch => 0

/-- Whether a device page is taken: allocated, or the destination of a move. -/
def pageTaken (s : State) (p : Nat) : Bool :=
  (getPage s p).isSome || s.store.pages.any (fun e => match e.2.move with | some m => m.dest / pageSize == p | none => false)

/-- The lowest free page of a tier from page `p` up. `fuel` is one more than the pages taken, which bounds the search. -/
def freePageFrom (s : State) (p last : Nat) : Nat → Option Nat
  | 0 => none
  | fuel + 1 => if last ≤ p then none else if pageTaken s p then freePageFrom s (p + 1) last fuel else some p

/-- A free page of a tier: the lowest (DESIGN CHOICE, log 10). -/
def freePage (s : State) (t : Tier) : Option Nat :=
  freePageFrom s (tierArea s t).1 ((tierArea s t).1 + (tierArea s t).2) (2 * s.store.pages.length + 1)

/-- Free pages of a tier. -/
def freePages (s : State) (t : Tier) : Nat :=
  (tierArea s t).2 - (s.store.pages.filter (fun e => inTier t e.1)).length -
    (s.store.pages.filter (fun e => match e.2.move with | some m => inTier t (m.dest / pageSize) | none => false)).length

/-- The flash channel a new page is programmed on: the housekeeping engines choose among the present channels (R820; log 4). -/
def pickChannel (s : State) : Nat :=
  let cs := (s.flash.chans.filter (fun e => e.2.present && !e.2.full)).map (·.1)
  cs.getD (Config.freeChoice s.free % cs.length) 0

/-- A page allocated at device page `p` for a region; it reads as zero, with no mark (R80). -/
def allocPage (p isle : Nat) (vpage : Option Nat) (region : Nat) (counter : BitVec 16) (s : State) : State :=
  let s' := clearBytes (p * pageSize) pageSize s
  { s' with
    store := { s'.store with
      pages := NMap.set s'.store.pages p
        { isle := isle, vpage := vpage, region := region, counter := counter, idle := 0,
          chan := if inTier .flash p then pickChannel s else 0, move := none }
      poison := s'.store.poison.filter (fun l => l / pageSize != p)
      lost := s'.store.lost.filter (fun l => l / pageSize != p) }
    free := if inTier .flash p then s.free + 1 else s.free }

/-- A page released. -/
def dropPage (p : Nat) (s : State) : State :=
  { s with store := { s.store with pages := NMap.del s.store.pages p } }

/-- Whether an isle may take one more page of a tier (R54, R55). DEDUCED (log 100). -/
def tierRoom (s : State) (isle : Nat) (t : Tier) : Bool :=
  match NMap.get? s.isles isle with
  | some i => decide (tierUse s isle t < tierQuota i t) && (freePage s t).isSome
  | none => 16384 ≤ isle && (freePage s t).isSome

end Sys2Proof.Machine
end

