-- ==== Sys2Proof/Machine/Ops.lean ====
section
/-! DEFINITION. The operations that every chapter shares: outputs, events and completion records, commands in flight, and the
frame every meaning runs in. -/

namespace Sys2Proof.Machine

/-! ## Outputs -/

/-- The device sends something. -/
def emit (o : Out) (s : State) : State := { s with out := s.out ++ [o] }

/-! ## Completion records (R353, R354) -/

/-- The 32 bytes of a completion record; its crc is made with the crc field zero. -/
def recordBytes (tag status alive flags unit source count0 count1 beat : Nat) : List Byte :=
  let b := leBytes tag 4 ++ leBytes status 2 ++ leBytes alive 2 ++ leBytes flags 1 ++ leBytes unit 1 ++ leBytes source 2 ++
    leBytes count0 4 ++ leBytes count1 4 ++ leBytes beat 6 ++ leBytes 0 2
  b ++ leBytes (crc crc32c (b ++ leBytes 0 4)) 4

/-- Sequence numbers from `b` to `a`, modulo 2^32. -/
def seqDist (a b : BitVec 32) : Nat := (a - b).toNat

/-- Whether a CQ has a slot that neither a record nor a reservation holds (R344). -/
def Cq.free (q : Cq) : Bool := seqDist q.written q.consumed + q.reserved < 2 ^ q.log2

/-- The MSI-X entry of a function's vector. -/
def getMsix (s : State) (fn vec : Nat) : Msix :=
  match NMap.get? s.bobbin.fns fn with
  | some f => NMap.getD f.msix vec Msix.reset
  | none => Msix.reset

def updFn (fn : Nat) (f : Fn → Fn) (s : State) : State :=
  { s with bobbin := { s.bobbin with fns := NMap.upd s.bobbin.fns fn f } }

def updSq (q : Nat) (f : Sq → Sq) (s : State) : State :=
  { s with bobbin := { s.bobbin with sqs := NMap.upd s.bobbin.sqs q f } }

def updCq (q : Nat) (f : Cq → Cq) (s : State) : State :=
  { s with bobbin := { s.bobbin with cqs := NMap.upd s.bobbin.cqs q f } }

/-- Send a function's MSI-X vector; a masked vector sets its pending bit (R356). A function whose Bus Master Enable is clear
sends nothing (R764): its vector stays pending. PRESUMED (log 59). -/
def sendMsix (fn vec : Nat) (s : State) : State :=
  let m := getMsix s fn vec
  let live := match NMap.get? s.bobbin.fns fn with | some f => f.bme | none => false
  if m.masked || !live then updFn fn (fun f => { f with msix := NMap.set f.msix vec { m with pending := true } }) s
  else emit (.msix fn vec m.addr m.data) s

/-- A record that counts towards an interrupt was written to CQ `q` (R355). -/
def countIrq (q : Nat) (s : State) : State :=
  match NMap.get? s.bobbin.cqs q with
  | none => s
  | some c =>
    if !c.msixEn then s
    else if c.modTime = 0 || max c.modCount 1 ≤ c.counted + 1 then sendMsix c.fn c.msixVector (updCq q (fun c => { c with counted := 0 }) s)
    else updCq q (fun c => { c with counted := c.counted + 1 }) s

/-! ## Events (R359, R360) -/

/-- An event with status ST_OK. -/
def event (code unit source count0 count1 : Nat) : Event :=
  { code := code, tagHigh := 0, unit := unit, source := source, status := stOk, count0 := count0, count1 := count1 }

/-- Harbour firmware has an event to post. It holds up to 1,024 and drops the oldest beyond that (R359); `run` posts what the
events ring has room for. -/
def raise (e : Event) (s : State) : State :=
  if s.bobbin.held.length < 1024 then { s with bobbin := { s.bobbin with held := s.bobbin.held ++ [e] } }
  else { s with bobbin := { s.bobbin with held := s.bobbin.held.drop 1 ++ [e], dropped := s.bobbin.dropped + 1 } }

/-- The completion ring that events are posted to: that of the ring with events set, a PF0 host ring (R317); none while a thermal
trip holds the PCIe transmitters idle (R791). -/
def eventsCq (s : State) : Option (Nat × Cq) :=
  if s.pool.tripped then none else
  match s.bobbin.sqs.find? (fun e => e.2.events) with
  | none => none
  | some (_, q) =>
    match NMap.get? s.bobbin.cqs q.cq with
    | some c => if c.host && !c.broken then some (q.cq, c) else none
    | none => none

/-- Whether an event record can be posted now: a slot of the events ring's CQ is free and unreserved (R359). -/
def postable (s : State) : Bool :=
  match eventsCq s with
  | some (_, c) => c.free
  | none => false

/-- Write one event record to a host CQ. -/
def postRecord (q : Nat) (c : Cq) (e : Event) (s : State) : State :=
  let m := c.written.toNat
  let bytes := recordBytes (e.code + 65536 * e.tagHigh) e.status (m % 65536) (recordFlags (recordPhase m c.log2) false true)
    e.unit e.source e.count0 e.count1 s.treadle.beat.toNat
  countIrq q (updCq q (fun c => { c with written := c.written + 1 })
    (emit (.hostWrite c.fn (c.base + BitVec.ofNat 64 (m % 2 ^ c.log2 * 32)) bytes) s))

/-- Post the next event: the EVENT_OVERFLOW record first where events were dropped, then the held ones in order (R359). -/
def postNext (s : State) : Option State :=
  match eventsCq s with
  | none => none
  | some (q, c) =>
    if !c.free then none
    else if 0 < s.bobbin.dropped then
      some (postRecord q c (event evOverflow 0 0 (s.bobbin.dropped % 2 ^ 32) 0) { s with bobbin := { s.bobbin with dropped := 0 } })
    else
      match s.bobbin.held with
      | [] => none
      | e :: r => some (postRecord q c e { s with bobbin := { s.bobbin with held := r } })

/-- Post up to `n` events. -/
def postEvents (s : State) : Nat → State
  | 0 => s
  | n + 1 => match postNext s with | none => s | some s' => postEvents s' n

/-- Post every event that finds a free slot (R359). -/
def flushEvents (s : State) : State := postEvents s (s.bobbin.held.length + 1)

/-- Whether the device is powered, out of reset, and its root runs (R748, R753, R757): otherwise nothing but a reset, a power
event or a pin's level reaches it. DEDUCED (log 49). -/
def awake (s : State) : Bool := s.pool.pwrgd && s.pool.resetN && !s.pool.rootAlert

/-- The frame of the rows that act in every condition of the device: the effect on everything but the queue, then the events that
find a free slot are posted. -/
def runAlways (f : State → State) (s : State) : Host.Outcome State Fault Refusal :=
  .next { flushEvents (f s) with pending := s.pending }

/-- The frame of every other row: a device that is not awake stays as it is. DEDUCED (log 49). -/
def run (f : State → State) (s : State) : Host.Outcome State Fault Refusal :=
  if awake s then runAlways f s else .next s

/-! ## Commands in flight -/

/-- The command in flight of a key. -/
def cmd? (s : State) (k : CmdKey) : Option Cmd := s.bobbin.cmds.find? (fun c => c.key == k)

def updCmd (k : CmdKey) (f : Cmd → Cmd) (s : State) : State :=
  { s with bobbin := { s.bobbin with cmds := s.bobbin.cmds.map (fun c => if c.key = k then f c else c) } }

def dropCmd (k : CmdKey) (s : State) : State :=
  { s with bobbin := { s.bobbin with cmds := s.bobbin.cmds.filter (fun c => c.key != k) } }

/-- A command of an isle with its descriptor, as it enters flight. -/
def freshCmd (k : CmdKey) (isle desc : Nat) (phase : Phase) : Cmd :=
  { key := k, isle := isle, desc := desc, arg := [], phase := phase, status := stOk, count0 := 0, count1 := 0, short := false,
    forceIrq := false, done := 0, aux := [], pages := [], fwd := [], flashRead := [], unacked := [], subs := [], lead := none,
    data := { words := [], bytes := [] }, epoch := 0, pick := none, due := 0, overrun := false, clusters := [], slots := [] }

/-- Opcode of a command (R328). -/
def Cmd.opcode (c : Cmd) : Nat := bits c.desc 0 16

/-- Field of a descriptor: `len` bits from bit `lo` of byte `byte`. -/
def Cmd.fld (c : Cmd) (byte lo len : Nat) : Nat := bits c.desc (8 * byte + lo) len

/-- Whether descriptor bytes `[lo, hi]` are all zero. -/
def Cmd.zero (c : Cmd) (lo hi : Nat) : Bool := bits c.desc (8 * lo) (8 * (hi + 1 - lo)) == 0

/-- Whether the bits `[lo, lo+len)` of byte `byte` on are zero. -/
def Cmd.rz (c : Cmd) (byte lo len : Nat) : Bool := c.fld byte lo len == 0

/-- The isle virtual address in the 8 bytes at byte `byte`, with bits [63:55] reserved. -/
def Cmd.va (c : Cmd) (byte : Nat) : Nat := c.fld byte 0 55

/-- The commands of the same ring fetched before a command (R180, R186): those that stand before it in fetch order. -/
def earlier (s : State) (k : CmdKey) : List Cmd :=
  (s.bobbin.cmds.takeWhile (fun c => c.key != k)).filter (fun c => c.key.sq == k.sq && c.lead.isNone)

/-- Whether an incomplete FENCE or ACQUIRE fetched earlier holds a command back (R180, R186). -/
def heldBack (s : State) (k : CmdKey) : Bool :=
  (earlier s k).any (fun c => (c.opcode == 0x0030 || c.opcode == 0x0032) && c.phase != .ended)

/-- Whether a command needs a Shuttle cluster, a Reef die or a DMA engine, whose new dispatch a throttle stops (R790). -/
def onEngine (op : Nat) : Bool :=
  (0x0010 ≤ op && op ≤ 0x0018) || op == 0x0040 || (0x0100 ≤ op && op ≤ 0x0304) || op == 0x0405

/-- Whether a command may be given its row: dispatched, not ended, not held back, and not stopped by a thermal throttle or
trip before it has begun. -/
def runnable (s : State) (c : Cmd) : Bool :=
  (c.phase == .running || (c.phase == .ready && !((s.thermal.throttled || s.pool.tripped) && onEngine c.opcode))) &&
    !heldBack s c.key

/-- Act on a command of one opcode that may run; an event that names no such command changes nothing (log 7). -/
def withCmd (k : CmdKey) (op : Nat) (f : Cmd → State → State) (s : State) : State :=
  match cmd? s k with
  | none => s
  | some c => if c.opcode == op && runnable s c then f c s else s

/-! ## Routes (R651, R652) -/

/-- Whether a port carries messages. -/
def portUp (s : State) (n : Nat) : Bool :=
  match NMap.get? s.links.ports n with
  | some p => p.state == 2 || p.state == 3
  | none => false

/-- A route entry that nothing has been written to. -/
def Route.none : Route := { mask := 0, aliasId := 0, aliasValid := false, redirected := false, standbyId := 0, standbyValid := false }

/-- The twin alias that is installed. -/
def Route.twinAlias (r : Route) : Option Nat := if r.aliasValid then some r.aliasId else .none

/-- The standby that is installed. -/
def Route.standby (r : Route) : Option Nat := if r.standbyValid then some r.standbyId else .none

def routeOf (s : State) (pid : Nat) : Route := NMap.getD s.links.routes pid Route.none

/-- The ports of a mask that are up, lowest first. -/
def upPorts (s : State) (mask : BitVec 24) : List Nat := (List.range 24).filter (fun i => mask.getLsbD i && portUp s i)

/-- The port that a stream's messages to a pool id leave on: none where no port of the route is up (R652). -/
def portFor (s : State) (pid stream : Nat) : Option Nat :=
  let r := routeOf s pid
  let eff := if r.redirected then (match r.twinAlias with | some a => routeOf s a | none => r) else r
  let ups := upPorts s eff.mask
  if ups = [] then none else ups[stream % ups.length]?

/-- Count a message sent on a stream towards a destination (R624). -/
def countSent (dst stream : Nat) (s : State) : State :=
  let a : BitVec 16 := match NMap.get? s.links.txAlive (dst * 256 + stream) with | some a => a + 1 | none => 0
  { s with links := { s.links with txAlive := NMap.set s.links.txAlive (dst * 256 + stream) a } }

/-- The port that a reply leaves on: that of the requester's route for the stream, and where the route has none up, the port the
request came in on (DEDUCED from R652; log 22). -/
def replyPort (h : Hdr) (s : State) : Nat := (portFor s h.src h.stream).getD h.port

/-- Send an answer to the requester of a message (R617, R624). -/
def emitReply (h : Hdr) (f : Nat → Out) (s : State) : State := countSent h.src h.stream (emit (f (replyPort h s)) s)

/-- The answer to a sub-command (R617, R622). -/
def answerSub (c : Cmd) (h : Hdr) (s : State) : State :=
  emitReply h (fun p => .subDone p h.src h.stream h.tag c.status
    (if c.status = stStaleEpoch then s.maps.cur.epoch.toNat else if c.status = stReroute then c.count0 % 4096 else 0) c.count0
    c.count1 c.data) s

/-- Release what a command holds of the engines: its Reef threads, its ACQUIRE entry, its flash reads. -/
def releaseEngines (k : CmdKey) (s : State) : State :=
  { s with
    atolls := { s.atolls with threads := s.atolls.threads.filter (fun t => t.2.2 != k) }
    heddle := { s.heddle with acquires := s.heddle.acquires.filter (fun a => a.1 != k),
                              wakeCmds := s.heddle.wakeCmds.filter (· != k) }
    flash := { s.flash with reads := s.flash.reads.filter (fun r => r.1 != k) } }

/-- A command ends with a status and two counts. A ring command waits for its record (COMPLETION_WRITE); a sub-command's
answer goes to its lead once every twin item it sent is acknowledged (R160, R23). -/
def endCmd (k : CmdKey) (status count0 count1 : Nat) (s : State) : State :=
  match cmd? s k with
  | none => s
  | some c =>
    if c.phase = .ended then s
    else
      let c' := { c with phase := .ended, status := status % 65536, count0 := count0 % 2 ^ 32, count1 := count1 % 2 ^ 32,
                         clusters := [], slots := [] }
      let s := releaseEngines k s
      match c.lead with
      | none => updCmd k (fun _ => c') s
      | some h => if c.unacked = [] then dropCmd k (answerSub c' h s) else updCmd k (fun _ => c') s

/-- End with a 64-bit value in the two counts, low half first. -/
def endCmd64 (k : CmdKey) (status v : Nat) (s : State) : State := endCmd k status (v % 2 ^ 32) (v / 2 ^ 32) s

/-- End with a status for which the spec states no counts: both are free values (log 8). -/
def endFree (k : CmdKey) (status : Nat) (s : State) : State :=
  endCmd64 k status (Config.freeWord s.free).toNat { s with free := s.free + 1 }

/-- End with ST_STALE_EPOCH: the current epoch in bits [7:0] of the first count (R90), the rest free. -/
def endStale (k : CmdKey) (s : State) : State :=
  endCmd64 k stStaleEpoch ((Config.freeWord s.free).toNat / 256 * 256 + s.maps.cur.epoch.toNat) { s with free := s.free + 1 }

/-- End with ST_BAD_DESCRIPTOR. -/
def badDesc (k : CmdKey) (s : State) : State := endFree k stBadDescriptor s

/-- A command begins to run. -/
def startCmd (k : CmdKey) (s : State) : State := updCmd k (fun c => { c with phase := .running }) s

/-- The state with the first of a list of refusals applied to a command, or what follows where none applies. -/
def refuseOr (k : CmdKey) (checks : List (Bool × Nat)) (go : State → State) (s : State) : State :=
  match checks.find? (fun c => c.1) with
  | some (_, status) => endFree k status s
  | none => go s

/-! ## Isles -/

/-- Isles of the partner, as the twin holds them, are numbered from here (the model's own numbering, log 16). -/
abbrev twinIsle : Nat := 16384

/-- An isle's record: the device's own, or the partner's as mirrored. -/
def isle? (s : State) (i : Nat) : Option Isle :=
  if i < twinIsle then NMap.get? s.isles i else NMap.get? s.twin.mirror.isles (i - twinIsle)

def updIsle (i : Nat) (f : Isle → Isle) (s : State) : State := { s with isles := NMap.upd s.isles i f }

/-- Whether an isle is ACTIVE (R47). -/
def isleActive (s : State) (i : Nat) : Bool :=
  match isle? s i with
  | some r => r.state == .active
  | none => false

/-- The submission ring a command came from. -/
def sqOf (s : State) (k : CmdKey) : Option Sq := NMap.get? s.bobbin.sqs k.sq

/-- Whether a command was fetched from a PF0 management ring (R358). -/
def onManagement (s : State) (k : CmdKey) : Bool :=
  match sqOf s k with
  | some q => q.management
  | none => false

/-- A value of the free counter used; the next use sees the next value (log 4). -/
def nextFree (s : State) : State := { s with free := s.free + 1 }

/-! ## The twin's items (R707) -/

/-- Whether the device mirrors its state now: PAIRED, or the source of a resync under way (R728). -/
def mirroring (s : State) : Bool := s.twin.state == .paired || (s.twin.state == .resync && s.twin.source)

/-- Send one item of twin state; its number is the twin's next item number before the call. -/
def twinSend (kind : Nat) (words : List Nat) (bytes : List Byte) (s : State) : State :=
  emit (.twin { id := s.twin.nextItem, kind := kind, words := words, bytes := bytes })
    { s with twin := { s.twin with nextItem := s.twin.nextItem + 1 } }

/-- Send an item that a command waits for before its record is written (R160). -/
def twinFor (k : CmdKey) (kind : Nat) (words : List Nat) (bytes : List Byte) (s : State) : State :=
  if mirroring s then
    let id := s.twin.nextItem
    let s := twinSend kind words bytes s
    updCmd k (fun c => { c with unacked := c.unacked ++ [id] })
      { s with twin := { s.twin with waits := s.twin.waits ++ [(id, .cmd k)] } }
  else s

/-- State code of an isle record (R46). -/
def isleCode : IsleState → Nat
  | .free => 0
  | .created => 1
  | .active => 2
  | .quiescing => 3
  | .resetting => 4

/-- An isle's key pair as its item carries it: wrapped under the pairing key, with the item's number as the initialization
vector, plus one; 0 where the isle has none (R691; log 28). -/
def wrappedKeys (s : State) (keys : Option Nat) : Nat :=
  match keys, s.trust.pairing with
  | some x, some p => Config.gcmWrap p s.twin.nextItem x + 1
  | _, _ => 0

/-- The words of an isle record's item (R707): the record, then its key pair as it crosses. -/
def isleWords (s : State) (i : Nat) (r : Isle) : List Nat :=
  [i, isleCode r.state, r.timeShared.toNat, r.weight, r.ringQuota, r.transRoot, r.bar2Base, r.heddleQuota, r.shuttleQuota, r.reefQuota,
   r.hbmQuota, r.ddrQuota, r.flashQuota, r.clusterMask.toNat, wrappedKeys s r.keys]

/-- Send an item that nothing waits for. -/
def twinNote (kind : Nat) (words : List Nat) (bytes : List Byte) (s : State) : State :=
  if mirroring s then twinSend kind words bytes s else s

/-- An isle record set, or removed where the isle is FREE; the command that changes it waits for the twin (R707). -/
def setIsle (k : Option CmdKey) (i : Nat) (r : Option Isle) (s : State) : State :=
  let s := { s with isles := match r with | some r => NMap.set s.isles i r | none => NMap.del s.isles i }
  let words := match r with | some r => isleWords s i r | none => [i]
  match k with
  | some k => twinFor k 5 words [] s
  | none => twinNote 5 words [] s

end Sys2Proof.Machine
end

