-- ==== Sys2Proof/Machine/Xlat.lean ====
section
/-! DEFINITION. Address translation (chapter 03): entries, walks, table pages, the translation caches, pins, and what a plan
keeps pinned. -/

namespace Sys2Proof.Machine

/-! ## Translation entries (R98) -/

def eValid (e : Nat) : Bool := bit e 0
def eNext (e : Nat) : Bool := bit e 1
def eContig (e : Nat) : Bool := bit e 2
def eRead (e : Nat) : Bool := bit e 3
def eWrite (e : Nat) : Bool := bit e 4
def eAtomic (e : Nat) : Bool := bit e 5
def eTlbPin (e : Nat) : Bool := bit e 6
def eTierPin (e : Nat) : Bool := bit e 7
def eCoherent (e : Nat) : Bool := bit e 8
def eMirrored (e : Nat) : Bool := bit e 9
def eType (e : Nat) : Nat := bits e 10 2
/-- Device offset named by an entry: bits [51:16]. -/
def eOff (e : Nat) : Nat := bits e 16 36 * pageSize

/-- An entry with one bit changed. -/
def eSet (e i : Nat) (b : Bool) : Nat := e - (e.testBit i).toNat * 2 ^ i + b.toNat * 2 ^ i

/-- The entry of a page: rights read 1, write 2, atomic 4 (R98). -/
def mkEntry (rights : Nat) (tlbPin tierPin coherent mirrored contig : Bool) (ty off : Nat) : Nat :=
  1 + 4 * contig.toNat + 8 * (rights % 8) + 64 * tlbPin.toNat + 128 * tierPin.toNat + 256 * coherent.toNat +
    512 * mirrored.toNat + 1024 * (ty % 4) + off

/-- An entry that names a next-level table (R99). -/
def mkNext (off : Nat) : Nat := 3 + off

/-- Whether an entry at a level carries a reserved encoding (R98, R99, R103). -/
def eReserved (level e : Nat) : Bool :=
  bits e 12 4 != 0 || bits e 52 12 != 0 ||
    (if eNext e then level == 3 || bits e 2 10 != 0
     else level == 1 || (level == 2 && (eContig e || bits e 16 13 != 0)))

/-! ## Walks -/

/-- What a walk finds (R103, R113). -/
inductive Walk where
  | entry (e : Nat)
  | notMapped
  | reserved
  | poison
  deriving DecidableEq, Repr

/-- Device offset of the entry of a level for a virtual page: the page's index bits of that level (R97). -/
def entryAt (table level vpage : Nat) : Nat :=
  table + (if level = 1 then vpage / 2 ^ 26 % 8192 else if level = 2 then vpage / 2 ^ 13 % 8192 else vpage % 8192) * 8

/-- Read the entry of a level; poison and reserved encodings end the walk (R103). -/
def readEntry (s : State) (table level vpage : Nat) : Walk :=
  let a := entryAt table level vpage
  let e := readNat s a 8
  if lineStatus s (lineOf a) != stOk then .poison
  else if !eValid e then .notMapped
  else if eReserved level e then .reserved
  else .entry e

/-- The walk of R113 in an isle's tables, from its level-1 table. A block's page is given the page's own offset. -/
def walkFrom (s : State) (root vpage : Nat) : Walk :=
  match readEntry s root 1 vpage with
  | .entry e1 =>
    match readEntry s (eOff e1) 2 vpage with
    | .entry e2 =>
      if eNext e2 then readEntry s (eOff e2) 3 vpage else .entry (e2 + vpage % 8192 * pageSize)
    | w => w
  | w => w

/-- Whether a withdrawal that passed its checks covers a page (R137). -/
def withdrawing (s : State) (isle vpage : Nat) : Bool :=
  s.trans.withdrawals.any (fun w => w.isle == isle && w.vpages.contains vpage)

/-- The entry of a page of a partner's isle, as the twin holds it (R707, R718). -/
def mirrorEntry (s : State) (isle vpage : Nat) : Option Nat := NMap.get? s.twin.mirror.entries ((isle - twinIsle) * 2 ^ 39 + vpage)

/-- The walk for a page of an isle: withdrawn pages and reserved offsets are not mapped (R137, R40). -/
def walk (s : State) (isle vpage : Nat) : Walk :=
  if twinIsle ≤ isle then (match mirrorEntry s isle vpage with | some e => .entry e | none => .notMapped)
  else
  match isle? s isle with
  | none => .notMapped
  | some r =>
    match walkFrom s r.transRoot vpage with
    | .entry e => if withdrawing s isle vpage || (tierOf s (eOff e)).isNone then .notMapped else .entry e
    | w => w

/-- Whether a page has a valid entry, withdrawn or not (R145). -/
def mapped (s : State) (isle vpage : Nat) : Bool :=
  if twinIsle ≤ isle then (mirrorEntry s isle vpage).isSome
  else
  match isle? s isle with
  | none => false
  | some r => match walkFrom s r.transRoot vpage with | .entry _ => true | _ => false

/-- The entry of a mapped page, withdrawn or not. -/
def entryOf (s : State) (isle vpage : Nat) : Option Nat :=
  if twinIsle ≤ isle then mirrorEntry s isle vpage
  else
  match isle? s isle with
  | none => none
  | some r => match walkFrom s r.transRoot vpage with | .entry e => some e | _ => none

/-- Whether an entry has the rights an access needs: read 1, write 2, atomic 4 (R114). -/
def hasRights (e need : Nat) : Bool := (!bit need 0 || eRead e) && (!bit need 1 || eWrite e) && (!bit need 2 || eAtomic e)

/-- The entry of an isle virtual address for an access, or the status that ends it (R96, R113, R114). -/
def xlat (s : State) (isle va need : Nat) : Nat ⊕ Nat :=
  if 2 ^ 55 ≤ va then .inr stNotMapped
  else
    match walk s isle (va / pageSize) with
    | .entry e => if hasRights e need then .inl e else .inr stPermission
    | .notMapped => .inr stNotMapped
    | .reserved => .inr stInternal
    | .poison => .inr stPoison

/-- The virtual pages of `[va, va+len)`. -/
def pagesOf (va len : Nat) : List Nat :=
  if len = 0 then [] else (List.range ((va + len - 1) / pageSize - va / pageSize + 1)).map (fun i => va / pageSize + i)

/-- The status of the first page of a range that an access may not reach; ST_OK where none. -/
def xlatRange (s : State) (isle va len need : Nat) : Nat :=
  match (pagesOf va len).findSome? (fun p => match xlat s isle (p * pageSize) need with | .inl _ => none | .inr st => some st) with
  | some st => st
  | none => stOk

/-- The translation-fault event of a walk that read a reserved encoding (R103). -/
def faultEvent (isle va st : Nat) (s : State) : State :=
  if st = stInternal then raise (event evTranslationFault 0 isle (va % 2 ^ 32) (va / 2 ^ 32)) s else s

/-- Device offset of a mapped address. -/
def offOf (s : State) (isle va : Nat) : Option Nat :=
  match walk s isle (va / pageSize) with
  | .entry e => some (eOff e + va % pageSize)
  | _ => none

/-! ## Translation caches (R108–R112) -/

/-- First page and granule of the mapping an entry belongs to: a page, or the 2 MiB run of a contig entry (R104). -/
def granOf (vpage e : Nat) : Nat × Nat := if eContig e then (vpage / 32 * 32, 21) else (vpage, 16)

/-- Whether a cached entry covers a page of an isle. -/
def TlbEntry.covers (t : TlbEntry) (isle vpage : Nat) : Bool :=
  t.isle == isle && t.vpage ≤ vpage && vpage < t.vpage + 2 ^ (t.gran - 16)

/-- Set index of an entry in the shared TLB (R110). -/
def tlbSet (isle vpage gran : Nat) : Nat :=
  let p := vpage >>> (gran - 16)
  p % 4096 ^^^ (p >>> 12) % 4096 ^^^ isle % 4096 ^^^ ((isle >>> 12) % 4) <<< 10

def tlbHit (l : List TlbEntry) (isle vpage : Nat) : Bool := l.any (fun t => t.covers isle vpage)

/-- Whether a requester's translation hits in its micro-TLB or the shared TLB. -/
def xlatHit (s : State) (holder isle vpage : Nat) : Bool :=
  tlbHit (NMap.getD s.trans.micro holder []) isle vpage || tlbHit s.trans.tlb isle vpage

/-- Drop entry number `n` of the entries that meet `p`. -/
def dropNth (p : TlbEntry → Bool) : Nat → List TlbEntry → List TlbEntry
  | _, [] => []
  | n, t :: r => if p t then (if n = 0 then r else t :: dropNth p (n - 1) r) else t :: dropNth p n r

/-- Fill the shared TLB and one micro-TLB (R112); a full set loses an unpinned entry (R115), a full micro-TLB any entry; which
one is the device's choice (log 4). An entry that is there already is left. -/
def tlbFill (holder isle vpage e : Nat) (s : State) : State :=
  let g := granOf vpage e
  let t : TlbEntry := { isle := isle, vpage := g.1, gran := g.2, entry := e, pinned := eTlbPin e }
  let inSet := fun (x : TlbEntry) => tlbSet x.isle x.vpage x.gran == tlbSet isle g.1 g.2
  let victims := s.trans.tlb.filter (fun x => inSet x && !x.pinned)
  let tlb :=
    if tlbHit s.trans.tlb isle vpage then s.trans.tlb
    else if (s.trans.tlb.filter inSet).length < 16 then s.trans.tlb ++ [t]
    else if victims = [] then s.trans.tlb
    else dropNth (fun x => inSet x && !x.pinned) (Config.freeChoice s.free % victims.length) s.trans.tlb ++ [t]
  let m := NMap.getD s.trans.micro holder []
  let m' := if tlbHit m isle vpage then m else
    (if m.length < 64 then m else dropNth (fun _ => true) (Config.freeChoice (s.free + 1) % m.length) m) ++ [t]
  { s with trans := { s.trans with tlb := tlb, micro := NMap.set s.trans.micro holder m' }, free := s.free + 2 }

/-- Remove every cached entry that meets `p` from the shared TLB and every micro-TLB. -/
def tlbDrop (p : TlbEntry → Bool) (s : State) : State :=
  { s with trans := { s.trans with
      tlb := s.trans.tlb.filter (fun t => !p t)
      micro := s.trans.micro.map (fun m => (m.1, m.2.filter (fun t => !p t))) } }

/-- The caches after the entry of a page changed: a pinned entry is rewritten in place (R120), others are invalidated. -/
def tlbRewrite (isle vpage e : Nat) (s : State) : State :=
  { s with trans := { s.trans with
      tlb := (s.trans.tlb.filter (fun t => !(t.covers isle vpage) || (eTlbPin e && t.gran == 16))).map
        (fun t => if t.covers isle vpage then { t with entry := e, pinned := true } else t)
      micro := s.trans.micro.map (fun m => (m.1, m.2.filter (fun t => !(t.covers isle vpage)))) } }

/-! ## Writing tables (R100–R102, R105, R107) -/

/-- Write the level-3 entry of a page whose tables exist. DESIGN CHOICE (log 21). -/
def putEntry (isle vpage e : Nat) (s : State) : State :=
  if twinIsle ≤ isle then
    { s with twin := { s.twin with mirror := { s.twin.mirror with
      entries := NMap.set s.twin.mirror.entries ((isle - twinIsle) * 2 ^ 39 + vpage) e } } }
  else
  match isle? s isle with
  | none => s
  | some r =>
    match readEntry s r.transRoot 1 vpage with
    | .entry e1 =>
      match readEntry s (eOff e1) 2 vpage with
      | .entry e2 => if eNext e2 then tlbRewrite isle vpage e (writeBytes (entryAt (eOff e2) 3 vpage) (leBytes e 8) s) else s
      | _ => s
    | _ => s

/-- A change of one page's entry inside a 2 MiB run first splits the run: contig is cleared on its 32 entries (R107). -/
def splitRun (isle vpage : Nat) (s : State) : State :=
  match entryOf s isle vpage with
  | some e =>
    if eContig e then
      (List.range 32).foldl (fun s i =>
        match entryOf s isle (vpage / 32 * 32 + i) with
        | some e' => putEntry isle (vpage / 32 * 32 + i) (eSet e' 2 false) s
        | none => s) s
    else s
  | none => s

/-- The isle's new table page, taken from HBM under its quota (R100). -/
def newTable (isle : Nat) (s : State) : Option (Nat × State) :=
  if tierRoom s isle .hbm then
    match freePage s .hbm with
    | some p => some (p * pageSize, allocPage p isle none 0 0 s)
    | none => none
  else none

/-- Make the level-2 and level-3 tables of a page exist; none where the HBM quota or free HBM cannot take them (R78). -/
def ensureTable (isle vpage : Nat) (s : State) : Option State :=
  if twinIsle ≤ isle then some s
  else
  match isle? s isle with
  | none => none
  | some r =>
    let l2 : Option (Nat × State) :=
      match readEntry s r.transRoot 1 vpage with
      | .entry e1 => some (eOff e1, s)
      | _ =>
        match newTable isle s with
        | some (off, s') => some (off, writeBytes (entryAt r.transRoot 1 vpage) (leBytes (mkNext off) 8) s')
        | none => none
    match l2 with
    | none => none
    | some (t2, s) =>
      match readEntry s t2 2 vpage with
      | .entry e2 => if eNext e2 then some s else none
      | _ =>
        match newTable isle s with
        | some (off, s') => some (writeBytes (entryAt t2 2 vpage) (leBytes (mkNext off) 8) s')
        | none => none

/-- The tables of every page of a range, all or none. -/
def ensureTables (isle : Nat) : List Nat → State → Option State
  | [], s => some s
  | p :: r, s => match ensureTable isle p s with | some s' => ensureTables isle r s' | none => none

/-- Whether every byte of a table page is zero: all its entries are invalid. -/
def tableEmpty (s : State) (off : Nat) : Bool := !(s.store.cells.any (fun c => off ≤ c.1 && c.1 < off + pageSize))

/-- Release the level-3 and level-2 tables of a page that hold no valid entry (R102). -/
def releaseTable (isle : Nat) (s : State) (vpage : Nat) : State :=
  if twinIsle ≤ isle then s
  else
  match isle? s isle with
  | none => s
  | some r =>
    match readEntry s r.transRoot 1 vpage with
    | .entry e1 =>
      let s :=
        match readEntry s (eOff e1) 2 vpage with
        | .entry e2 =>
          if eNext e2 && tableEmpty s (eOff e2) then
            dropPage (eOff e2 / pageSize) (clearBytes (entryAt (eOff e1) 2 vpage) 8 s)
          else s
        | _ => s
      if tableEmpty s (eOff e1) then dropPage (eOff e1 / pageSize) (clearBytes (entryAt r.transRoot 1 vpage) 8 s) else s
    | _ => s

/-- Clear the entry of a page, and its cached copies. -/
def clearEntry (isle : Nat) (s : State) (vpage : Nat) : State :=
  let s := splitRun isle vpage s
  if twinIsle ≤ isle then
    tlbDrop (fun t => t.covers isle vpage) { s with twin := { s.twin with mirror := { s.twin.mirror with
      entries := NMap.del s.twin.mirror.entries ((isle - twinIsle) * 2 ^ 39 + vpage) } } }
  else
  match isle? s isle with
  | none => s
  | some r =>
    match readEntry s r.transRoot 1 vpage with
    | .entry e1 =>
      match readEntry s (eOff e1) 2 vpage with
      | .entry e2 =>
        if eNext e2 then
          tlbDrop (fun t => t.covers isle vpage) (clearBytes (entryAt (eOff e2) 3 vpage) 8 s)
        else s
      | _ => s
    | _ => s

/-! ## Pins (R115–R119) -/

/-- Entries pinned in the shared TLB. -/
def pinnedCount (s : State) : Nat := (s.trans.tlb.filter (·.pinned)).length

/-- Whether one more pinned entry for a page keeps both limits: 16,384 in all, 8 ways of a set (R115). -/
def canPin (s : State) (isle vpage e : Nat) : Bool :=
  let g := granOf vpage e
  pinnedCount s < 16384 &&
    (s.trans.tlb.filter (fun t => t.pinned && tlbSet t.isle t.vpage t.gran == tlbSet isle g.1 g.2)).length < 8

/-- Pin the entry of one page: tlb_pin set, and a pinned entry in the shared TLB, in place of an unpinned one where the set is
full. -/
def pinPage (isle vpage : Nat) (s : State) : Option State :=
  let s := splitRun isle vpage s
  match entryOf s isle vpage with
  | none => none
  | some e =>
    if s.trans.tlb.any (fun t => t.pinned && t.covers isle vpage) then some (putEntry isle vpage (eSet e 6 true) s)
    else if canPin s isle vpage e then
      let s := putEntry isle vpage (eSet e 6 true) (tlbDrop (fun t => t.covers isle vpage) s)
      some (tlbFill 27 isle vpage (eSet e 6 true) s)
    else none

/-- Pin every page of a list, all or none (R116, R130). -/
def pinPages (isle : Nat) : List Nat → State → Option State
  | [], s => some s
  | p :: r, s => match pinPage isle p s with | some s' => pinPages isle r s' | none => none

/-- Unpin one page. -/
def unpinPage (isle : Nat) (s : State) (vpage : Nat) : State :=
  let s := splitRun isle vpage s
  match entryOf s isle vpage with
  | none => s
  | some e => putEntry isle vpage (eSet e 6 false) (tlbDrop (fun t => t.covers isle vpage) s)

/-- Isle of the pick ring `sq` on this device (R382). -/
def ringIsle (s : State) (sq : Nat) : Nat := match NMap.get? s.bobbin.sqs sq with | some q => q.isle | none => 0

/-- The ring of a pick: a plan inherited at a takeover, whose key lies above the handles, names the partner's rings (log 16). -/
def planRing (h sq : Nat) : Nat := if h < 2 ^ 32 then sq else 8192 + sq

/-- Whether an admitted, started, paused or tentative plan of this device uses a page of an isle: one of its picks here touches
it (R119, R299, R401). -/
def planUses (s : State) (isle vpage : Nat) : Bool :=
  s.treadle.plans.any (fun p => p.2.state != .preparing && p.2.text.picks.any (fun k =>
    k.member == p.2.me && ringIsle s (planRing p.1 k.sq) == isle &&
      ((p.2.text.ranges.drop k.first).take k.ranges).any (fun r =>
        r.2.1 == p.2.me && r.1 / pageSize ≤ vpage && vpage < r.1 / pageSize + r.2.2)))

/-- The page owner table (R240): the isle and virtual address of a device offset, for a mapped data page. -/
def ownerOf (s : State) (off : Nat) : Option (Nat × Nat) :=
  match getPage s (off / pageSize) with
  | some p => match p.vpage with | some v => some (p.isle, v * pageSize + off % pageSize) | none => none
  | none => none

/-- How an item of twin state names a line: its isle and isle virtual address (R661, R707; log 16). -/
def twinKey (s : State) (off : Nat) : List Nat :=
  match ownerOf s off with
  | some (i, va) => [i, va]
  | none => []

/-- The LINE_POISONED and FLASH_DATA_LOST subject of a device offset: isle id and isle virtual address (R666, R734). -/
def lineEvent (code unit off : Nat) (s : State) : State :=
  match ownerOf s off with
  | some (i, va) => raise (event code unit i (va % 2 ^ 32) (va / 2 ^ 32)) s
  | none => raise (event code unit 0 (off % 2 ^ 32) (off / 2 ^ 32)) s

/-! ## Regions -/

/-- The regions of an isle's space: the device's own, or its partner's as the twin holds them (R707). -/
def regionsOf (s : State) (isle : Nat) : NMap Region := if isle < twinIsle then s.store.regions else s.twin.mirror.regions

/-- The region that an address of an isle lies in: that of its page, or the one whose range holds the address. -/
def regionAt (s : State) (isle va : Nat) : Option (Nat × Region) :=
  let page := match entryOf s isle (va / pageSize) with | some e => getPage s (eOff e / pageSize) | none => none
  let byPage := match page with | some p => (regionsOf s isle).find? (fun r => r.1 == p.region && p.vpage.isSome) | none => none
  match byPage with
  | some r => some r
  | none => (regionsOf s isle).find? (fun r => r.2.isle == isle % twinIsle && r.2.va ≤ va && va < r.2.va + r.2.len)

/-- A region record set or removed in an isle's space. -/
def setRegion (isle id : Nat) (r : Option Region) (s : State) : State :=
  let f := fun (m : NMap Region) => match r with | some r => NMap.set m id r | none => NMap.del m id
  if isle < twinIsle then { s with store := { s.store with regions := f s.store.regions } }
  else { s with twin := { s.twin with mirror := { s.twin.mirror with regions := f s.twin.mirror.regions } } }

/-- Key of a region's resync watermark. -/
def regionKey (pool id : Nat) : Nat := pool * 2 ^ 32 + id

/-- How an address of a taken-over pool id is served (R721, R731): ST_OK, or ST_REROUTE with the replica's pool id, or ST_DATA_LOST,
where its region is not mirrored or lies beyond the resync watermark. -/
def tookOver (s : State) (isle va e : Nat) : Nat × Nat :=
  if isle < twinIsle && s.twin.also == 0xFFF then (stOk, 0)
  else
    let pool := if isle < twinIsle then s.twin.also else s.twin.held
    match regionAt s isle va with
    | none => if !eMirrored e && twinIsle ≤ isle then (stDataLost, 0) else (stOk, 0)
    | some (id, g) =>
      let mark := NMap.get? s.twin.mirror.marks (regionKey pool id)
      if (!eMirrored e && twinIsle ≤ isle) || mark.any (fun m => m * 2 ^ 26 ≤ va - g.va) then
        (match g.replica with | some x => (stReroute, x) | none => (stDataLost, 0))
      else (stOk, 0)

/-- A status with the hint of ST_REROUTE above its 16 bits. -/
def packHint (x : Nat × Nat) : Nat := x.1 + 65536 * x.2

end Sys2Proof.Machine
end

