-- ==== Sys2Proof/Machine/Heddle.lean ====
section
/-! DEFINITION. The Heddle (chapter 05): directory entries, ways and the spill area, snoops inside and outside the device, open
transactions, watched lines, and the loss of an agent's copies. -/

namespace Sys2Proof.Machine

/-! ## The directory -/

def dirGet (s : State) (off : Nat) : Option DirEntry := NMap.get? s.heddle.dir off
def dirSet (off : Nat) (e : DirEntry) (s : State) : State := { s with heddle := { s.heddle with dir := NMap.set s.heddle.dir off e } }
def dirDel (off : Nat) (s : State) : State := { s with heddle := { s.heddle with dir := NMap.del s.heddle.dir off } }
def txnGet (s : State) (off : Nat) : Option Txn := NMap.get? s.heddle.txns off
def txnSet (off : Nat) (t : Txn) (s : State) : State := { s with heddle := { s.heddle with txns := NMap.set s.heddle.txns off t } }
def txnDel (off : Nat) (s : State) : State := { s with heddle := { s.heddle with txns := NMap.del s.heddle.txns off } }

/-- The tracked line number L of a device offset (R206). -/
def lineNo (off : Nat) : Nat := off / 64 % 2 ^ 37
/-- Directory set of a line (R207). -/
def dirSetOf (off : Nat) : Nat := lineNo off % 2 ^ 18 ^^^ (lineNo off >>> 18) % 2 ^ 18
/-- Spill bucket of a line (R233). -/
def dirBucketOf (off : Nat) : Nat := lineNo off % 2 ^ 20 ^^^ (lineNo off >>> 20) % 2 ^ 17

/-- Whether an entry's state has an external owner. -/
def DirState.ext : DirState → Bool
  | .extExcl | .extDirty | .extOwned => true
  | _ => false

/-- Whether an entry's state has an internal owner. -/
def DirState.int : DirState → Bool
  | .intMod | .intOwned => true
  | _ => false

/-- The external agents that hold an index and are not lost. -/
def liveAgents (s : State) : List Nat := (s.heddle.agents.filter (fun a => !a.2.lost)).map (·.1)

/-- The external agents that may hold a copy of an entry's line: the owner, and the sharers as the directory mode records them;
in broadcast mode every agent with an index (R219). -/
def extHolders (s : State) (e : DirEntry) : List Nat :=
  let sharers :=
    if s.heddle.broadcast then (if e.extSharers then liveAgents s else [])
    else (List.range 64).filter (fun i => e.extVector.getLsbD i)
  if e.state.ext then (if sharers.contains e.owner then sharers else e.owner :: sharers) else sharers

/-- The entry with an external sharer added. -/
def addExt (s : State) (a : Nat) (e : DirEntry) : DirEntry :=
  if s.heddle.broadcast then { e with extSharers := true }
  else { e with extVector := e.extVector ||| (1 <<< a : BitVec 64) }

/-- The entry with an external sharer removed; in broadcast mode nothing tells who held a copy (R258). -/
def delExt (a : Nat) (e : DirEntry) : DirEntry := { e with extVector := e.extVector &&& ~~~(1 <<< a : BitVec 64) }

def addInt (c : Nat) (e : DirEntry) : DirEntry := { e with intShared := e.intShared ||| (1 <<< c : BitVec 64) }

/-- Whether any copy remains recorded. -/
def anyHolder (e : DirEntry) : Bool :=
  e.state.ext || e.state.int || e.extVector != 0 || e.extSharers || e.intShared != 0

/-- Store an entry, or free it where no holder remains. -/
def putOrFree (off : Nat) (e : DirEntry) (s : State) : State := if anyHolder e then dirSet off e s else dirDel off s

/-- An entry with no holder yet. -/
def freshEntry (s : State) : DirEntry :=
  { state := .shared, owner := 0, extVector := 0, extSharers := false, intShared := 0, spilled := false, used := s.heddle.clock }

/-! ## Line caches (R197–R199) -/

def cacheGet (s : State) (cl off : Nat) : Option CacheLine :=
  s.heddle.caches.find? (fun c => c.cluster == cl && c.off == off)

def cachePut (c : CacheLine) (s : State) : State :=
  { s with heddle := { s.heddle with
      caches := s.heddle.caches.filter (fun x => !(x.cluster == c.cluster && x.off == c.off)) ++ [c] } }

/-- The dirty copy of a line in a line cache. -/
def cacheDirty (s : State) (off : Nat) : Option CacheLine := s.heddle.caches.find? (fun c => c.off == off && c.state != .s)

/-- Every line-cache copy of a line given up (SNP_INV); the dirty data where one was M or O. -/
def intInvalidate (off : Nat) (s : State) : Option Line × State :=
  ((cacheDirty s off).map (·.data), { s with heddle := { s.heddle with caches := s.heddle.caches.filter (fun c => c.off != off) } })

/-- A line-cache owner keeps at most O (SNP_SHARED). -/
def intShare (off : Nat) (s : State) : State :=
  { s with heddle := { s.heddle with
      caches := s.heddle.caches.map (fun c => if c.off = off ∧ c.state = .m then { c with state := .o } else c) } }

/-- A cluster gives up one cached line: dirty data goes to memory and the entry loses the cluster. -/
def dropCached (s : State) (c : CacheLine) : State :=
  let s := if c.state != .s then writeLine c.off c.data s else s
  let s := { s with heddle := { s.heddle with
    caches := s.heddle.caches.filter (fun x => !(x.cluster == c.cluster && x.off == c.off)) } }
  match dirGet s c.off with
  | none => s
  | some e =>
    let e := { e with intShared := e.intShared &&& ~~~(1 <<< c.cluster : BitVec 64) }
    let e := if e.state.int && e.owner == c.cluster then { e with state := .shared, owner := 0 } else e
    putOrFree c.off e s

/-- A cluster writes back and drops every line of its cache (R64, R199). -/
def flushCluster (cl : Nat) (s : State) : State := (s.heddle.caches.filter (fun c => c.cluster == cl)).foldl dropCached s

/-- Room for one more line in a cluster's line cache of 4,096 lines (R413): the line cached longest is given up. -/
def cacheRoom (cl off : Nat) (s : State) : State :=
  let mine := s.heddle.caches.filter (fun c => c.cluster == cl && c.off != off)
  if mine.length < 4096 then s
  else match mine with | c :: _ => dropCached s c | [] => s

/-- A cluster takes a line into its cache. -/
def cacheTake (cl off : Nat) (st : CacheState) (l : Line) (s : State) : State :=
  cachePut { cluster := cl, off := off, state := st, data := l } (cacheRoom cl off s)

/-! ## Snoops to external agents -/

/-- The remote address a snoop to an agent carries: the recorded window and the offset of the line's isle virtual address in it
(R824). DEDUCED (log 65). -/
def snoopAddr (s : State) (a : Agent) (off : Nat) : BitVec 64 :=
  match a.window, ownerOf s off with
  | some (w, base, _), some (_, va) => BitVec.ofNat 64 (s.pool.id * 2 ^ 52 + w * 2 ^ 40 + (va - base))
  | _, _ => BitVec.ofNat 64 (s.pool.id * 2 ^ 52)

/-- The lowest tag that no open snoop to an agent uses (R617). -/
def snoopTag (s : State) (idx : Nat) : Nat :=
  ((List.range 512).find? (fun t => !s.heddle.txns.any (fun x => x.2.pending.contains (idx, t)))).getD 511

/-- Send a snoop to an agent, over the route of its stream. DEDUCED (log 65). -/
def sendSnoop (off : Nat) (inv : Bool) (s : State) (x : Nat × Nat) : State :=
  match NMap.get? s.heddle.agents x.1 with
  | some a =>
    countSent a.src a.stream
      (emit (.snoop ((portFor s a.src a.stream).getD a.port) a.src a.stream x.2 inv (snoopAddr s a off)) s)
  | none => s

/-- Open a transaction on a line and send its snoops. -/
def openTxn (off : Nat) (who : Who) (inv : Bool) (dests : List Nat) (discard : Bool) (s : State) : State :=
  let l := dests.map (fun i => (i, snoopTag s i))
  l.foldl (sendSnoop off inv)
    (txnSet off { who := who, inv := inv, pending := l, data := none, lost := false, discard := discard } s)

/-! ## Watched lines (R241–R248) -/

/-- Device offsets of the doorbell lines in the store that live rings watch. -/
def watchedLines (s : State) : List Nat :=
  (s.bobbin.sqs.flatMap (fun q => if q.2.dbHost then [] else (offOf s q.2.isle (q.2.dbLine.toNat / 64 * 64)).toList)) ++
    (s.bobbin.cqs.flatMap (fun q => if q.2.dbHost then [] else (offOf s q.2.isle (q.2.dbLine.toNat / 64 * 64)).toList))

def isWatched (s : State) (off : Nat) : Bool := (watchedLines s).contains off

/-- What a write to a line, visible now, wakes: Bobbin where the line holds doorbells, and the ACQUIREs that hold an entry on
it (R246, R247). -/
def wake (off : Nat) (s : State) : State :=
  let s := if isWatched s off then { s with heddle := { s.heddle with wakeups := insertNat off s.heddle.wakeups } } else s
  let ks := (s.heddle.acquires.filter (fun a => a.2 == off)).map (·.1)
  { s with heddle := { s.heddle with wakeCmds := s.heddle.wakeCmds ++ ks.filter (fun k => !s.heddle.wakeCmds.contains k) } }

/-! ## Losing an agent (R252–R255) -/

/-- Apply R252 to one entry for a lost agent. DEDUCED (log 89). -/
def reclaim (idx : Nat) (s : State) (off : Nat) : State :=
  match dirGet s off, NMap.get? s.heddle.agents idx with
  | some e, some a =>
    let mine := e.state.ext && e.owner == idx
    let shares := !s.heddle.broadcast && e.extVector.getLsbD idx
    let count := fun (r p : Nat) (s : State) =>
      let a' := { a with reclaimed := a.reclaimed + r, poisonedLost := a.poisonedLost + p }
      { s with heddle := { s.heddle with agents := NMap.set s.heddle.agents idx a' } }
    if mine && e.state == .extExcl then
      count 1 0 (putOrFree off { (delExt idx e) with state := .shared, owner := 0 } s)
    else if mine then
      -- poisoned-lost (R253): memory keeps the last written-back value, the other holders give up their copies
      let others := (extHolders s e).filter (· != idx)
      let s := count 0 1 (dirDel off (setPoison off (intInvalidate off s).2))
      if others = [] then s else openTxn off .recall true others true s
    else if shares then count 1 0 (putOrFree off (delExt idx e) s)
    else s
  | _, _ => s

/-- Agents that are lost and not yet swept. -/
def lostAgents (s : State) : List Nat := (s.heddle.agents.filter (·.2.lost)).map (·.1)

/-- A request that touches an entry recording a lost agent applies R252 to it first (R255). -/
def tidyEntry (off : Nat) (s : State) : State := (lostAgents s).foldl (fun s i => reclaim i s off) s

/-! ## Ways, spilling and quota (R231–R236, R240) -/

/-- Whether a line's transaction is open: its entry is pinned (R231). -/
def txnOpen (s : State) (off : Nat) : Bool := (txnGet s off).isSome

/-- The least recently used unpinned entry of a set. -/
def victimOf (s : State) (set : Nat) : Option (Nat × DirEntry) :=
  (s.heddle.dir.filter (fun e => !e.2.spilled && dirSetOf e.1 == set && !txnOpen s e.1)).foldl
    (fun best e => match best with | none => some e | some b => if e.2.used < b.2.used then some e else best) none

/-- Recall-invalidate a line: every holder gives it up, dirty data is written to memory, the entry is freed (R235). Holders
outside the device are snooped; the entry then goes when they have answered. -/
def recallLine (off : Nat) (who : Who) (s : State) : State :=
  match dirGet s off with
  | none => s
  | some e =>
    let r := intInvalidate off s
    let s := match r.1 with | some l => writeLine off l r.2 | none => r.2
    let ext := extHolders s e
    if ext = [] then dirDel off s
    else openTxn off who true ext false
      (dirSet off { e with intShared := 0, state := if e.state.int then .shared else e.state } s)

/-- Make a way of a line's set available: a free way, or the victim spilled, or the victim recalled where its bucket is full.
False where the request must wait: every way pinned, or a recall of an external copy under way. -/
def makeWay (off : Nat) (s : State) : Bool × State :=
  let set := dirSetOf off
  if (s.heddle.dir.filter (fun e => !e.2.spilled && dirSetOf e.1 == set)).length < 16 then (true, s)
  else
    match victimOf s set with
    | none => (false, s)
    | some (v, e) =>
      if (s.heddle.dir.filter (fun x => x.2.spilled && dirBucketOf x.1 == dirBucketOf v)).length < 64 then
        (true, dirSet v { e with spilled := true } s)
      else
        let s := recallLine v .recall { s with heddle := { s.heddle with recalls := s.heddle.recalls + 1 } }
        ((dirGet s v).isNone, s)

/-- Directory entries that count against an isle (R240). -/
def dirUse (s : State) (isle : Nat) : Nat :=
  (s.heddle.dir.filter (fun e => match ownerOf s e.1 with | some (i, _) => i == isle | none => false)).length

/-- Whether an isle may take one more entry (R240). -/
def dirRoom (s : State) (off : Nat) : Bool :=
  match ownerOf s off with
  | some (i, _) => match isle? s i with | some r => decide (dirUse s i < r.heddleQuota) | none => false
  | none => false

/-- How a request of the Heddle stands: answered; waiting for the line's open transaction; waiting for a way; refused. -/
inductive Hed where
  | grant (state : Nat) (line : Line) (status : Nat)
  | busy
  | noWay
  | refused (status : Nat)
  deriving DecidableEq, Repr

/-- Grants carry I 0, S 1, E 2, M 3. -/
abbrev grantI : Nat := 0
abbrev grantS : Nat := 1
abbrev grantE : Nat := 2
abbrev grantM : Nat := 3

/-- Who asks: an external agent, a cluster, or a requester that keeps no copy. -/
inductive Asker where
  | ext (idx : Nat)
  | cluster (n : Nat)
  | none
  deriving DecidableEq, Repr

def addAsker (s : State) (a : Asker) (e : DirEntry) : DirEntry :=
  match a with
  | .ext i => addExt s i e
  | .cluster n => addInt n e
  | .none => e

/-- A line forwarded to the request already. -/
def fwdGet (fwd : List (Nat × Line × Bool)) (off : Nat) : Option (Line × Bool) :=
  match fwd.find? (fun f => f.1 == off) with
  | some (_, l, p) => some (l, p)
  | none => none

/-- Use of an entry now: its time, and a spilled one moved back into its set (R234). DEDUCED (log 88). -/
def touchEntry (off : Nat) (s : State) : Bool × State :=
  match dirGet s off with
  | none => (true, s)
  | some e =>
    let r := if e.spilled then makeWay off s else (true, s)
    if r.1 then
      (true, dirSet off { e with spilled := false, used := r.2.heddle.clock }
        { r.2 with heddle := { r.2.heddle with clock := r.2.heddle.clock + 1 } })
    else r

/-- RD_SHARED, a line-cache read and RD_UNCACHED (R210). `who` is what the line's transaction answers, `fwd` what a holder has
forwarded, `mayE` whether E may be granted (R823). DEDUCED (log 66). DEDUCED (log 96). -/
def hedRead (a : Asker) (who : Who) (fwd : List (Nat × Line × Bool)) (mayE : Bool) (off : Nat) (s : State) : Hed × State :=
  if txnOpen s off then (.busy, s)
  else
    let s := tidyEntry off s
    if txnOpen s off then (.busy, s)
    else
    let t := touchEntry off s
    let s := t.2
    if !t.1 then (.noWay, s)
    else
    match dirGet s off with
    | none =>
      -- memory, or the line the holder wrote back while it was snooped (R212); the grant is then S and not E
      let d := match fwdGet fwd off with
        | some (l, p) => (l, if p then stPoison else stOk)
        | none => (readLine s off, lineStatus s off)
      if d.2 != stOk then (.grant grantI d.1 d.2, s)
      else if a = .none then (.grant grantI d.1 stOk, s)
      else if !dirRoom s off then (.grant grantI d.1 stOk, s)
      else
        let w := makeWay off s
        if !w.1 then (.noWay, w.2)
        else
          let s := w.2
          match a with
          | .ext i =>
            if mayE && !isWatched s off && (fwdGet fwd off).isNone then
              (.grant grantE d.1 stOk, dirSet off { freshEntry s with state := .extExcl, owner := i } s)
            else (.grant grantS d.1 stOk, dirSet off (addExt s i (freshEntry s)) s)
          | .cluster n => (.grant grantS d.1 stOk, dirSet off (addInt n (freshEntry s)) s)
          | .none => (.grant grantI d.1 stOk, s)
    | some e =>
      let g := if a = .none then grantI else grantS
      match fwdGet fwd off with
      | some (l, p) =>
        if p then (.grant grantI l stPoison, s)
        else (.grant g l stOk, dirSet off (addAsker s a e) s)
      | none =>
        if e.state = .shared then
          let st := lineStatus s off
          if st != stOk then (.grant grantI 0 st, s)
          else (.grant g (readLine s off) stOk, dirSet off (addAsker s a e) s)
        else if e.state.ext then (.busy, openTxn off who false [e.owner] false s)
        else
          let l := match cacheDirty s off with | some c => c.data | none => readLine s off
          (.grant g l stOk, dirSet off (addAsker s a { e with state := .intOwned }) (intShare off s))

/-- Take a line out of every cache before a write at memory (WR_LINE, WR_PARTIAL, an atomic at memory): true once no copy is
left and a returned line has been merged into memory (R210). -/
def hedClear (who : Who) (off : Nat) (s : State) : Bool × State :=
  if txnOpen s off then (false, s)
  else
    let s := tidyEntry off s
    if txnOpen s off then (false, s)
    else
    match dirGet s off with
    | none => (true, s)
    | some e =>
      let r := intInvalidate off s
      let s := match r.1 with | some l => writeLine off l r.2 | none => r.2
      let ext := extHolders s e
      if ext = [] then (true, dirDel off s)
      else (false, openTxn off who true ext false
        (dirSet off { e with intShared := 0, state := if e.state.int then .shared else e.state } s))

/-- RD_OWN and UPGRADE by an external agent (R210, R213, R240, R243). `keep` is true for an UPGRADE from a recorded holder, whose
grant carries no data. -/
def hedOwn (idx : Nat) (who : Who) (fwd : List (Nat × Line × Bool)) (off : Nat) (s : State) : Hed × State :=
  if txnOpen s off then (.busy, s)
  else
    let s := tidyEntry off s
    if txnOpen s off then (.busy, s)
    else
    let grantFrom := fun (l : Line) (st : Nat) (s : State) =>
      (Hed.grant grantM l st, dirSet off { freshEntry s with state := .extDirty, owner := idx } s)
    match dirGet s off with
    | none =>
      let d := match fwdGet fwd off with
        | some (l, p) => (l, if p then stPoison else stOk)
        | none => (readLine s off, lineStatus s off)
      if !dirRoom s off && (fwdGet fwd off).isNone then (.refused stQuota, s)
      else
        let w := makeWay off s
        if !w.1 then (.noWay, w.2) else grantFrom d.1 d.2 w.2
    | some e =>
      let t := touchEntry off s
      if !t.1 then (.noWay, t.2)
      else
        let s := t.2
        let others := (extHolders s e).filter (· != idx)
        let r := intInvalidate off s
        let mem := match fwdGet fwd off with
          | some (l, p) => (l, if p then stPoison else stOk)
          | none => (readLine s off, lineStatus s off)
        let data := match r.1 with | some l => (l, stOk) | none => mem
        if others = [] then grantFrom data.1 data.2 r.2
        else
          -- the line a line cache returned is kept at memory until the grant; the other agents are snooped
          let s := match r.1 with | some l => writeLine off l r.2 | none => r.2
          (.busy, openTxn off who true others false
            (dirSet off { e with intShared := 0, state := if e.state.int then .shared else e.state } s))

/-- Whether the Heddle records an agent as a holder of a line (R213). -/
def isHolder (s : State) (idx off : Nat) : Bool :=
  match dirGet s off with
  | some e => (e.state.ext && e.owner == idx) || (!s.heddle.broadcast && e.extVector.getLsbD idx) || (s.heddle.broadcast && e.extSharers)
  | none => false

/-- Gain M of a line for a cluster's line cache (R220): the line's data, or none while copies outside are being taken back. An
entry that cannot be allocated for quota, a watched line, or a poisoned line leaves the access to memory under the transaction
(R240, R245): the second component is then false. -/
def hedOwnInt (cl : Nat) (who : Who) (off : Nat) (s : State) : Option (Line × Bool) × State :=
  match cacheGet s cl off with
  | some c =>
    if c.state = .m then (some (c.data, true), s)
    else
      let r := hedClear who off s
      if !r.1 then (none, r.2)
      else
        let l := readLine r.2 off
        (some (l, true), cacheTake cl off .m l
          (dirSet off { freshEntry r.2 with state := .intMod, owner := cl } r.2))
  | none =>
    let known := (dirGet s off).isSome
    let r := hedClear who off s
    if !r.1 then (none, r.2)
    else
      let s := r.2
      let l := readLine s off
      if isWatched s off || lineStatus s off != stOk || !(known || dirRoom s off) then (some (l, false), s)
      else
        let w := makeWay off s
        if !w.1 then (none, w.2)
        else (some (l, true), cacheTake cl off .m l
          (dirSet off { freshEntry w.2 with state := .intMod, owner := cl } w.2))

/-- Write bytes of a line a cluster holds in M. -/
def cacheWrite (cl off : Nat) (f : Line → Line) (s : State) : State :=
  { s with heddle := { s.heddle with
      caches := s.heddle.caches.map (fun c => if c.cluster = cl ∧ c.off = off then { c with data := f c.data } else c) } }

/-! ## Closing a transaction -/

/-- What an entry becomes when the snoops of a line's transaction are all answered (R210, R212). DEDUCED (log 66). -/
def settleEntry (off : Nat) (t : Txn) (s : State) : State :=
  match dirGet s off with
  | none => s
  | some e =>
    if t.inv then
      -- every other holder has given its copy up; a requester that keeps one is recorded by its grant
      dirDel off s
    else
      match e.state with
      | .extExcl =>
        if t.data.isSome then dirSet off { e with state := .extOwned } s
        else dirSet off { (addExt s e.owner e) with state := .shared, owner := 0 } s
      | .extDirty => dirSet off { e with state := .extOwned } s
      | _ => s

/-- Bytes `[pos, pos + new.length)` of a line replaced. -/
def mergeLine (l : Line) (pos : Nat) (new : List Byte) : Line := BitVec.ofNat 512 (leVal (splice (leBytes l.toNat 64) pos new))

/-- The bytes of a line selected by a 64-bit mask replaced (WR_PARTIAL). -/
def maskLine (old new : Line) (mask : BitVec 64) : Line :=
  BitVec.ofNat 512 (leVal ((List.range 64).map (fun j =>
    if mask.getLsbD j then BitVec.ofNat 8 (new.toNat >>> (8 * j)) else BitVec.ofNat 8 (old.toNat >>> (8 * j)))))

end Sys2Proof.Machine
end

