-- ==== Sys2Proof/Machine/Access.lean ====
section
/-! DEFINITION. How commands reach memory: pages of every tier (chapter 06), pieces and lines of a range (R156, R167), lines
that caches outside hold, and writes with everything a visible write sets off. -/

namespace Sys2Proof.Machine

/-! ## Pages of every tier (R262–R273, R285–R292) -/

/-- Who reaches memory (R263, R197): a load or store that promotes flash-resident pages and keeps no copy; a DMA engine; a Reef
die; a Shuttle cluster, which promotes as a load does and keeps coherent DRAM lines in its line cache; a Lagoon operator on KV
pages, whose write right R458 keeps clear. -/
inductive Acc where
  | load
  | dma
  | reef
  | shuttle (cl : Nat)
  | lagoon
  deriving DecidableEq, Repr

/-- The rights an access needs (R114, R458): read 1, write 2. -/
def Acc.need (a : Acc) (wr : Bool) : Nat := if a = .lagoon then 0 else if wr then 2 else 1

/-- How an access to a page stands. -/
inductive Reach where
  | at (off : Nat)
  | wait (why : Why)
  | fail (status : Nat)
  deriving DecidableEq, Repr

/-- Key of a page of an isle, for what waits for it. -/
def pageKey (isle vpage : Nat) : Nat := isle * 2 ^ 39 + vpage

/-- The DRAM tier a promotion or replacement goes to: the one promote_target names where the isle's quota and free space allow,
else the other (R266). -/
def promoTier (s : State) (isle : Nat) : Option Tier :=
  let a : Tier := if s.tide.target = 0 then .hbm else .ddr
  let b : Tier := if s.tide.target = 0 then .ddr else .hbm
  if tierRoom s isle a then some a else if tierRoom s isle b then some b else none

/-- Promotions in flight, in all and on one channel (R270). -/
def promosInFlight (s : State) : Nat := (s.store.pages.filter (fun e => e.2.move.any (·.why == 1))).length
def promosOn (s : State) (chan : Nat) : Nat :=
  (s.store.pages.filter (fun e => e.2.chan == chan && e.2.move.any (·.why == 1))).length

/-- Start the promotion of a flash page, or let it wait for a place (R266, R270). -/
def startPromotion (isle vpage p : Nat) (t : Tier) (s : State) : State :=
  match getPage s p, freePage s t with
  | some pg, some d =>
    if promosInFlight s < 1024 && promosOn s pg.chan < 64 then
      updPage p (fun g => { g with move := some { dest := d * pageSize, why := 1, marked := 0, readDone := false } }) s
    else if s.tide.waiting.contains (isle, vpage) then s
    else { s with tide := { s.tide with waiting := s.tide.waiting ++ [(isle, vpage)] } }
  | _, _ => s

/-- The device page of a mapped page replaced by another: the entry is rewritten, the caches follow, the old page is released
(R286). -/
def rehome (isle vpage e p d : Nat) (s : State) : State :=
  dropPage p (putEntry isle vpage (e - eOff e + d * pageSize) s)

/-- Whether a flash page holds lost lines. Its promotion cannot be completed: a load of it, which would start one, ends with
ST_DATA_LOST (R266, R273; log 23). -/
def pageLost (s : State) (p : Nat) : Bool := s.store.lost.any (fun l => l / pageSize == p)

/-- Reach a mapped page for a read or a write. `whole` is true for a DMA write that covers the whole page. -/
def reachPage (acc : Acc) (isle vpage e : Nat) (wr whole : Bool) (s : State) : Reach × State :=
  let p := eOff e / pageSize
  match getPage s p with
  | none => (.at (eOff e), s)
  | some pg =>
    if !inTier .flash p then
      -- a write during a demotion abandons it (R288)
      let s := match pg.move with
        | some m =>
          if wr && m.why = 0 && inTier .flash (m.dest / pageSize) then
            updPage p (fun g => { g with move := none }) { s with tide := { s.tide with abandoned := s.tide.abandoned + 1 } }
          else s
        | none => s
      (.at (eOff e), s)
    else if eMirrored e || eTierPin e || (!wr && eType e == 3) then (.at (eOff e), s)
    else if pg.move.any (fun m => m.why == 1 || m.why == 2) then (.wait .promotion, s)
    else if s.tide.warmup then
      if wr && !(acc == .dma && whole) then (.wait .warmup, s) else (.at (eOff e), s)
    else if !wr && (acc == .dma || acc == .reef) then (.at (eOff e), s)
    else
      match promoTier s isle with
      | none => (.at (eOff e), { s with tide := { s.tide with noRoom := s.tide.noRoom + 1 } })
      | some t =>
        if wr && acc == .dma && whole then
          -- whole-page replacement: the DRAM page is allocated without reading flash (R263, R265)
          match freePage s t with
          | some d =>
            let s := rehome isle vpage e p d (allocPage d isle (some vpage) pg.region (BitVec.ofNat 16 s.tide.seed) s)
            (.at (d * pageSize), s)
          | none => (.at (eOff e), s)
        else if pageLost s p then (.fail stDataLost, s)
        else (.wait .promotion, startPromotion isle vpage p t s)

/-- `n` accesses reach a page's memory (R275). DEDUCED (log 88). -/
def touchPage (p n : Nat) (s : State) : State :=
  if inTier .flash p then s
  else updPage p (fun g => { g with counter := BitVec.ofNat 16 (min (g.counter.toNat + n) 0xFFFF), idle := 0 }) s

/-! ## Pieces of a range -/

/-- A range cut at page boundaries (R156); `fuel` is the number of pages. -/
def piecesAux (va len : Nat) : Nat → List (Nat × Nat)
  | 0 => []
  | k + 1 =>
    if len = 0 then []
    else
      let n := min len (pageSize - va % pageSize)
      (va, n) :: piecesAux (va + n) (len - n) k

def pieces (va len : Nat) : List (Nat × Nat) := piecesAux va len (len / pageSize + 2)

/-- 256-byte bursts that a piece takes (R165, R167). -/
def burstsOf (a n : Nat) : Nat := if n = 0 then 0 else (a + n - 1) / 256 - a / 256 + 1

/-! ## Readiness -/

/-- Whether a range can be used now: yes, it waits for something that has been started, or it ends with a status. -/
inductive Got where
  | ok
  | wait
  | fail (status : Nat)
  deriving DecidableEq, Repr

/-- A line that a command reads: an owner outside is snooped once, and its line is kept for the command. A cluster that is
granted S keeps the line. DEDUCED (log 96). -/
def readyRead (k : CmdKey) (a : Asker) (line : Nat) (s : State) : Bool × State :=
  let fwd := match cmd? s k with | some c => c.fwd | none => []
  match a with
  | .cluster cl =>
    if (cacheGet s cl line).isSome then (true, s)
    else
      match hedRead a (.cmd k) fwd false line s with
      | (.grant g l _, s') => (true, if g = grantS then cacheTake cl line .s l s' else s')
      | (_, s') => (false, s')
  | _ =>
    match hedRead a (.cmd k) fwd false line s with
    | (.grant _ _ _, s') => (true, s')
    | (_, s') => (false, s')

/-- A line made ready for a command: `cl` is the cluster that keeps it in its line cache, where one does. -/
def readyLine (k : CmdKey) (cl : Option Nat) (wr : Bool) (line : Nat) (s : State) : Bool × State :=
  if 8192 ≤ s.heddle.txns.length && !txnOpen s line then (false, s)
  else
  match cl, wr with
  | some n, true => let r := hedOwnInt n (.cmd k) line s; (r.1.isSome, r.2)
  | some n, false => readyRead k (.cluster n) line s
  | none, true => hedClear (.cmd k) line s
  | none, false => readyRead k .none line s

/-- Every line of a list made ready for a read or a write. -/
def readyLines (k : CmdKey) (cl : Option Nat) (wr : Bool) : List Nat → State → Bool × State
  | [], s => (true, s)
  | l :: ls, s =>
    let r := readyLine k cl wr l s
    let t := readyLines k cl wr ls r.2
    (r.1 && t.1, t.2)

/-- The cluster that caches the lines of a page for an accessor: coherent lines in DRAM (R197, R198); the writes of a mirrored
page are made at memory, so that each reaches the twin (log 12). -/
def cachingCluster (acc : Acc) (wr : Bool) (e off : Nat) : Option Nat :=
  match acc with
  | .shuttle n =>
    if eCoherent e && (inTier .hbm (off / pageSize) || inTier .ddr (off / pageSize)) && !(wr && eMirrored e) then some n else none
  | _ => none

/-- A direct read of flash for a DMA command: recorded once, and waited for (R264). -/
def flashReady (k : CmdKey) (p : Nat) (s : State) : Bool × State :=
  match cmd? s k with
  | none => (true, s)
  | some c =>
    if c.flashRead.contains p then (true, s)
    else if s.flash.reads.contains (k, p) then (false, s)
    else (false, { s with flash := { s.flash with reads := s.flash.reads ++ [(k, p)] } })

/-- One piece, inside one page. -/
def readyPiece (k : CmdKey) (isle : Nat) (acc : Acc) (wr whole : Bool) (va n : Nat) (s : State) : Got × State :=
  match xlat s isle va (acc.need wr) with
  | .inr st => (.fail st, faultEvent isle va st s)
  | .inl e =>
    match reachPage acc isle (va / pageSize) e wr whole s with
    | (.wait _, s) => (.wait, s)
    | (.fail st, s) => (.fail st, s)
    | (.at off, s) =>
      let f := if acc == .dma && !wr && inTier .flash (off / pageSize) then flashReady k (off / pageSize) s else (true, s)
      if !f.1 then (.wait, f.2)
      else
        let r := readyLines k (cachingCluster acc wr e off) wr (linesOf (off + va % pageSize) n) f.2
        (if r.1 then .ok else .wait, r.2)

def readyPieces (k : CmdKey) (isle : Nat) (acc : Acc) (wr : Bool) : List (Nat × Nat) → State → Got × State
  | [], s => (.ok, s)
  | (va, n) :: ps, s =>
    match readyPiece k isle acc wr (n == pageSize) va n s with
    | (.fail st, s) => (.fail st, s)
    | (.wait, s) => match readyPieces k isle acc wr ps s with | (.fail st, s) => (.fail st, s) | (_, s) => (.wait, s)
    | (.ok, s) => readyPieces k isle acc wr ps s

/-- A range a command reads or writes: accessor, write, address, length. -/
structure Span where
  acc : Acc
  wr  : Bool
  va  : Nat
  len : Nat
  deriving DecidableEq, Repr

/-- The first address of a range that an access may not reach, with the status, which carries the hint of ST_REROUTE. -/
def rangeFault (s : State) (isle va len need : Nat) : Option (Nat × Nat) :=
  (pagesOf va len).findSome? (fun p =>
    match xlat s isle (p * pageSize) need with
    | .inl e => if (tookOver s isle (max va (p * pageSize)) e).1 = stOk then none
                else some (max va (p * pageSize), packHint (tookOver s isle (max va (p * pageSize)) e))
    | .inr st => some (max va (p * pageSize), st))

/-- The first address of a list of ranges that an access may not reach, with the status. -/
def spansFault (s : State) (isle : Nat) (l : List Span) : Option (Nat × Nat) :=
  l.findSome? (fun r => rangeFault s isle r.va r.len (r.acc.need r.wr))

/-- Whether the command has issued bursts before and now meets a page that a withdrawal is sweeping: its transfer stalls until
the sweep cuts it (R138; log 11). -/
def stalled (s : State) (c : Cmd) (vpage : Nat) : Bool :=
  c.pages != [] && s.trans.withdrawals.any (fun w => w.isle == c.isle && w.vpages.contains vpage && w.phase ≤ 1)

/-- Record the pages that bursts are issued under (R138). -/
def issue (k : CmdKey) (vps : List Nat) (s : State) : State :=
  updCmd k (fun c => { c with pages := c.pages ++ vps.filter (fun p => !c.pages.contains p) }) s

def readySpans (k : CmdKey) (isle : Nat) : List Span → State → Got × State
  | [], s => (.ok, s)
  | r :: rs, s =>
    match readyPieces k isle r.acc r.wr (pieces r.va r.len) s with
    | (.fail st, s) => (.fail st, s)
    | (.wait, s) => match readySpans k isle rs s with | (.fail st, s) => (.fail st, s) | (_, s) => (.wait, s)
    | (.ok, s) => readySpans k isle rs s

/-- The accesses of a range count on the pages they reach (R275). -/
def touchSpan (isle : Nat) (s : State) (r : Span) : State :=
  (pieces r.va r.len).foldl (fun s p =>
    match entryOf s isle (p.1 / pageSize) with
    | some e => touchPage (eOff e / pageSize) (burstsOf p.1 p.2) s
    | none => s) s

/-- Make every range ready for a command: translations and rights of all of them first, then what has to be waited for. -/
def access (k : CmdKey) (isle : Nat) (l : List Span) (s : State) : Got × State :=
  match spansFault s isle l with
  | some (va, st) =>
    if (cmd? s k).any (fun c => stalled s c (va / pageSize)) then (.wait, issue k [va / pageSize] s)
    else (.fail st, faultEvent isle va st s)
  | none =>
    match readySpans k isle l s with
    | (.ok, s) => (.ok, issue k (l.flatMap (fun r => pagesOf r.va r.len)).eraseDups (l.foldl (touchSpan isle) s))
    | r => r

/-! ## Reading -/

/-- The line a command sees: one an owner forwarded to it, a line cache's dirty copy, or memory. -/
def lineNow (s : State) (c : Cmd) (off : Nat) : Line :=
  match fwdGet c.fwd off with
  | some (l, _) => l
  | none => match cacheDirty s off with | some x => x.data | none => readLine s off

/-- The status a command's read of a line meets (R670). -/
def lineStatusNow (s : State) (c : Cmd) (off : Nat) : Nat :=
  match fwdGet c.fwd off with
  | some (_, p) => if p then stPoison else stOk
  | none => if (cacheDirty s off).isSome then stOk else lineStatus s off

/-- The bytes of `[a, a+n)` of device offsets, as a command sees them. -/
def readNow (s : State) (c : Cmd) (a n : Nat) : List Byte :=
  (((linesOf a n).flatMap (fun l => leBytes (lineNow s c l).toNat 64)).drop (a % 64)).take n

/-- The bytes of a range of isle virtual addresses; an unmapped page gives zeros (callers check first). -/
def vread (s : State) (c : Cmd) (va n : Nat) : List Byte :=
  (pieces va n).flatMap (fun p =>
    match offOf s c.isle p.1 with
    | some off => readNow s c off p.2
    | none => List.replicate p.2 0)

/-- The first failing status of the lines under a range: ST_DATA_LOST or ST_POISON. -/
def vstatus (s : State) (c : Cmd) (va n : Nat) : Nat :=
  match (pieces va n).findSome? (fun p =>
    match offOf s c.isle p.1 with
    | some off => (linesOf off p.2).findSome? (fun l => if lineStatusNow s c l = stOk then none else some (lineStatusNow s c l))
    | none => none) with
  | some st => st
  | none => stOk

/-- The little-endian value of a field at an address. -/
def vnat (s : State) (c : Cmd) (va n : Nat) : Nat := leVal (vread s c va n)

/-! ## Writing -/

/-- Whether a write to an address of a mirrored page crosses to the twin: PAIRED, or below its region's copy cursor during a
resync (R707, R728). -/
def through (s : State) (isle va e : Nat) : Bool :=
  eMirrored e &&
    (match s.twin.state with
     | .paired => true
     | .resync =>
       s.twin.source && (match regionAt s isle va with
        | some (_, r) => (match r.cursor with | some c => va - r.va < c | none => true)
        | none => true)
     | _ => false)

/-- A write to the source of a move between DRAM tiers marks its burst, which the commit copies again (R285). -/
def markBurst (off : Nat) (s : State) : State :=
  if (getPage s (off / pageSize)).any (fun g => g.move.any (fun m => m.why != 1)) then
    updPage (off / pageSize) (fun g => { g with move := g.move.map (fun m => { m with marked := m.marked ||| 2 ^ (off % pageSize / 256) }) }) s
  else s

/-- Write bytes inside one line: in the line cache that holds it in M, or at memory, every copy having been taken back. A write
of part of a poisoned or lost line is not made (R670, R256): the result is then true. -/
def storeLine (mir : Bool) (off : Nat) (bs : List Byte) (s : State) : Bool × State :=
  let line := lineOf off
  if bs = [] then (false, s)
  else if s.heddle.caches.any (fun c => c.off == line && c.state == .m) then
    (false, wake line { s with heddle := { s.heddle with
      caches := s.heddle.caches.map (fun c => if c.off = line then { c with data := mergeLine c.data (off % 64) bs } else c) } })
  else if bs.length ≠ 64 ∧ lineStatus s line ≠ stOk then (true, s)
  else
    let s := markBurst off (writeBytes off bs (if bs.length = 64 then clearLost line (clearPoison line s) else s))
    let s := wake line s
    (false, if mir then twinSend 0 (twinKey s line) (readBytes s line 64) s else s)

/-- Bytes cut at line boundaries, from a device offset. -/
def lineParts (off : Nat) (bs : List Byte) : Nat → List (Nat × List Byte)
  | 0 => []
  | k + 1 =>
    if bs = [] then []
    else
      let n := 64 - off % 64
      (off, bs.take n) :: lineParts (off + n) (bs.drop n) k

/-- Write bytes inside one page. -/
def storeBytes (mir : Bool) (off : Nat) (bs : List Byte) (s : State) : Bool × State :=
  (lineParts off bs (bs.length / 64 + 2)).foldl (fun r p => let t := storeLine mir p.1 p.2 r.2; (r.1 || t.1, t.2)) (false, s)

/-- Write bytes at an isle virtual address, page by page. -/
def vstore (isle va : Nat) (bs : List Byte) (s : State) : Bool × State :=
  (pieces va bs.length).foldl (fun r p =>
    match walk r.2 isle (p.1 / pageSize) with
    | .entry e =>
      let t := storeBytes (through r.2 isle p.1 e) (eOff e + p.1 % pageSize) ((bs.drop (p.1 - va)).take p.2) r.2
      (r.1 || t.1, t.2)
    | _ => r) (false, s)

/-- A command waits for the twin items numbered from `id` up to the next one (R160). -/
def awaitItems (k : CmdKey) (id : Nat) (s : State) : State :=
  let ids := (List.range (s.twin.nextItem - id)).map (fun i => id + i)
  if ids = [] then s
  else updCmd k (fun c => { c with unacked := c.unacked ++ ids })
    { s with twin := { s.twin with waits := s.twin.waits ++ ids.map (fun i => (i, TwinWait.cmd k)) } }

/-- A command writes bytes of its isle, its accesses made ready before; true where part of a poisoned line was not written. -/
def vwrite (k : CmdKey) (isle va : Nat) (bs : List Byte) (s : State) : Bool × State :=
  let r := vstore isle va bs s
  (r.1, awaitItems k s.twin.nextItem r.2)

/-- The state alone of a command's write. -/
def vput (k : CmdKey) (isle va : Nat) (bs : List Byte) (s : State) : State := (vwrite k isle va bs s).2

/-- Poison every line under a range of an isle (a COPY of a poisoned source line; R670). -/
def poisonLine (mir : Bool) (line : Nat) (s : State) : State :=
  let s := markPoison line true s
  if mir then twinSend 1 (twinKey s line ++ [1]) [] s else s

/-- Whether writes to a line cross to the twin. -/
def mirrorOf (s : State) (off : Nat) : Bool :=
  match ownerOf s off with
  | some (i, va) => (match entryOf s i (va / pageSize) with | some e => through s i va e | none => false)
  | none => false

/-! ## Lines that fail on a read (R666, R667, R732, R733) -/

/-- The unit of a DRAM offset as events name it: HB0–HB3 are 0–3, DC0–DC7 are 8–15 (R261, R739); the 128 HBM channels are taken as
32 to a stack, in order (log 23). -/
def dramUnit (off : Nat) : Nat := if off < ddrBase then off / 256 % 128 / 32 else 8 + (off - ddrBase) / 256 % 8

/-- A DRAM line is found to fail lastingly: it is poisoned, on the twin as well, and LINE_POISONED posted (R666, R669). -/
def poisonFound (line : Nat) (s : State) : State :=
  let mir := mirrorOf s line
  let s := lineEvent evLinePoisoned 0 line (setPoison line s)
  if mir then twinSend 1 (twinKey s line ++ [1]) [] s else s

/-- An uncorrectable error of a DRAM line that lasts: the row is retired while the channel has a spare one, the line is poisoned
(R666, R732, R733). -/
def dramFault (line : Nat) (s : State) : State :=
  let u := dramUnit line
  let n := NMap.getD s.store.retired u 0
  let s := poisonFound line s
  if n < Config.spareRows u then
    let s := raise (event evRowRetired u 0 (line % 2 ^ 32) (line / 2 ^ 32)) { s with store := { s.store with retired := NMap.set s.store.retired u (n + 1) } }
    if n + 1 = Config.spareRows u then raise (event evSparesExhausted u 0 0 0) s else s
  else s

/-- A fault of on-die SRAM or of a line check that the one retry clears (R732). -/
def countTransient (s : State) : State := { s with trust := { s.trust with transientCount := s.trust.transientCount + 1 } }

/-- A line fails on the device's read and is read once more. An ECC error that goes counts in MEM_ECC_TRANSIENT, a check mismatch
that goes in SEL_TRANSIENT_COUNT. One that stays leaves a DRAM line poisoned, with its row retired where ECC found it, and a
scratchpad line failing until it is overwritten; a mismatch that stays counts in SEL_LASTING_COUNT (R666, R732). Flash lines fail
as NAND reads. -/
def lineFault (s : State) (f : LineFault) : State :=
  let line := lineOf f.off
  let dram := inTier .hbm (line / pageSize) || inTier .ddr (line / pageSize)
  if (!dram && !inTier .scratch (line / pageSize)) || isPoisoned s line || isLost s line then s
  else if !f.lasting then
    (if f.ecc && dram then { s with store := { s.store with eccTransient := s.store.eccTransient + 1 } } else countTransient s)
  else if f.ecc && dram then dramFault line s
  else
    let s := { s with trust := { s.trust with lastingCount := s.trust.lastingCount + 1 } }
    if dram then poisonFound line s else markPoison line true s

/-- Make the ranges of a command ready and go on, end it with the status that stops one, or wait. -/
def whenReady (c : Cmd) (l : List Span) (go : State → State) (s : State) : State :=
  match access c.key c.isle l (startCmd c.key s) with
  | (.fail st, s) => endFree c.key st s
  | (.wait, s) => s
  | (.ok, s) => go s

/-- The command's record as it stands in a state. -/
def cmdNow (s : State) (c : Cmd) : Cmd := (cmd? s c.key).getD c

end Sys2Proof.Machine
end

