-- ==== Sys2Proof/Machine/Fp.lean ====
section
/-! DEFINITION. Number formats and bit-exact arithmetic (chapter 09): FP32 values as their 32 bits, every operation computed
exactly and rounded once. -/

namespace Sys2Proof.Machine

/-- A decoded value: NaN, an infinity, or the exact number (-1)^neg × m × 2^e; m = 0 is a signed zero. -/
inductive Fv where
  | nan
  | inf (neg : Bool)
  | fin (neg : Bool) (m : Nat) (e : Int)
  deriving DecidableEq, Repr

/-- A binary format of R414: exponent and mantissa bits, bias, and how its top exponent is used: 0 infinity and NaN as IEEE 754,
1 only the all-ones code is NaN (E4M3), 2 every code finite. -/
structure Fmt where
  eb   : Nat
  mb   : Nat
  bias : Int
  top  : Nat
  deriving DecidableEq, Repr

def fmt32 : Fmt := { eb := 8, mb := 23, bias := 127, top := 0 }
def fmtBf16 : Fmt := { eb := 8, mb := 7, bias := 127, top := 0 }
def fmt16 : Fmt := { eb := 5, mb := 10, bias := 15, top := 0 }
def fmtE4m3 : Fmt := { eb := 4, mb := 3, bias := 7, top := 1 }
def fmtE5m2 : Fmt := { eb := 5, mb := 2, bias := 15, top := 0 }
def fmtE2m3 : Fmt := { eb := 2, mb := 3, bias := 1, top := 2 }
def fmtE3m2 : Fmt := { eb := 3, mb := 2, bias := 3, top := 2 }
def fmtE2m1 : Fmt := { eb := 2, mb := 1, bias := 1, top := 2 }

/-- The element format of a format code 0–9. -/
def fmtOf (c : Nat) : Fmt :=
  match c with
  | 0 => fmt32 | 1 => fmtBf16 | 2 => fmt16 | 3 => fmtE4m3 | 4 => fmtE5m2 | 5 => fmtE4m3 | 6 => fmtE5m2 | 7 => fmtE2m3
  | 8 => fmtE3m2 | _ => fmtE2m1

/-- emax of R418 for the MX format codes 5–9. -/
def mxEmax (c : Nat) : Int := match c with | 5 => 8 | 6 => 15 | 7 => 2 | 8 => 4 | _ => 2

/-- The value a code of a format stands for (R414, R415): subnormals included. -/
def Fmt.decode (f : Fmt) (c : Nat) : Fv :=
  let m := c % 2 ^ f.mb
  let x := (c >>> f.mb) % 2 ^ f.eb
  let neg := (c >>> (f.mb + f.eb)) % 2 == 1
  if x = 2 ^ f.eb - 1 ∧ f.top = 0 then (if m = 0 then .inf neg else .nan)
  else if x = 2 ^ f.eb - 1 ∧ f.top = 1 ∧ m = 2 ^ f.mb - 1 then .nan
  else if x = 0 then .fin neg m (1 - f.bias - f.mb)
  else .fin neg (2 ^ f.mb + m) (x - f.bias - f.mb)

/-- `m × 2^e` rounded to nearest, ties to even, to `p` bits with no quantum below `2^emin`: the mantissa and its exponent. -/
def roundNE (p : Nat) (emin : Int) (m : Nat) (e : Int) : Nat × Int :=
  if m = 0 then (0, emin)
  else
    let q := max (e + (Nat.log2 m + 1 : Nat) - p) emin
    if q ≤ e then (m * 2 ^ (e - q).toNat, q)
    else
      let d := (q - e).toNat
      let hi := m / 2 ^ d
      let lo := m % 2 ^ d
      let half := 2 ^ (d - 1)
      (if half < lo ∨ (lo = half ∧ hi % 2 = 1) then hi + 1 else hi, q)

/-- The largest finite code of a format, without its sign. -/
def Fmt.maxCode (f : Fmt) : Nat :=
  if f.top = 0 then (2 ^ f.eb - 1) * 2 ^ f.mb - 1 else if f.top = 1 then 2 ^ (f.eb + f.mb) - 2 else 2 ^ (f.eb + f.mb) - 1

/-- The NaN the device writes (R414). -/
def Fmt.nan (f : Fmt) : Nat :=
  if f.top = 1 then 2 ^ (f.eb + f.mb) - 1 else (2 ^ f.eb - 1) * 2 ^ f.mb + 2 ^ (f.mb - 1)

/-- Encode a value with one rounding (R416, R417); beyond the range: infinity or NaN with `sat` clear, the largest finite value
with it set. Formats with neither always saturate. -/
def Fmt.encode (f : Fmt) (sat : Bool) (v : Fv) : Nat :=
  let sign := fun (neg : Bool) => if neg then 2 ^ (f.eb + f.mb) else 0
  let ovf := fun (neg : Bool) =>
    if sat || f.top == 2 then sign neg + f.maxCode else if f.top = 1 then f.nan else sign neg + (2 ^ f.eb - 1) * 2 ^ f.mb
  match v with
  | .nan => f.nan
  | .inf neg => if f.top = 0 then (if sat then sign neg + f.maxCode else sign neg + (2 ^ f.eb - 1) * 2 ^ f.mb) else ovf neg
  | .fin neg m e =>
    let emin := 1 - f.bias - (f.mb : Int)
    let r := roundNE (f.mb + 1) emin m e
    let r := if r.1 = 2 ^ (f.mb + 1) then (2 ^ f.mb, r.2 + 1) else r
    if r.1 < 2 ^ f.mb then sign neg + r.1
    else
      let code := (r.2 - emin + 1).toNat * 2 ^ f.mb + (r.1 - 2 ^ f.mb)
      if f.maxCode < code then ovf neg else sign neg + code

/-! ## FP32 operations (R421) -/

def nan32 : Nat := 0x7FC00000
def dec32 (x : Nat) : Fv := fmt32.decode x
def enc32 (v : Fv) : Nat := fmt32.encode false v
def isNan (x : Nat) : Bool := dec32 x == .nan
def isInf (x : Nat) : Bool := x % 2 ^ 31 == 0x7F800000
def isZero (x : Nat) : Bool := x % 2 ^ 31 == 0
def fNeg (x : Nat) : Nat := x ^^^ 0x80000000
def fAbs (x : Nat) : Nat := x % 2 ^ 31

/-- The signed integer of a sign and a magnitude. -/
def sInt (neg : Bool) (m : Nat) : Int := if neg then -(m : Int) else m

/-- Exact sum. -/
def vAdd : Fv → Fv → Fv
  | .nan, _ => .nan
  | _, .nan => .nan
  | .inf a, .inf b => if a = b then .inf a else .nan
  | .inf a, _ => .inf a
  | _, .inf b => .inf b
  | .fin a m e, .fin b n f =>
    let g := min e f
    let x := sInt a (m * 2 ^ (e - g).toNat) + sInt b (n * 2 ^ (f - g).toNat)
    if x = 0 then .fin (a && b) 0 g else .fin (decide (x < 0)) x.natAbs g

/-- Exact product. -/
def vMul : Fv → Fv → Fv
  | .nan, _ => .nan
  | _, .nan => .nan
  | .inf a, .inf b => .inf (a != b)
  | .inf a, .fin b n _ => if n = 0 then .nan else .inf (a != b)
  | .fin a m _, .inf b => if m = 0 then .nan else .inf (a != b)
  | .fin a m e, .fin b n f => .fin (a != b) (m * n) (e + f)

/-- A value times 2^k, exactly. -/
def vScale : Fv → Int → Fv
  | .fin a m e, k => .fin a m (e + k)
  | v, _ => v

def fAdd (x y : Nat) : Nat := enc32 (vAdd (dec32 x) (dec32 y))
def fSub (x y : Nat) : Nat := if isNan y then nan32 else fAdd x (fNeg y)
def fMul (x y : Nat) : Nat := enc32 (vMul (dec32 x) (dec32 y))
/-- y × 2^e rounded once. -/
def fScale (y : Nat) (e : Int) : Nat := enc32 (vScale (dec32 y) e)

/-- Order of two values that are no NaN; the zeros compare equal. -/
def vLt : Fv → Fv → Bool
  | .fin a m e, .fin b n f =>
    let g := min e f
    decide (sInt a (m * 2 ^ (e - g).toNat) < sInt b (n * 2 ^ (f - g).toNat))
  | .inf a, .inf b => a && !b
  | .inf a, .fin _ _ _ => a
  | .fin _ _ _, .inf b => !b
  | _, _ => false
def fLt (x y : Nat) : Bool := vLt (dec32 x) (dec32 y)
def fLe (x y : Nat) : Bool := !isNan x && !isNan y && !fLt y x

/-- An integer as FP32, rounded once. -/
def ofInt32 (n : Int) : Nat := enc32 (.fin (decide (n < 0)) n.natAbs 0)

/-- floor of a finite value. -/
def vFloor : Fv → Int
  | .fin a m e => if 0 ≤ e then sInt a (m * 2 ^ e.toNat) else sInt a m / (2 ^ (-e).toNat : Nat)
  | _ => 0

/-- A finite value rounded to the nearest integer, ties to even. -/
def vRoundInt : Fv → Int
  | .fin a m e => let r := roundNE (Nat.log2 m + 2 + e.toNat) 0 m e; sInt a (r.1 * 2 ^ r.2.toNat)
  | _ => 0

/-- The fixed pairwise tree (R422); `fuel` bounds the levels. -/
def pairUp : List Nat → List Nat
  | a :: b :: r => fAdd a b :: pairUp r
  | l => l
def treeSumAux : List Nat → Nat → Nat
  | l, 0 => l.headD 0
  | l, k + 1 => if l.length ≤ 1 then l.headD 0 else treeSumAux (pairUp l) k
def treeSum (l : List Nat) : Nat := treeSumAux l (Nat.log2 l.length + 1)

/-- Dot product (R424): exact products rounded once, then the tree. -/
def fDot (a b : List Nat) : Nat := treeSum (List.zipWith fMul a b)

/-- Maximum of a vector (R425). -/
def fMax2 (a b : Nat) : Nat :=
  if isNan a ∨ isNan b then nan32
  else if isZero a ∧ isZero b then (if a = 0 ∨ b = 0 then 0 else a)
  else if fLt a b then b else a
def fMax : List Nat → Nat
  | [] => 0
  | a :: r => r.foldl fMax2 (if isNan a then nan32 else a)

/-! ## Special functions (R428–R431) -/

/-- The largest number below 2^`k` that meets a predicate which holds up to a bound, from its highest bit down. -/
def searchBits (p : Nat → Bool) (acc : Nat) : Nat → Nat
  | 0 => acc
  | k + 1 => searchBits p (if p (acc + 2 ^ k) then acc + 2 ^ k else acc) k

/-- T[i] of R428: 2^(i/256) to nearest. -/
def exp2Tab (i : Nat) : Nat :=
  let m := searchBits (fun m => decide ((2 * m - 1) ^ 256 < 2 ^ (256 * 24 + i))) 0 24
  enc32 (.fin false m (-23))

/-- RT[j] of R429: 1 ÷ (1 + (j + 0.5)/128) = 256/(257 + 2j) to nearest. -/
def recipTab (j : Nat) : Nat := enc32 (.fin false ((2 ^ 33 / (257 + 2 * j) + 1) / 2) (-24))

/-- ST[j] of R430: 1 ÷ √(1 + (j + 0.5)/64) = √(128/(129 + 2j)) to nearest. -/
def rsqrtTab (j : Nat) : Nat :=
  let m := searchBits (fun m => decide ((2 * m - 1) ^ 2 * (129 + 2 * j) < 2 ^ 57)) 0 24
  enc32 (.fin false m (-24))

/-- exp2 (R428). -/
def fExp2 (x : Nat) : Nat :=
  if isNan x then nan32
  else if fLe 0x43000000 x then 0x7F800000
  else if fLe x 0xC3160000 then 0
  else
    let s := fScale x 8
    let k := vFloor (dec32 s)
    let d := fScale (fSub s (ofInt32 k)) (-8)
    let i := (k % 256).toNat
    let e := (k - i) / 256
    let a := fAdd 0x3F317218 (fMul d (fAdd 0x3E75FDF0 (fMul d 0x3D635847)))
    let p := fMul d a
    let t := exp2Tab i
    fScale (fAdd t (fMul t p)) e

/-- e^x (R426). -/
def fExp (x : Nat) : Nat := fExp2 (fMul x 0x3FB8AA3B)

/-- Mantissa as FP32 in [1, 2) and exponent of a nonzero finite value. -/
def normalize32 (x : Nat) : Nat × Int :=
  match dec32 x with
  | .fin _ m e => (enc32 (.fin false m (-(Nat.log2 m : Int))), e + Nat.log2 m)
  | _ => (0x3F800000, 0)

/-- Reciprocal (R429). -/
def fRecip (x : Nat) : Nat :=
  let sg := x / 2 ^ 31 * 2 ^ 31
  if isNan x then nan32
  else if isZero x then sg + 0x7F800000
  else if isInf x then sg
  else
    let n := normalize32 x
    let j := (vFloor (dec32 (fMul (fSub n.1 0x3F800000) 0x43000000))).toNat
    let step := fun r => fAdd r (fMul r (fSub 0x3F800000 (fMul n.1 r)))
    sg + fScale (step (step (recipTab j))) (-n.2)

/-- Reciprocal square root (R430). -/
def fRsqrt (x : Nat) : Nat :=
  if isNan x then nan32
  else if x = 0 then 0x7F800000
  else if x = 0x80000000 then 0xFF800000
  else if 2 ^ 31 ≤ x then nan32
  else if isInf x then 0
  else
    let n := normalize32 x
    let odd := n.2 % 2 == 1
    let m := if odd then fScale n.1 1 else n.1
    let e := if odd then n.2 - 1 else n.2
    let j := (vFloor (dec32 (fMul (fSub m 0x3F800000) 0x42800000))).toNat
    let step := fun r => fMul r (fSub 0x3FC00000 (fMul 0x3F000000 (fMul m (fMul r r))))
    fScale (step (step (rsqrtTab j))) (-(e / 2))

/-- GELU in tanh form (R431). -/
def fGelu (x : Nat) : Nat :=
  if isNan x then nan32
  else if x = 0x7F800000 then 0x7F800000
  else if x = 0xFF800000 then 0x80000000
  else
    let v := fAdd x (fMul 0x3D372713 (fMul (fMul x x) x))
    let g := fExp2 (fMul (fMul 0x3F4C422A v) 0x4038AA3B)
    fMul x (fSub 0x3F800000 (fRecip (fAdd 0x3F800000 g)))

/-! ## Vectors in memory (R418–R420) -/

/-- Whether a format is one of the MX formats. -/
def isMx (c : Nat) : Bool := 5 ≤ c && c ≤ 9

/-- L(fmt, n) (R420). -/
def vecLen (c n : Nat) : Nat :=
  match c with
  | 0 => 4 * n | 1 => 2 * n | 2 => 2 * n | 3 => n | 4 => n
  | 5 => 33 * (n / 32) | 6 => 33 * (n / 32) | 7 => 25 * (n / 32) | 8 => 25 * (n / 32) | 9 => 17 * (n / 32)
  | _ => 4 + n

/-- Bits of an element in a block of an MX format. -/
def mxBits (c : Nat) : Nat := if c ≤ 6 then 8 else if c ≤ 8 then 6 else 4

/-- One MX block decoded: a scale byte, then 32 elements (R414, R415). -/
def decodeMxBlock (c : Nat) (bs : List (BitVec 8)) : List Nat :=
  let s := field bs 0 1
  let v := field bs 1 (mxBits c * 4)
  (List.range 32).map (fun j =>
    if s = 255 then nan32
    else enc32 (vScale ((fmtOf c).decode (v >>> (mxBits c * j) % 2 ^ mxBits c)) ((s : Int) - 127)))

/-- Signed value of a byte. -/
def sByte (b : Nat) : Int := if b < 128 then b else (b : Int) - 256

/-- A vector of `n` elements decoded to FP32 (R415, R420). -/
def decodeVec (c n : Nat) (bs : List (BitVec 8)) : List Nat :=
  if isMx c then (List.range (n / 32)).flatMap (fun k => decodeMxBlock c (bs.drop (k * (1 + mxBits c * 4))))
  else if c = 10 then
    let s := dec32 (field bs 0 4)
    (List.range n).map (fun j => let q := sByte (field bs (4 + j) 1); enc32 (vMul (.fin (decide (q < 0)) q.natAbs 0) s))
  else
    let w := if c = 0 then 4 else if c ≤ 2 then 2 else 1
    (List.range n).map (fun j => enc32 ((fmtOf c).decode (field bs (w * j) w)))

/-- Quantize one block of 32 to an MX format (R418). -/
def encodeMxBlock (c : Nat) (sat : Bool) (xs : List Nat) : List (BitVec 8) :=
  let pack := fun (es : List Nat) => leBytes (es.foldr (fun e acc => acc * 2 ^ mxBits c + e) 0) (mxBits c * 4)
  let amax := xs.foldl (fun a x => max a (fAbs x)) 0
  if xs.any (fun x => isNan x || isInf x) then leBytes 255 1 ++ pack (xs.map (fun _ => 0))
  else if amax = 0 then leBytes 127 1 ++ pack (xs.map (fun x => x / 2 ^ 31 * 2 ^ (mxBits c - 1)))
  else
    let x := max (-127) (min 127 ((normalize32 amax).2 - mxEmax c))
    leBytes (x + 127).toNat 1 ++ pack (xs.map (fun v => (fmtOf c).encode sat (vScale (dec32 v) (-x))))

/-- The INT8 scale of a vector (R419 steps 1 and 2). -/
def int8Scale (imm : Nat) (xs : List Nat) : Nat :=
  if !isZero imm then imm
  else
    let amax := xs.foldl (fun a x => if isNan x || isInf x then a else max a (fAbs x)) 0
    if amax = 0 then 0x3F800000 else fMul amax (fRecip 0x42FE0000)

/-- One INT8 element (R419 step 3), as a signed number. -/
def int8Of (r x : Nat) : Int :=
  match vMul (dec32 x) (dec32 r) with
  | .nan => 0
  | .inf neg => if neg then -127 else 127
  | v => max (-127) (min 127 (vRoundInt v))

/-- Quantize a vector to INT8 (R419, R420). -/
def encodeInt8 (imm : Nat) (xs : List Nat) : List (BitVec 8) :=
  let s := int8Scale imm xs
  leBytes s 4 ++ xs.map (fun x => BitVec.ofInt 8 (int8Of (fRecip s) x))

/-- A list cut in groups of `n`. -/
def chunks {α : Type} (n : Nat) (l : List α) : Nat → List (List α)
  | 0 => []
  | k + 1 => if l.isEmpty then [] else l.take n :: chunks n (l.drop n) k

/-- A vector encoded in a format (R416–R420); `imm` is the given INT8 scale. -/
def encodeVec (c : Nat) (sat : Bool) (imm : Nat) (xs : List Nat) : List (BitVec 8) :=
  if isMx c then (chunks 32 xs (xs.length / 32 + 1)).flatMap (encodeMxBlock c sat)
  else if c = 10 then encodeInt8 imm xs
  else
    let w := if c = 0 then 4 else if c ≤ 2 then 2 else 1
    xs.flatMap (fun x => leBytes (if c = 0 then (if isNan x then nan32 else x) else (fmtOf c).encode sat (dec32 x)) w)

/-! ## Stochastic rounding (R427) -/

def srMix (h : Nat) : Nat :=
  let h := h ^^^ (h >>> 16)
  let h := h * 0x7FEB352D % 2 ^ 32
  let h := h ^^^ (h >>> 15)
  let h := h * 0x846CA68B % 2 ^ 32
  h ^^^ (h >>> 16)

/-- FP32 to BF16 with seed, step, row and column. -/
def srBf16 (seed step row col x : Nat) : Nat :=
  let h := srMix (srMix (srMix (srMix (seed ^^^ step) ^^^ (row % 2 ^ 32)) ^^^ (row >>> 32 % 2 ^ 32)) ^^^ col)
  if isNan x then 0x7FC0
  else
    let hi := x >>> 16
    let hi := if 0x10000 ≤ x % 2 ^ 16 + h % 2 ^ 16 then hi + 1 else hi
    if hi &&& 0x7F80 = 0x7F80 ∧ !isInf x then (hi &&& 0x8000) ||| 0x7F7F else hi

end Sys2Proof.Machine
end

