-- ==== Sys2Proof/Machine/Operands.lean ====
section
/-! DEFINITION. Operand forms that several commands share: the range operand of the mapping commands, the argument block, the
operations of the atomics (R222–R224), and their reserved fields. -/

namespace Sys2Proof.Machine

/-! ## Atomics (R222, R223) -/

/-- Operand size of an atomic code in bytes; 0 for a reserved code. -/
def atomicSize (op : Nat) : Nat :=
  if op = 0x15 then 16
  else if op = 0x14 then 8
  else if op = 0x01 ∨ op = 0x03 then 4
  else if op = 0x02 then 8
  else if 0x04 ≤ op ∧ op ≤ 0x13 then (if op % 2 = 0 then 4 else 8)
  else 0

/-- The value of `n` bits as a signed number. -/
def signedOf (n v : Nat) : Int := if v < 2 ^ (n - 1) then v else (v : Int) - 2 ^ n

/-- The value an atomic leaves, from the prior value, the operand and the compare value. -/
def atomicNew (op old a c : Nat) : Nat :=
  let w := 8 * atomicSize op
  let lt := fun (x y : Nat) => decide (signedOf w x < signedOf w y)
  if op = 0x01 ∨ op = 0x02 then (old + a) % 2 ^ w
  else if op = 0x03 then fAdd old a
  else if op = 0x04 ∨ op = 0x05 then (if lt a old then a else old)
  else if op = 0x06 ∨ op = 0x07 then min old a
  else if op = 0x08 ∨ op = 0x09 then (if lt old a then a else old)
  else if op = 0x0A ∨ op = 0x0B then max old a
  else if op = 0x0C ∨ op = 0x0D then old &&& a
  else if op = 0x0E ∨ op = 0x0F then old ||| a
  else if op = 0x10 ∨ op = 0x11 then old ^^^ a
  else if op = 0x12 ∨ op = 0x13 then a
  else if op = 0x14 ∨ op = 0x15 then (if old = c then a else old)
  else old

/-- Whether an atomic's operands keep their reserved bytes zero: bytes of `a` above the size, and `c` for every op but the
compare-and-swaps (R227). -/
def atomicOperandsOk (op a c : Nat) : Bool :=
  let sz := atomicSize op
  a < 2 ^ (8 * sz) && (if op = 0x14 then c < 2 ^ 64 else op == 0x15 || c == 0)

/-! ## The argument block (R329, R331) -/

/-- Whether a command has an argument block of one of the lengths given. -/
def Cmd.hasArg (c : Cmd) (lens : Nat → Bool) : Bool := descArgBlock c.desc && lens (bits c.desc 192 13)

/-- A field of the argument block: `len` bits from bit `lo` of byte `byte`. -/
def Cmd.arg' (c : Cmd) (byte lo len : Nat) : Nat := bits (field c.arg byte (lo / 8 + len / 8 + 2)) lo len

/-! ## Ranges of pages (R821) -/

/-- The range operand of REGION_ALLOC, MAP, UNMAP and PIN_TIER: 64 KiB pages inside the 55-bit space, with a nonzero length. -/
def pageRangeOk (va len : Nat) : Bool := len != 0 && len % pageSize == 0 && va % pageSize == 0 && va + len ≤ 2 ^ 55

end Sys2Proof.Machine
end

