-- ==== Sys2Proof/Machine/Shuttle.lean ====
section
/-! DEFINITION. The Shuttle clusters: which ones a command runs on (R443, R444, R485), and the change of isle of a time-shared
cluster (R64). -/

namespace Sys2Proof.Machine

/-- The isle that a cluster is dedicated to. -/
def dedicatedTo (s : State) (cl : Nat) : Option Nat :=
  match s.isles.find? (fun e => !e.2.timeShared && e.2.clusterMask.getLsbD cl) with
  | some e => some e.1
  | none => none

/-- The commands that run on a cluster now. -/
def clusterUsers (s : State) (cl : Nat) : List Cmd := s.bobbin.cmds.filter (fun c => c.clusters.contains cl)

/-- Threads that a time-shared isle's running commands hold: 128 for each cluster of each (R443). -/
def threadsInUse (s : State) (isle : Nat) : Nat :=
  ((s.bobbin.cmds.filter (fun c => c.isle == isle)).map (fun c => 128 * c.clusters.length)).sum

/-- The plan pick that released a command. -/
def pickOf (s : State) (c : Cmd) : Option Pick :=
  match c.pick with
  | some (h, i) => match NMap.get? s.treadle.plans h with | some p => p.text.picks[i]? | none => none
  | none => none

/-- The clusters whose time a pick demands: class 5 of R377. -/
def pickClusters (s : State) (c : Cmd) : List Nat :=
  match pickOf s c with
  | some p => (p.demand.filter (fun d => d.1 / 4096 == 5 && d.2 != 0)).map (fun d => d.1 % 4096)
  | none => []

/-- The clusters of a mask, lowest first. -/
def maskClusters (mask : Nat) : List Nat := (List.range 64).filter (fun i => bit mask i)

/-- What the choice of clusters gives. -/
inductive Clus where
  | ok (l : List Nat)
  | wait
  | fail (status : Nat)
  deriving DecidableEq, Repr

/-- The clusters a command runs on. `one` is true for a WEAVE, whose SCHEDULED form names exactly its one demanded cluster. A
dedicated isle that owns no cluster has nowhere to run: ST_PERMISSION (DESIGN CHOICE, log 13). In time-shared mode the device
chooses the lowest shared clusters that no other isle is running on, as many as the quota leaves (DESIGN CHOICE, log 13). -/
def chooseClusters (s : State) (c : Cmd) (one : Bool) (mask : Nat) : Clus :=
  match isle? s c.isle with
  | none => .fail stPermission
  | some r =>
    if descScheduled c.desc then
      let d := pickClusters s c
      if one && (d.length != 1 || mask != 2 ^ d.headD 0) then .fail stBadDescriptor
      else if d = [] then .fail stBadDescriptor
      else .ok d
    else if !r.timeShared then
      if !(maskClusters mask).all (fun i => r.clusterMask.getLsbD i) then .fail stPermission
      else
        let l := if mask = 0 then maskClusters r.clusterMask.toNat else maskClusters mask
        if l = [] then .fail stPermission else .ok l
    else if mask ≠ 0 then .fail stBadDescriptor
    else
      let free := (r.shuttleQuota - threadsInUse s c.isle) / 128
      if free = 0 then .fail stQuota
      else
        let l := ((List.range 64).filter (fun i =>
          (dedicatedTo s i).isNone && (clusterUsers s i).all (fun u => u.isle == c.isle))).take free
        if l = [] then .wait else .ok l

/-- Set a cluster's whole scratchpad to zero. -/
def zeroScratch (cl : Nat) (s : State) : State :=
  let a := scratchBase + cl * 0x200000
  let s := clearBytes a 0x200000 s
  { s with store := { s.store with lost := s.store.lost.filter (fun l => l < a || a + 0x200000 ≤ l) } }

/-- A cluster starts work for an isle: a time-shared one that did not last serve this isle is written back and cleared first (R64). DEDUCED (log 60). -/
def serveIsle (isle : Nat) (s : State) (cl : Nat) : State :=
  let same := (NMap.get? s.clusters cl).any (fun x => x.lastIsle == isle)
  let s := if same || (dedicatedTo s cl).isSome then s else zeroScratch cl (flushCluster cl s)
  { s with clusters := NMap.set s.clusters cl { lastIsle := isle } }

/-- Clusters dedicated to an isle serve it from then on, whether or not it sends them commands (R63, R64; DEDUCED, log 48). -/
def ownClusters (isle : Nat) (mask : BitVec 64) (s : State) : State :=
  { s with clusters := (maskClusters mask.toNat).foldl (fun m cl => NMap.set m cl { lastIsle := isle }) s.clusters }

/-- A command takes its clusters. DEDUCED (log 60). -/
def takeClusters (k : CmdKey) (isle : Nat) (l : List Nat) (s : State) : State :=
  updCmd k (fun c => { c with clusters := l }) (l.foldl (serveIsle isle) s)

/-- `n` bytes that the spec leaves undefined, from the free counter. -/
def freeBytes (s : State) (n : Nat) : List Byte := (List.range n).map (fun i => Config.freeByte (s.free + i))

/-- Leave `n` bytes of a cluster's scratchpad undefined (R441). -/
def scrubScratch (off n : Nat) (s : State) (cl : Nat) : State :=
  let s' := writeBytes (scratchBase + cl * 0x200000 + off) (freeBytes s n) s
  { s' with free := s.free + n }

end Sys2Proof.Machine
end

