-- ==== Sys2Proof/Machine/Lead.lean ====
section
/-! DEFINITION. The lead of a multi-device command (chapter 01): routes, sub-commands sent and answered, and what a home answers.
A sub-command's data words begin with a flag (1: resent or forwarded, R553) and the number of the lead's phase (log 15). -/

namespace Sys2Proof.Machine

/-- The lowest tag that no outstanding request of a stream has (R630). DESIGN CHOICE (log 62). -/
def freeTag (s : State) (stream : Nat) : Nat → Nat → Nat
  | 0, t => t
  | fuel + 1, t => if s.links.outstanding.any (fun o => o.2.stream == stream && o.2.tag == t) then freeTag s stream fuel (t + 1) else t

/-! ## Sub-commands (R20–R27) -/

/-- What a home answers to its share of a command: it waits for something, or it is done with a status, a hint, two counts and a
partial result. -/
inductive Home where
  | wait
  | done (status hint c0 c1 : Nat) (data : SubData)
  deriving DecidableEq, Repr

def noData : SubData := { words := [], bytes := [] }

/-- A home's plain answer; the status carries the hint of ST_REROUTE above its 16 bits. -/
def Home.st (status : Nat) : Home := .done (status % 65536) (status / 65536) 0 0 noData

/-- A share of a command for the home `peer`, not sent yet. -/
def newSub (shard peer desc : Nat) (data : SubData) : Sub :=
  { shard := shard, peer := peer, tag := none, desc := desc, data := data, resent := false, status := none, answer := noData,
    counts := (0, 0) }

/-- The pool ids whose homes this device serves itself: its own, and one it has taken over. -/
def isMine (s : State) (pid : Nat) : Bool := pid == s.pool.id || (pid != 0xFFF && (pid == s.twin.held || pid == s.twin.also))

def updSub (k : CmdKey) (i : Nat) (f : Sub → Sub) (s : State) : State :=
  updCmd k (fun c => { c with subs := (c.subs.zip (List.range c.subs.length)).map (fun x => if x.2 = i then f x.1 else x.1) }) s

/-- The port of a pool id's own mask for a stream, whether or not its entry is redirected (R724). -/
def ownPort (s : State) (pid stream : Nat) : Option Nat :=
  let ups := upPorts s (routeOf s pid).mask
  if ups = [] then none else ups[stream % ups.length]?

/-- Send sub-command `i` of a command to a pool id, over a stream of the device's choice (log 4). `flag` marks a resend after a
reroute (R553); `direct` takes the pool id's own ports (R724). DESIGN CHOICE (log 62). -/
def sendSub (k : CmdKey) (i dest : Nat) (flag direct : Bool) (s : State) : State :=
  match cmd? s k with
  | none => s
  | some c =>
    match c.subs[i]? with
    | none => s
    | some x =>
      -- sub-commands to an expelled pool id end with ST_DATA_LOST (R725)
      if s.pool.expelled.contains dest then updSub k i (fun x => { x with status := some stDataLost, tag := none }) s
      else
      let stream := Config.freeChoice s.free % 256
      let tag := freeTag s stream 512 0
      let id := s.links.nextId
      let data := if flag then { x.data with words := 1 :: x.data.words.drop 1 } else x.data
      let port := if direct then ownPort s dest stream else portFor s dest stream
      let o : Outstanding :=
        { dest := dest, tag := tag, stream := stream, port := port.getD 31, cmd := k, shard := i, direct := direct, backOff := false }
      let s := { s with free := s.free + 1, links := { s.links with nextId := id + 1, outstanding := NMap.set s.links.outstanding id o } }
      let s := updSub k i (fun x => { x with tag := some tag, data := data }) s
      match port with
      | some p => countSent dest stream (emit (.subcmd p dest stream tag c.epoch x.desc data) s)
      | none => s

/-- Begin a phase of a lead: its shares are those listed, and each share of another device is sent. The epoch recorded is that of
the map which the first phase reads (R20). -/
def startSubs (k : CmdKey) (subs : List Sub) (s : State) : State :=
  let s := updCmd k (fun c => { c with subs := subs, epoch := if c.aux.headD 0 ≤ 1 then s.maps.cur.epoch else c.epoch }) s
  (subs.zip (List.range subs.length)).foldl (fun s x =>
    if isMine s x.1.peer then s else sendSub k x.2 x.1.peer false false s) s

/-- Record a home's answer for share `i`. -/
def answerShare (k : CmdKey) (i : Nat) (h : Home) (s : State) : State :=
  match h with
  | .wait => s
  | .done st hint c0 c1 d =>
    updSub k i (fun x => { x with status := some st, answer := d, counts := (if st = stReroute then hint else c0, c1), tag := none }) s

/-- Run the shares that this device holds itself and that have no answer yet. -/
def runLocal (k : CmdKey) (home : Sub → State → Home × State) (s : State) : State :=
  match cmd? s k with
  | none => s
  | some c =>
    (c.subs.zip (List.range c.subs.length)).foldl (fun s x =>
      if isMine s x.1.peer && x.1.status.isNone then let r := home x.1 s; answerShare k x.2 r.1 r.2 else s) s

/-- Whether every share has been answered. -/
def allAnswered (c : Cmd) : Bool := c.subs.all (fun x => x.status.isSome)

/-- The failing share that comes first in shard-map order (R27). -/
def firstFailing (c : Cmd) : Option Sub :=
  (c.subs.filter (fun x => x.status != some stOk)).foldl
    (fun b x => match b with | none => some x | some y => if x.shard < y.shard then some x else some y) none

/-- End a lead's command with the status of a failing share; the counts are open but for the hint of ST_REROUTE and the epoch of
ST_STALE_EPOCH (R27, R90). -/
def failLead (k : CmdKey) (x : Sub) (s : State) : State :=
  let st := x.status.getD stOk
  if st = stStaleEpoch then endStale k s
  else if st = stReroute then endCmd64 k st ((Config.freeWord s.free).toNat / 4096 * 4096 + x.counts.1 % 4096) (nextFree s)
  else endFree k st s

/-- End the sub-command a device serves, with what its home answered. -/
def endServed (k : CmdKey) (h : Home) (s : State) : State :=
  match h with
  | .wait => s
  | .done st hint c0 c1 d => endCmd k st (if st = stReroute then hint else c0) c1 (updCmd k (fun c => { c with data := d }) s)

/-- The flag and phase words of a sub-command's data, and the words after them. -/
def subFlag (d : SubData) : Nat := d.words.getD 0 0
def subPhase (d : SubData) : Nat := d.words.getD 1 0
def subWords (d : SubData) : List Nat := d.words.drop 2

/-- The places of pool ids in a shard map, each once, at its first shard. -/
def homesInOrder (l : List Nat) : List (Nat × Nat) :=
  ((l.zip (List.range l.length)).foldl (fun acc x => if acc.any (fun a => a.1 == x.1) then acc else acc ++ [x]) [])

/-- Send a management message towards a pool id, by the port of its route. -/
def sendManage (dst : Nat) (op : Mgmt) (words : List Nat) (s : State) : State :=
  match portFor s dst 0 with
  | some p => emit (.manage p dst op words) s
  | none => s

/-- The pool id whose homes a command or sub-command addresses on this device: its own, or the one taken over. -/
def homePool (s : State) (isle : Nat) : Nat := if isle < twinIsle then s.pool.id else s.twin.held

/-- Whether the space of an isle serves a pool id's homes: its own one, and for the own space the second one taken over. -/
def homeHere (s : State) (isle pid : Nat) : Bool :=
  pid == homePool s isle || (isle < twinIsle && pid != 0xFFF && pid == s.twin.also)

/-- The isle space of a home: the device's own isle, or the partner's as the twin holds it (log 16). -/
def spaceOf (s : State) (pid isle : Nat) : Nat := if pid = s.pool.id ∨ pid = s.twin.also then isle else twinIsle + isle

end Sys2Proof.Machine
end

