-- ==== Sys2Proof/Machine/Atoll.lean ====
section
/-! DEFINITION. Atoll vector indexes (chapter 12): quantized vectors and distances, shards and their metadata, searches, inserts,
deletes, and merges. -/

namespace Sys2Proof.Machine

/-! ## Vectors and distances (R563–R567) -/

/-- Normalize a vector for cosine. -/
def cosineNorm (v : List Nat) : List Nat :=
  let r := fRsqrt (treeSum (v.map (fun x => fMul x x)))
  v.map (fun x => fMul x r)

def vecBad (v : List Nat) : Bool := v.any (fun x => isNan x || isInf x)

/-- Whether a vector is refused: not finite, or zero under cosine (R564, R565). -/
def vecRefused (metric : Nat) (v : List Nat) : Bool := vecBad v || (metric == 2 && isZero (treeSum (v.map (fun x => fMul x x))))

/-- The decoded values of codes. -/
def decodeItem (so : List (Nat × Nat)) (codes : List Int) : List Nat :=
  List.zipWith (fun p c => fAdd (fMul p.1 (ofInt32 c)) p.2) so codes

def normOf (v : List Nat) : Nat := treeSum (v.map (fun x => fMul x x))

/-- Codes and norm of an item vector (R564). -/
def encodeItem (metric : Nat) (so : List (Nat × Nat)) (v : List Nat) : List Int × Nat :=
  let v := if metric = 2 then cosineNorm v else v
  let codes := List.zipWith (fun p x => int8Of (fRecip p.1) (fSub x p.2)) so v
  (codes, normOf (decodeItem so codes))

/-- A prepared query: scale t, codes qa, B and nq (R565). -/
structure Prepared where
  t  : Nat
  qa : List Int
  b  : Nat
  nq : Nat
  deriving DecidableEq, Repr

def prepare (metric : Nat) (so : List (Nat × Nat)) (q : List Nat) : Prepared :=
  let q := if metric = 2 then cosineNorm q else q
  let a := List.zipWith (fun p x => fMul p.1 x) so q
  let t := int8Scale 0 a
  { t := t, qa := a.map (int8Of (fRecip t)), b := treeSum (List.zipWith (fun p x => fMul p.2 x) so q), nq := normOf q }

/-- Distance of an item (R566). -/
def distance (metric : Nat) (p : Prepared) (codes : List Int) (norm : Nat) : Nat :=
  let s := ofInt32 ((List.zipWith (fun (c q : Int) => c * q) codes p.qa).foldl (· + ·) 0)
  let ip := fAdd (fMul s p.t) p.b
  let d :=
    if metric = 0 then fAdd (fSub norm (fMul ip 0x40000000)) p.nq
    else if metric = 1 then (if isNan ip then ip else fNeg ip)
    else fSub 0x3F800000 ip
  if isNan d then 0x7F800000 else d

/-- A key: distance, item id, source (R567). -/
structure Key where
  dist : Nat
  id   : Nat
  src  : Nat
  deriving DecidableEq, Repr

def Key.lt (a b : Key) : Bool :=
  if fLt a.dist b.dist then true
  else if fLt b.dist a.dist then false
  else if a.id ≠ b.id then a.id < b.id
  else a.src < b.src

/-- Insert into a list that ascends by key, of at most `n`. -/
def insertKey {α : Type} (n : Nat) (x : Key × α) : List (Key × α) → List (Key × α)
  | [] => if n = 0 then [] else [x]
  | y :: r => if n = 0 then [] else if x.1.lt y.1 then (x :: y :: r).take n else y :: insertKey (n - 1) x r

/-! ## Shards and their records (R569–R576) -/

/-- A node record or side entry. -/
structure Item where
  id    : Nat
  norm  : Nat
  attrs : List Nat
  nbrs  : List Nat
  codes : List Int
  deriving DecidableEq, Repr

def Side.item (x : Side) : Item := { id := x.id, norm := x.norm, attrs := x.attrs, nbrs := [], codes := x.codes }

/-- What a record of the graph reads as. -/
inductive Node where
  | item (i : Item)
  | absent
  | lost
  deriving DecidableEq, Repr

abbrev segSize : Nat := 16777216

def Shard.root (sh : Shard) : Root := if sh.active then sh.rootB else sh.rootA
def shardKey (isle id : Nat) : Nat := isle * 65536 + id

/-- The shard of an Atoll for an isle here, where its areas still stand (R85, R561). -/
def shard? (s : State) (isle id : Nat) : Option Shard :=
  match NMap.get? s.atolls.shards (shardKey isle id) with
  | some sh => if mapped s isle (sh.metaVa / pageSize) && mapped s isle (sh.recordVa / pageSize) then some sh else none
  | none => none

def putShard (isle id : Nat) (sh : Shard) (s : State) : State :=
  { s with atolls := { s.atolls with shards := NMap.set s.atolls.shards (shardKey isle id) sh } }

/-- The item of a record's bytes. -/
def itemOf (dims : Nat) (b : List Byte) : Item :=
  let deg := field b 12 1 % 128
  { id := field b 0 8, norm := field b 8 4, attrs := (List.range 8).map (fun i => field b (16 + 4 * i) 4),
    nbrs := (List.range deg).map (fun i => field b (64 + 4 * i) 4), codes := ((b.drop 320).take dims).map (fun x => sByte x.toNat) }

/-- The bytes of a record (R571). -/
def recordOf (i : Item) : List Byte :=
  let b := leBytes i.id 8 ++ leBytes i.norm 4 ++ leBytes i.nbrs.length 1 ++ leBytes 0 3 ++ i.attrs.flatMap (fun a => leBytes a 4) ++
    leBytes 0 16 ++ (i.nbrs ++ List.replicate (64 - i.nbrs.length) 0xFFFFFFFF).flatMap (fun n => leBytes n 4) ++
    i.codes.map (fun c => BitVec.ofInt 8 c)
  b ++ List.replicate (4096 - b.length) 0

/-- The record of an absent node; what it holds beside its id is the model's choice (log 20). -/
def absentRecord : List Byte :=
  recordOf { id := 0xFFFFFFFFFFFFFFFF, norm := 0, attrs := List.replicate 8 0, nbrs := [], codes := [] }

/-- Read node `n` of a root (R570, R572, R591). -/
def readNode (s : State) (isle : Nat) (sh : Shard) (r : Root) (n : Nat) : Node :=
  let seg := r.segs.getD (n / 4096) 0xFFFFFFFF
  if r.nodes ≤ n ∨ seg = 0xFFFFFFFF then .absent
  else
    match offOf s isle (sh.recordVa + seg * segSize + n % 4096 * 4096) with
    | none => .lost
    | some off =>
      if rangeStatus s off 4096 != stOk then .lost
      else
        let b := readBytes s off 4096
        if field b 0 8 = 0xFFFFFFFFFFFFFFFF then .absent else .item (itemOf sh.dims b)

/-- The state line (R574). -/
def stateLine (sh : Shard) : List Byte :=
  leBytes (sh.active.toNat + 2 * sh.merging.toNat) 8 ++ leBytes sh.gen.toNat 8 ++ leBytes sh.sideHead 4 ++ leBytes sh.sideTail 4 ++
    leBytes sh.tombHead 4 ++ leBytes sh.tombTail 4 ++ leBytes 0 32

/-- A root record (R575). -/
def rootLine (r : Root) : List Byte :=
  leBytes r.nodes 4 ++ leBytes r.live 4 ++ leBytes r.entry 4 ++ leBytes (ceilDiv r.nodes 4096) 4 ++ leBytes 0 48

/-- Store a shard, and the lines of its metadata area that R573 fixes. -/
def syncShard (isle id : Nat) (sh : Shard) (s : State) : State :=
  (vstore isle sh.metaVa (stateLine sh ++ rootLine sh.rootA ++ rootLine sh.rootB) (putShard isle id sh s)).2

/-- Threads of an isle's reef_thread_quota that are free (R594). -/
def reefFree (s : State) (isle : Nat) : Nat :=
  (match isle? s isle with | some r => r.reefQuota | none => 0) -
    ((s.atolls.threads.filter (fun t => t.1 == isle)).map (·.2.1)).sum

/-! ## ATOLL_CREATE (R578–R580) -/

def crDims (c : Cmd) : Nat := bits (field c.arg 2 2) 0 12
def crMetric (c : Cmd) : Nat := bits (field c.arg 4 1) 0 2
def crDegree (c : Cmd) : Nat := bits (field c.arg 5 1) 0 7
def crSide (c : Cmd) : Nat := field c.arg 8 4
def crTomb (c : Cmd) : Nat := field c.arg 12 4
def crNav (c : Cmd) : Nat := field c.arg 16 4
def crRecord (c : Cmd) : Nat := field c.arg 24 8
def crMeta (c : Cmd) : Nat := field c.arg 32 8
def crRecordLen (c : Cmd) : Nat := field c.arg 40 8
def crMetaLen (c : Cmd) : Nat := field c.arg 48 8
def crSo (c : Cmd) : Nat := field c.arg 56 8

def dimsOk (d : Nat) : Bool := 16 ≤ d && d ≤ 2048 && d % 16 == 0

/-- M of R573. -/
def metaBytes (slots dims side tomb nav : Nat) : Nat :=
  ceilDiv (65536 + 8 * slots + side * (ceilDiv (64 + dims) 64 * 64 + 320) + 24 * tomb + 65536 * nav) 65536 * 65536

def createAtollOk (c : Cmd) : Bool :=
  c.hasArg (· == 64) && !descScheduled c.desc && c.zero 32 63 && field c.arg 0 2 != 0 && bits (field c.arg 2 2) 12 4 == 0 &&
    dimsOk (crDims c) && crMetric c != 3 && bits (field c.arg 4 1) 2 6 == 0 && bits (field c.arg 5 1) 7 1 == 0 &&
    16 ≤ crDegree c && crDegree c ≤ 64 && zeros c.arg 6 2 && crSide c % 1024 == 0 && 1024 ≤ crSide c && crSide c ≤ 65536 &&
    crTomb c % 1024 == 0 && 1024 ≤ crTomb c && crTomb c ≤ 1048576 && crNav c ≤ 65536 && zeros c.arg 20 4 &&
    crRecord c % 65536 == 0 && crRecord c < 2 ^ 55 && crMeta c % 65536 == 0 && crMeta c < 2 ^ 55 && crSo c % 8 == 0 && crSo c < 2 ^ 55 &&
    crRecordLen c % segSize == 0 && crRecordLen c != 0 && crRecordLen c ≤ 2 ^ 45 && crRecord c + crRecordLen c ≤ 2 ^ 55 &&
    crMeta c + crMetaLen c ≤ 2 ^ 55 &&
    metaBytes (crRecordLen c / segSize) (crDims c) (crSide c) (crTomb c) (crNav c) ≤ crMetaLen c

/-- The status that keeps a page out of an area: unmapped, not of an Atoll region, or in the wrong tier. -/
def areaStatus (s : State) (isle : Nat) (flash : Bool) (p : Nat) : Nat :=
  match walk s isle p with
  | .entry e =>
    if eType e ≠ 3 then stPermission
    else if flash ∧ !inTier .flash (eOff e / pageSize) then stBadDescriptor
    else if !flash ∧ !(inTier .hbm (eOff e / pageSize) || inTier .ddr (eOff e / pageSize)) then stBadDescriptor
    else stOk
  | .notMapped => stNotMapped
  | .reserved => stInternal
  | .poison => stPoison

/-- The first failing page of the two areas. -/
def areasStatus (s : State) (c : Cmd) : Nat :=
  match ((pagesOf (crRecord c) (crRecordLen c)).map (areaStatus s c.isle true) ++
      (pagesOf (crMeta c) (crMetaLen c)).map (areaStatus s c.isle false)).find? (· != stOk) with
  | some st => st
  | none => stOk

/-- Whether a scale and offset keep R563. -/
def soOk (p : Nat × Nat) : Bool := 0x00800000 ≤ p.1 && p.1 < 0x7F800000 && !(isNan p.2 || isInf p.2)

def execAtollCreate (k : CmdKey) (s : State) : Host.Outcome State Fault Refusal :=
  run (withCmd k 0x0304 (fun c s =>
    let id := field c.arg 0 2
    if !createAtollOk c then badDesc k s
    else
      refuseOr k [(areasStatus s c != stOk, areasStatus s c),
        ((NMap.get? s.atolls.shards (shardKey c.isle id)).isSome, stBadDescriptor)]
        (whenReady c [⟨.reef, false, crSo c, 8 * crDims c⟩] (fun s =>
          let c := cmdNow s c
          let st := vstatus s c (crSo c) (8 * crDims c)
          let tab := vread s c (crSo c) (8 * crDims c)
          let so := (List.range (crDims c)).map (fun d => (field tab (8 * d) 4, field tab (8 * d + 4) 4))
          if st != stOk then endFree k st s
          else if !so.all soOk then badDesc k s
          else if 256 ≤ s.atolls.shards.length then endFree k stQuota s
          else
            let empty : Root := { nodes := 0, live := 0, entry := 0xFFFFFFFF, segs := [] }
            let slots := crRecordLen c / segSize
            let sh : Shard :=
              { dims := crDims c, metric := crMetric c, degree := crDegree c, sideCap := crSide c, tombCap := crTomb c,
                navPages := crNav c, recordVa := crRecord c, slots := slots, metaVa := crMeta c, so := so, active := false,
                merging := false, gen := 0, sideHead := 0, sideTail := 0, tombHead := 0, tombTail := 0, rootA := empty,
                rootB := empty, sides := [], tombs := [], nav := [], merge := none, oldSlots := [] }
            let s := syncShard c.isle id sh s
            let s := vput k c.isle (crMeta c + 0xC0) (c.arg.take 24) s
            let s := vput k c.isle (crMeta c + 0x1000) tab s
            endCmd k stOk slots (metaBytes slots sh.dims sh.sideCap sh.tombCap sh.navPages) s)) s)) s

/-! ## ATOLL_SEARCH: fields (R586–R588) -/

def asId (c : Cmd) : Nat := c.fld 32 0 16
def asCount (c : Cmd) : Nat := c.fld 34 0 5
def asExh (c : Cmd) : Bool := bit (c.fld 34 0 8) 6
def asBf16 (c : Cmd) : Bool := bit (c.fld 34 0 8) 7
def asW (c : Cmd) : Nat := c.fld 35 0 4
def asK (c : Cmd) : Nat := c.fld 36 0 11
def asBeam (c : Cmd) : Nat := c.fld 38 0 9
def asVisit (c : Cmd) : Nat := c.fld 40 0 16

def searchFieldsOk (c : Cmd) : Bool :=
  c.hasArg (· == 128 * asCount c) && !descScheduled c.desc && 1 ≤ asCount c && c.rz 34 5 1 && c.rz 35 4 4 && 1 ≤ asK c && asK c ≤ 1024 &&
    c.rz 36 11 5 && c.rz 38 9 7 && c.zero 42 63 &&
    (if asExh c then asW c == 0 && asBeam c == 0 && asVisit c == 0
     else 1 ≤ asW c && asW c ≤ 8 && 1 ≤ asBeam c && asBeam c ≤ 256 && 16 ≤ asVisit c)

/-- An entry of a search's argument block. -/
structure SearchEntry where
  q     : Nat
  out   : Nat
  bm    : Nat
  base  : Nat
  nbits : Nat
  terms : List (Nat × Nat × Nat × Nat)
  deriving DecidableEq, Repr

def seEntry (arg : List Byte) (i : Nat) : SearchEntry :=
  let b := fun (byte n : Nat) => field arg (128 * i + byte) n
  { q := bits (b 0 8) 0 55, out := bits (b 8 8) 0 55, bm := bits (b 16 8) 0 55, base := bits (b 24 8) 0 52, nbits := b 32 4,
    terms := (List.range (b 36 1 % 8)).map (fun j => (b (64 + 16 * j) 1, b (65 + 16 * j) 1, b (68 + 16 * j) 4, b (72 + 16 * j) 4)) }

def seFieldsOk (arg : List Byte) (i : Nat) : Bool :=
  let b := fun (byte n : Nat) => field arg (128 * i + byte) n
  let n := b 36 1 % 8
  b 0 8 % 64 == 0 && b 0 8 < 2 ^ 55 && b 8 8 % 64 == 0 && b 8 8 < 2 ^ 55 && b 16 8 < 2 ^ 55 && (b 32 4 != 0 || b 16 8 == 0) &&
    b 24 8 < 2 ^ 52 && n ≤ 4 && b 36 1 < 8 && zeros arg (128 * i + 37) 27 && zeros arg (128 * i + 64 + 16 * n) (64 - 16 * n) &&
    (List.range n).all (fun j =>
      let t := fun (byte m : Nat) => b (64 + 16 * j + byte) m
      t 0 1 < 8 && t 1 1 < 3 && t 2 2 == 0 && (t 1 1 != 0 || t 8 4 == 0) && t 12 4 == 0)

/-- Bytes of the allow-bitmap. -/
def SearchEntry.bmLen (e : SearchEntry) : Nat := ceilDiv e.nbits 8

/-- Whether a filter term holds (R588). -/
def termHolds (attrs : List Nat) (t : Nat × Nat × Nat × Nat) : Bool :=
  let v := attrs.getD t.1 0
  if t.2.1 = 0 then v == t.2.2.1
  else if t.2.1 = 1 then t.2.2.1 ≤ v && v ≤ t.2.2.2
  else v < 64 && bit (t.2.2.1 + t.2.2.2 * 2 ^ 32) v

/-- Whether an item is eligible (R583). -/
def eligible (s : State) (c : Cmd) (sh : Shard) (e : SearchEntry) (i : Item) : Bool :=
  let loc := i.id % 2 ^ 52
  !sh.tombs.any (fun t => t.2 == i.id) && e.terms.all (termHolds i.attrs) &&
    (e.nbits == 0 ||
      (e.base ≤ loc && loc < e.base + e.nbits && bit (vnat s c (e.bm + (loc - e.base) / 8) 1) ((loc - e.base) % 8)))

/-! ## The walk (R582) -/

/-- A walk under way: candidates by key, nodes visited, nodes expanded, records read, those read, and those lost. -/
structure WalkSt where
  cand    : List (Key × (Nat × Item))
  visited : List Nat
  expanded : List Nat
  reads   : Nat
  items   : List (Nat × Item)
  lost    : Nat
  deriving DecidableEq, Repr

/-- Read nodes into a walk. -/
def walkRead (s : State) (isle : Nat) (sh : Shard) (p : Prepared) (beam : Nat) (w : WalkSt) (ns : List Nat) : WalkSt :=
  ns.foldl (fun w n =>
    let w := { w with visited := w.visited ++ [n], reads := w.reads + 1 }
    match readNode s isle sh sh.root n with
    | .item i =>
      { w with items := w.items ++ [(n, i)],
               cand := insertKey beam ({ dist := distance sh.metric p i.codes i.norm, id := i.id, src := n }, (n, i)) w.cand }
    | .absent => w
    | .lost => { w with lost := w.lost + 1 }) w

def walkRounds (s : State) (isle : Nat) (sh : Shard) (p : Prepared) (beam width visit : Nat) : Nat → WalkSt → WalkSt
  | 0, w => w
  | fuel + 1, w =>
    let x := (w.cand.filter (fun c => !w.expanded.contains c.2.1)).take width
    if x = [] ∨ visit ≤ w.reads then w
    else
      let n := (x.flatMap (fun c => c.2.2.nbrs)).foldl (fun l m => if w.visited.contains m || l.contains m then l else l ++ [m]) []
      walkRounds s isle sh p beam width visit fuel
        (walkRead s isle sh p beam { w with expanded := w.expanded ++ x.map (·.2.1) } (n.take (visit - w.reads)))

/-- The walk of a query over the active root. -/
def walkGraph (s : State) (isle : Nat) (sh : Shard) (p : Prepared) (beam width visit : Nat) : WalkSt :=
  let w0 : WalkSt := { cand := [], visited := [], expanded := [], reads := 0, items := [], lost := 0 }
  if sh.root.entry = 0xFFFFFFFF then w0
  else walkRounds s isle sh p beam width visit (visit + 1) (walkRead s isle sh p beam w0 [sh.root.entry])

/-- Every present node, read in number order (exhaustive mode). -/
def readAll (s : State) (isle : Nat) (sh : Shard) : WalkSt :=
  (List.range sh.root.nodes).foldl (fun w n =>
    match readNode s isle sh sh.root n with
    | .item i => { w with items := w.items ++ [(n, i)], reads := w.reads + 1 }
    | .absent => w
    | .lost => { w with reads := w.reads + 1, lost := w.lost + 1 })
    { cand := [], visited := [], expanded := [], reads := 0, items := [], lost := 0 }

/-- Nodes read in rounds 0 to 2 fill the navigation cache (R576). -/
def navFill (s : State) (isle : Nat) (sh : Shard) (p : Prepared) (beam width visit : Nat) : List Nat :=
  if sh.root.entry = 0xFFFFFFFF then []
  else
    let w0 : WalkSt := { cand := [], visited := [], expanded := [], reads := 0, items := [], lost := 0 }
    ((walkRounds s isle sh p beam width visit 2 (walkRead s isle sh p beam w0 [sh.root.entry])).items.map (·.1))

def addNav (sh : Shard) (ns : List Nat) : Shard :=
  ns.foldl (fun sh n => if sh.nav.contains n || 16 * sh.navPages ≤ sh.nav.length then sh else { sh with nav := sh.nav ++ [n] }) sh

/-! ## A home's share of a search (R581–R584, R591, R594) -/

/-- One query at a home: words records read, side entries scanned, records lost, results, then id and distance of each. -/
def searchHome (s : State) (isle : Nat) (c : Cmd) (sh : Shard) (e : SearchEntry) (q : List Nat) : List Nat × List Nat :=
  let p := prepare sh.metric sh.so q
  let w := if asExh c then readAll s isle sh else walkGraph s isle sh p (asBeam c) (asW c) (asVisit c)
  let all := w.items.map (fun x => (x.1, x.2)) ++ (sh.sides.zip (List.range sh.sides.length)).map (fun x => (2 ^ 32 + x.2, x.1.item))
  let res := (all.filter (fun x => eligible s c sh e x.2)).foldl (fun l x =>
    insertKey (asK c) ({ dist := distance sh.metric p x.2.codes x.2.norm, id := x.2.id, src := x.1 }, ()) l) []
  ([w.reads, sh.sides.length, w.lost, res.length] ++ res.flatMap (fun r => [r.1.id, r.1.dist]),
   if asExh c then [] else navFill s isle sh p (asBeam c) (asW c) (asVisit c))

/-- What a home tells of its shard: dims and metric. -/
def homeShape (isle id : Nat) (s : State) : Home :=
  match shard? s isle id with
  | some sh => .done stOk 0 0 0 { words := [sh.dims, sh.metric], bytes := [] }
  | none => .st stNotMapped

/-- A home's share of a search: phase 0 its shape; phase 1 words dims and metric, bytes the argument block and the queries as
FP32. It answers for each entry a status, the number of words, and the words of `searchHome`. -/
def homeSearch (k : CmdKey) (isle : Nat) (c : Cmd) (d : SubData) (s : State) : Home × State :=
  if subPhase d = 0 then (homeShape isle (asId c) s, s)
  else
    match shard? s isle (asId c) with
    | none => (.st stNotMapped, s)
    | some sh =>
      let w := subWords d
      let n := asCount c
      if w.getD 0 0 ≠ sh.dims ∨ w.getD 1 0 ≠ sh.metric then (.st stBadDescriptor, s)
      else if reefFree s isle < (if asExh c then 2048 else 32) then (.st stQuota, s)
      else
        let ent := fun i => seEntry d.bytes i
        let q := fun i => decodeVec 0 sh.dims ((d.bytes.drop (128 * n + 4 * sh.dims * i)).take (4 * sh.dims))
        if (List.range n).any (fun i => vecRefused sh.metric (q i)) then (.st stBadDescriptor, s)
        else
          match access k isle (((List.range n).filter (fun i => (ent i).nbits != 0)).map (fun i =>
              (⟨.reef, false, (ent i).bm, (ent i).bmLen⟩ : Span))) s with
          | (.fail st, s) => (.st st, s)
          | (.wait, s) => (.wait, s)
          | (.ok, s) =>
            let c' := { cmdNow s c with isle := isle }
            let r := (List.range n).foldl (fun (r : List Nat × Shard) i =>
              if (ent i).nbits != 0 && vstatus s c' (ent i).bm (ent i).bmLen != stOk then (r.1 ++ [stPoison, 0], r.2)
              else
                let x := searchHome s isle c' sh (ent i) (q i)
                (r.1 ++ [stOk, x.1.length] ++ x.1, addNav r.2 x.2)) ([], sh)
            (.done stOk 0 0 0 { words := r.1, bytes := [] }, putShard isle (asId c) r.2 s)

/-! ## The lead of a search (R560, R561, R585, R589–R593). Progress: 1 shape asked, 2 homes asked. -/

/-- The Atoll of a command in the lead's current map, or the status that ends the command. -/
def cmdAtoll (s : State) (c : Cmd) (id : Nat) : AtollRec ⊕ Nat :=
  match NMap.get? s.maps.cur.atolls id with
  | none => .inr stNotMapped
  | some a => if a.isle = c.isle then .inl a else .inr stPermission

/-- The device asked for an Atoll's shape: this one where it holds a shard, else the one given (log 20). -/
def shapeHome (s : State) (isle id other : Nat) : Nat := if (shard? s isle id).isSome then s.pool.id else other

/-- The status of an entry's checks at the lead (R590). -/
def searchEntryStatus (s : State) (c : Cmd) (dims i : Nat) : Nat :=
  let e := seEntry c.arg i
  if !seFieldsOk c.arg i then stBadDescriptor
  else
    let at' := fun (va len need : Nat) => match rangeFault s c.isle va len need with | some (_, st) => st | none => stOk
    if at' e.q (dims * (if asBf16 c then 2 else 4)) 1 ≠ stOk then at' e.q (dims * (if asBf16 c then 2 else 4)) 1
    else if e.nbits ≠ 0 ∧ at' e.bm e.bmLen 1 ≠ stOk then at' e.bm e.bmLen 1
    else at' e.out (16 + 16 * asK c) 2

/-- A home's words for each entry: status and words. -/
def splitAnswers : Nat → List Nat → List (Nat × List Nat)
  | 0, _ => []
  | n + 1, w => (w.getD 0 0, (w.drop 2).take (w.getD 1 0)) :: splitAnswers n (w.drop (2 + w.getD 1 0))

/-- The merged answer of one entry: records read, side entries scanned, records lost, and the first k results. -/
def mergeEntry (c : Cmd) (i : Nat) : (Nat × Nat × Nat) × List (Nat × Nat) :=
  let ans := c.subs.map (fun x => ((splitAnswers (asCount c) x.answer.words).getD i (0, [])).2)
  let res := (ans.zip (List.range ans.length)).foldl (fun l a =>
    (wordPairs' (a.1.drop 4)).foldl (fun l r => insertKey (asK c) ({ dist := r.2, id := r.1, src := a.2 }, ()) l) l) []
  (((ans.map (·.getD 0 0)).sum, (ans.map (·.getD 1 0)).sum, (ans.map (·.getD 2 0)).sum), res.map (fun r => (r.1.id, r.1.dist)))
where
  wordPairs' : List Nat → List (Nat × Nat)
    | a :: b :: r => (a, b) :: wordPairs' r
    | _ => []

/-- The result area of an entry (R589). -/
def resultBytes (k : Nat) (h : Nat × Nat × Nat) (res : List (Nat × Nat)) : List Byte :=
  leBytes res.length 4 ++ leBytes h.1 4 ++ leBytes h.2.1 4 ++ leBytes h.2.2 4 ++
    (res ++ List.replicate (k - res.length) (0xFFFFFFFFFFFFFFFF, 0x7F800000)).flatMap (fun (r : Nat × Nat) => leBytes r.1 8 ++ leBytes r.2 4 ++ leBytes 0 4)

/-- Write the results and end (R591–R593). -/
def searchFinish (k : CmdKey) (c : Cmd) (s : State) : State :=
  let n := asCount c
  match access k c.isle ((List.range n).map (fun i => (⟨.reef, true, (seEntry c.arg i).out, 16 + 16 * asK c⟩ : Span))) s with
  | (.fail st, s) => endFree k st s
  | (.wait, s) => s
  | (.ok, s) =>
    let c := cmdNow s c
    let poisoned := fun i => c.data.words.contains i ||
      c.subs.any (fun x => ((splitAnswers n x.answer.words).getD i (stOk, [])).1 != stOk)
    let r := ((List.range n).filter (fun i => !poisoned i)).foldl (fun (r : List Nat × State) i =>
      let m := mergeEntry c i
      let w := vwrite k c.isle (seEntry c.arg i).out (resultBytes (asK c) m.1 m.2) r.2
      (if w.1 then r.1 ++ [i] else r.1, w.2)) ([], s)
    let s := r.2
    match (List.range n).filter (fun i => poisoned i || r.1.contains i) with
    | b :: bs => endCmd k stPoison (n - (bs.length + 1)) b s
    | [] =>
      let counts := (List.range n).map (fun i => (mergeEntry c i).2.length)
      let lost := ((List.range n).map (fun i => (mergeEntry c i).1.2.2)).sum
      let isShort := (List.range n).find? (fun i => counts.getD i 0 < asK c)
      endCmd k (if 0 < lost then stDataLost else stOk) (counts.foldl min (counts.headD 0)) (isShort.getD 0xFFFFFFFF)
        (updCmd k (fun c => { c with short := isShort.isSome }) s)

def searchGo (k : CmdKey) : Nat → State → State
  | 0, s => s
  | fuel + 1, s =>
    match cmd? s k with
    | none => s
    | some c0 =>
      let s := runLocal k (fun x s => homeSearch k (spaceOf s x.peer c0.isle) c0 x.data s) s
      match cmd? s k with
      | none => s
      | some c =>
        if !allAnswered c then s
        else
          match firstFailing c with
          | some x => failLead k x s
          | none =>
            if c.aux.headD 0 = 2 then searchFinish k c s
            else
              let shape := match c.subs.head? with | some x => x.answer.words | none => []
              let dims := shape.getD 0 0
              let n := asCount c
              match (List.range n).find? (fun i => searchEntryStatus s c dims i != stOk) with
              | some i => endCmd k (searchEntryStatus s c dims i) 0 i s
              | none =>
                let qlen := dims * (if asBf16 c then 2 else 4)
                match access k c.isle ((List.range n).map (fun i => (⟨.reef, false, (seEntry c.arg i).q, qlen⟩ : Span))) s with
                | (.fail st, s) => endFree k st s
                | (.wait, s) => s
                | (.ok, s) =>
                  let c := cmdNow s c
                  let bad := (List.range n).filter (fun i => vstatus s c (seEntry c.arg i).q qlen != stOk)
                  -- a poisoned query takes no part; its place in the data is a vector of ones
                  let qs := (List.range n).flatMap (fun i =>
                    (if bad.contains i then List.replicate dims 0x3F800000
                     else decodeVec (if asBf16 c then 1 else 0) dims (vread s c (seEntry c.arg i).q qlen)).flatMap (fun x => leBytes x 4))
                  match cmdAtoll s c (asId c) with
                  | .inr st => endFree k st s
                  | .inl a =>
                    searchGo k fuel (startSubs k ((a.homes.zip (List.range a.homes.length)).map (fun h =>
                      newSub h.2 h.1 c.desc { words := [0, 1, dims, shape.getD 1 0], bytes := c.arg ++ qs }))
                      (updCmd k (fun c => { c with aux := [2], data := { words := bad, bytes := [] }, fwd := [] }) s))

def execAtollSearch (k : CmdKey) (s : State) : Host.Outcome State Fault Refusal :=
  run (withCmd k 0x0300 (fun c s =>
    if c.lead.isSome then
      let r := homeSearch k c.isle c c.data (startCmd k s)
      endServed k r.1 r.2
    else if c.aux ≠ [] then searchGo k 3 s
    else if !searchFieldsOk c then badDesc k s
    else
      match cmdAtoll s c (asId c) with
      | .inr st => endFree k st s
      | .inl a =>
        searchGo k 3 (startSubs k [newSub 0 (shapeHome s c.isle (asId c) (a.homes.headD 0xFFF)) c.desc { words := [0, 0], bytes := [] }]
          (updCmd k (fun c => { c with aux := [1] }) (startCmd k s))))) s

/-! ## ATOLL_INSERT (R596–R598) -/

def aiCount (c : Cmd) : Nat := c.fld 34 0 6
def aiBf16 (c : Cmd) : Bool := bit (c.fld 34 0 8) 6
def aiItem (c : Cmd) (i : Nat) : Nat := field c.arg (64 * i) 8
def aiVec (c : Cmd) (i : Nat) : Nat := field c.arg (64 * i + 8) 8

def insertFieldsOk (c : Cmd) : Bool :=
  c.hasArg (· == 64 * aiCount c) && !descScheduled c.desc && 1 ≤ aiCount c && c.rz 34 7 1 && c.zero 35 63 &&
    (List.range (aiCount c)).all (fun i =>
      aiVec c i < 2 ^ 55 && aiVec c i % (if aiBf16 c then 2 else 4) == 0 && zeros c.arg (64 * i + 48) 16)

/-- The home an insert names: the same in every entry, with no reserved local id (R597). -/
def insertHome (c : Cmd) : Option Nat :=
  let h := aiItem c 0 / 2 ^ 52
  if (List.range (aiCount c)).all (fun i => aiItem c i / 2 ^ 52 == h && aiItem c i % 2 ^ 52 != 0xFFFFFFFFFFFFF) then some h else none

/-- A home's share of an insert: phase 0 its shape; phase 1 words dims and metric, bytes the argument block and the vectors as
FP32. A conflict's first count is the index of the first tombstoned entry. -/
def homeInsert (isle : Nat) (c : Cmd) (d : SubData) (s : State) : Home × State :=
  if subPhase d = 0 then (homeShape isle (asId c) s, s)
  else
    match shard? s isle (asId c) with
    | none => (.st stNotMapped, s)
    | some sh =>
      let w := subWords d
      let n := aiCount c
      let v := fun i => decodeVec 0 sh.dims ((d.bytes.drop (64 * n + 4 * sh.dims * i)).take (4 * sh.dims))
      let id := fun i => field d.bytes (64 * i) 8
      if w.getD 0 0 ≠ sh.dims ∨ w.getD 1 0 ≠ sh.metric then (.st stBadDescriptor, s)
      else if (List.range n).any (fun i => vecRefused sh.metric (v i)) then (.st stBadDescriptor, s)
      else
        match (List.range n).find? (fun i => sh.tombs.any (fun t => t.2 == id i)) with
        | some i => (.done stVersionConflict 0 i 0 noData, s)
        | none =>
          let new := (List.range n).foldl (fun (l : List Nat) i =>
            if sh.sides.any (fun x => x.id == id i) || l.any (fun j => id j == id i) then l else l ++ [i]) []
          if sh.sideCap < sh.sides.length + new.length then (.st stQuota, s)
          else
            let items := (new.zip (List.range new.length)).map (fun x =>
              let e := encodeItem sh.metric sh.so (v x.1)
              ({ seq := (sh.sideTail + x.2) % 2 ^ 32, id := id x.1, norm := e.2,
                 attrs := (List.range 8).map (fun j => field d.bytes (64 * x.1 + 16 + 4 * j) 4), codes := e.1 } : Side))
            (.done stOk 0 new.length (n - new.length) noData,
             syncShard isle (asId c) { sh with sides := sh.sides ++ items, sideTail := (sh.sideTail + new.length) % 2 ^ 32 } s)

def insertGo (k : CmdKey) : Nat → State → State
  | 0, s => s
  | fuel + 1, s =>
    match cmd? s k with
    | none => s
    | some c0 =>
      let s := runLocal k (fun x s => homeInsert (spaceOf s x.peer c0.isle) c0 x.data s) s
      match cmd? s k with
      | none => s
      | some c =>
        if !allAnswered c then s
        else
          match firstFailing c, c.subs.head? with
          | some x, _ =>
            if x.status = some stVersionConflict then endCmd k stVersionConflict x.counts.1 (Config.freeWord s.free).toNat (nextFree s)
            else failLead k x s
          | none, none => s
          | none, some x =>
            if c.aux.headD 0 = 2 then endCmd k stOk x.counts.1 x.counts.2 s
            else
              let dims := x.answer.words.getD 0 0
              let n := aiCount c
              let len := dims * (if aiBf16 c then 2 else 4)
              match access k c.isle ((List.range n).map (fun i => (⟨.reef, false, aiVec c i, len⟩ : Span))) s with
              | (.fail st, s) => endFree k st s
              | (.wait, s) => s
              | (.ok, s) =>
                let c := cmdNow s c
                match (List.range n).find? (fun i => vstatus s c (aiVec c i) len != stOk) with
                | some i => endFree k (vstatus s c (aiVec c i) len) s
                | none =>
                  let vs := (List.range n).flatMap (fun i =>
                    (decodeVec (if aiBf16 c then 1 else 0) dims (vread s c (aiVec c i) len)).flatMap (fun v => leBytes v 4))
                  insertGo k fuel (startSubs k [newSub 0 x.peer c.desc
                    { words := [0, 1, dims, x.answer.words.getD 1 0], bytes := c.arg ++ vs }]
                    (updCmd k (fun c => { c with aux := [2], fwd := [] }) s))

def execAtollInsert (k : CmdKey) (s : State) : Host.Outcome State Fault Refusal :=
  run (withCmd k 0x0301 (fun c s =>
    if c.lead.isSome then
      let r := homeInsert c.isle c c.data (startCmd k s)
      endServed k r.1 r.2
    else if c.aux ≠ [] then insertGo k 3 s
    else if !insertFieldsOk c then badDesc k s
    else
      match cmdAtoll s c (asId c), insertHome c with
      | .inr st, _ => endFree k st s
      | .inl _, none => badDesc k s
      | .inl a, some h =>
        if !a.homes.contains h then badDesc k s
        else
          insertGo k 3 (startSubs k [newSub 0 h c.desc { words := [0, 0], bytes := [] }]
            (updCmd k (fun c => { c with aux := [1] }) (startCmd k s))))) s

/-! ## ATOLL_DELETE (R600, R601) -/

def adCount (c : Cmd) : Nat := c.fld 36 0 16
def adId (c : Cmd) (i : Nat) : Nat := field c.arg (8 * i) 8

def deleteFieldsOk (c : Cmd) : Bool :=
  c.hasArg (· == 64 * ceilDiv (adCount c) 8) && !descScheduled c.desc && c.zero 34 35 && 1 ≤ adCount c && adCount c ≤ 512 && c.zero 38 63 &&
    zeros c.arg (8 * adCount c) (64 * ceilDiv (adCount c) 8 - 8 * adCount c)

/-- A home's share of a delete: the item ids in the words. -/
def homeDelete (isle : Nat) (c : Cmd) (d : SubData) (s : State) : Home × State :=
  match shard? s isle (asId c) with
  | none => (.st stNotMapped, s)
  | some sh =>
    let ids := subWords d
    let new := ids.foldl (fun l i => if sh.tombs.any (fun t => t.2 == i) || l.contains i then l else l ++ [i]) []
    if sh.tombCap < sh.tombs.length + new.length then (.st stQuota, s)
    else
      (.done stOk 0 new.length (ids.length - new.length) noData,
       syncShard isle (asId c)
         { sh with tombs := sh.tombs ++ (new.zip (List.range new.length)).map (fun x => ((sh.tombTail + x.2) % 2 ^ 32, x.1)),
                   tombTail := (sh.tombTail + new.length) % 2 ^ 32 } s)

def deleteGo (k : CmdKey) (s : State) : State :=
  match cmd? s k with
  | none => s
  | some c0 =>
    let s := runLocal k (fun x s => homeDelete (spaceOf s x.peer c0.isle) c0 x.data s) s
    match cmd? s k with
    | none => s
    | some c =>
      if !allAnswered c then s
      else
        match firstFailing c with
        | some x => failLead k x s
        | none => endCmd k stOk (c.subs.map (·.counts.1)).sum (c.subs.map (·.counts.2)).sum s

def execAtollDelete (k : CmdKey) (s : State) : Host.Outcome State Fault Refusal :=
  run (withCmd k 0x0302 (fun c s =>
    if c.lead.isSome then
      let r := homeDelete c.isle c c.data (startCmd k s)
      endServed k r.1 r.2
    else if c.aux ≠ [] then deleteGo k s
    else if !deleteFieldsOk c then badDesc k s
    else
      match cmdAtoll s c (asId c) with
      | .inr st => endFree k st s
      | .inl a =>
        let ids := (List.range (adCount c)).map (adId c)
        let homes := homesInOrder (ids.map (· / 2 ^ 52))
        deleteGo k (startSubs k (homes.map (fun h =>
          newSub (a.homes.takeWhile (· != h.1)).length h.1 c.desc
            { words := [0, 1] ++ ids.filter (fun i => i / 2 ^ 52 == h.1), bytes := [] }))
          (updCmd k (fun c => { c with aux := [1] }) (startCmd k s))))) s

/-! ## ATOLL_MERGE (R602–R610) -/

def amDiscard (c : Cmd) : Bool := bit (c.fld 34 0 8) 0
def amBeam (c : Cmd) : Nat := c.fld 36 0 16

def mergeFieldsOk (c : Cmd) : Bool :=
  !descArgBlock c.desc && !descScheduled c.desc && c.zero 16 31 && c.rz 34 1 7 && c.zero 35 35 && c.zero 38 63 &&
    (if amDiscard c then amBeam c == 0 else 16 ≤ amBeam c && amBeam c ≤ 256)

/-- Whether a merge is run by a command now. -/
def mergeRuns (s : State) (m : Merge) : Bool :=
  match m.cmd with
  | some k => (cmd? s k).any (fun c => c.phase == .running && c.opcode == 0x0303)
  | none => false

/-- Slots of the record area in use: the active root's, those not yet freed, and those a merge has written. -/
def usedSlots (sh : Shard) : List Nat :=
  (sh.root.segs ++ sh.oldSlots ++ (match sh.merge with | some m => m.written | none => [])).filter (· != 0xFFFFFFFF)

/-- Prepared form of an item taken as a query (R604). -/
def prepItem (sh : Shard) (i : Item) : Prepared := prepare sh.metric sh.so (decodeItem sh.so i.codes)

/-- prune of R604: candidates by (distance, item id), without repeats and without the item itself. -/
def prune (sh : Shard) (self : Nat) (p : Item) (cs : List (Nat × Item)) : List Nat :=
  let cs := cs.foldl (fun (l : List (Nat × Item)) c => if c.1 == self || l.any (fun x => x.1 == c.1) then l else l ++ [c]) []
  let q := prepItem sh p
  let sorted := cs.foldl (fun l c =>
    insertKey cs.length ({ dist := distance sh.metric q c.2.codes c.2.norm, id := c.2.id, src := c.1 }, c) l) []
  (sorted.foldl (fun (out : List (Nat × Item)) c =>
    if sh.degree ≤ out.length then out
    else if out.any (fun n =>
        fLe (fMul 0x3F99999A (distance sh.metric (prepItem sh n.2) c.2.2.codes c.2.2.norm)) c.1.dist) then out
    else out ++ [c.2]) []).map (·.1)

/-- The new graph of a merge: for each node number its record, or nothing; with the entry node, the number removed as tombstoned
and the records that could not be read. -/
def buildMerge (s : State) (isle : Nat) (sh : Shard) (beam : Nat) : List (Option (List Byte)) × Nat × Nat × Nat :=
  let r := sh.root
  let tomb := fun (i : Nat) => sh.tombs.any (fun t => t.2 == i)
  let nodes := (List.range r.nodes).map (fun n => readNode s isle sh r n)
  let nodeAt := fun (n : Nat) => match nodes.getD n .absent with | .item i => some i | _ => none
  let live := fun (n : Nat) => match nodeAt n with | some i => !tomb i.id | none => false
  -- A and B: survivors and numbering
  let holes := (List.range r.nodes).filter (fun n => !live n)
  let p := ((sh.sides.zip (List.range sh.sides.length)).filter (fun x => !tomb x.1.id)).foldl (fun l x =>
    insertKey sh.sides.length ({ dist := 0, id := x.1.id, src := x.2 }, x.1.item) l) []
  let num := fun (i : Nat) => if i < holes.length then holes.getD i 0 else r.nodes + (i - holes.length)
  let side := (p.map (·.2)).zip ((List.range p.length).map num) |>.map (fun x => (x.2, x.1))
  let newItem := fun (n : Nat) => match side.find? (fun x => x.1 == n) with | some x => some x.2 | none => (if live n then nodeAt n else none)
  -- C: linking
  let linked := side.foldl (fun (a : List (Nat × Item) × NMap (List Nat) × NMap (List Nat)) x =>
    let walked := ((walkGraph s isle sh (prepItem sh x.2) beam 4 (4 * beam)).items).filter (fun v => live v.1)
    let out := prune sh x.1 x.2 (walked ++ a.1)
    (a.1 ++ [x], NMap.set a.2.1 x.1 out, out.foldl (fun b n => NMap.set b n (NMap.getD b n [] ++ [x.1])) a.2.2)) ([], [], [])
  let outs := linked.2.1
  let back := fun (n : Nat) => NMap.getD linked.2.2 n []
  -- D: the records
  let items := fun (ns : List Nat) => ns.filterMap (fun n => (newItem n).map (fun i => (n, i)))
  let total := r.nodes + p.length
  let graph := (List.range total).map (fun n =>
    match side.find? (fun x => x.1 == n) with
    | some x => some (recordOf { x.2 with nbrs := prune sh n x.2 (items (NMap.getD outs n [] ++ back n)) })
    | none =>
      match (if live n then nodeAt n else none) with
      | none => none
      | some i =>
        let ns := i.nbrs.filter live ++ (i.nbrs.filter (fun m => !live m)).flatMap (fun m =>
          match nodeAt m with | some j => j.nbrs.filter live | none => [])
        some (recordOf { i with nbrs := prune sh n i (items (ns ++ back n)) }))
  -- trailing absent numbers are dropped (R605)
  let trimmed := (graph.reverse.dropWhile (·.isNone)).reverse
  let entry := if live r.entry then r.entry else
    (((List.range trimmed.length).find? (fun n => (trimmed.getD n none).isSome)).getD 0xFFFFFFFF)
  let removed := ((List.range r.nodes).filter (fun n => match nodeAt n with | some i => tomb i.id | none => false)).length +
    (sh.sides.filter (fun x => tomb x.id)).length
  (trimmed, entry, removed, (nodes.filter (· == .lost)).length)

/-- A merge takes its snapshot and builds, takes up a merge that a reset left, or discards one. Passes A to C, and the lists of
pass D, are formed at once from the snapshot; MERGE_CHECKPOINT writes the segments (log 20). -/
def execAtollMerge (k : CmdKey) (s : State) : Host.Outcome State Fault Refusal :=
  run (withCmd k 0x0303 (fun c s =>
    let id := asId c
    if c.phase == .running then s
    else if !mergeFieldsOk c then badDesc k s
    else
      match cmdAtoll s c id, shard? s c.isle id with
      | .inr st, _ => endFree k st s
      | .inl _, none => endFree k stNotMapped s
      | .inl _, some sh =>
        let start := fun (m : Merge) (s : State) =>
          syncShard c.isle id { sh with merging := true, merge := some { m with cmd := some k } }
            (startCmd k { s with atolls := { s.atolls with threads := s.atolls.threads ++ [(c.isle, 512, k)] } })
        if amDiscard c then
          match sh.merge with
          | some m =>
            if mergeRuns s m then endFree k stQuota s
            else endCmd k stOk 0 0 (syncShard c.isle id { sh with merging := false, merge := none } s)
          | none => badDesc k s
        else if reefFree s c.isle < 512 then endFree k stQuota s
        else if 4 ≤ (s.atolls.shards.filter (fun x => match x.2.merge with | some m => mergeRuns s m | none => false)).length then
          endFree k stQuota s
        else
          match sh.merge with
          | some m => if mergeRuns s m then endFree k stQuota s else start m s
          | none =>
            if sh.slots - (usedSlots sh).length < ceilDiv (sh.root.nodes + sh.sides.length) 4096 then endFree k stQuota s
            else
              let b := buildMerge s c.isle sh (amBeam c)
              start { cmd := some k, sideTail := sh.sideTail, tombTail := sh.tombTail, graph := b.1, removed := b.2.2.1, lost := b.2.2.2,
                      entry := b.2.1, written := [], checkpoint := 0 } s)) s

/-- The shard whose merge a command runs, with its isle and Atoll. -/
def mergeOf (s : State) (k : CmdKey) : Option (Nat × Nat × Shard × Merge) :=
  s.atolls.shards.findSome? (fun x =>
    match x.2.merge with
    | some m => if m.cmd == some k && mergeRuns s m then some (x.1 / 65536, x.1 % 65536, x.2, m) else none
    | none => none)

/-- Segments of the new graph. -/
def Merge.segCount (m : Merge) : Nat := ceilDiv m.graph.length 4096

/-- The next segment of a merge has been written whole to a free slot, the lowest (log 20), and its checkpoint is in the flash
journal (R606). -/
def execMergeCheckpoint (k : CmdKey) (s : State) : Host.Outcome State Fault Refusal :=
  run (fun s =>
    match mergeOf s k with
    | none => s
    | some (isle, id, sh, m) =>
      if m.segCount ≤ m.checkpoint then s
      else
        let recs := (m.graph.drop (m.checkpoint * 4096)).take 4096
        if recs.all (·.isNone) then
          putShard isle id { sh with merge := some { m with written := m.written ++ [0xFFFFFFFF], checkpoint := m.checkpoint + 1 } } s
        else
          match (List.range sh.slots).find? (fun i => !(usedSlots sh).contains i) with
          | none => s
          | some slot =>
            let bs := (recs ++ List.replicate (4096 - recs.length) none).flatMap (fun (r : Option (List Byte)) => r.getD absentRecord)
            let w := vstore isle (sh.recordVa + slot * segSize) bs s
            putShard isle id { sh with merge := some { m with written := m.written ++ [slot], checkpoint := m.checkpoint + 1 } } w.2) s

/-- A merge that has written every segment commits with one state-line write (R605, R607, R610). -/
def execMergeCommit (k : CmdKey) (s : State) : Host.Outcome State Fault Refusal :=
  run (fun s =>
    match mergeOf s k with
    | none => s
    | some (isle, id, sh, m) =>
      if m.checkpoint < m.segCount then s
      else
        let live := (m.graph.filter (·.isSome)).length
        let root : Root := { nodes := m.graph.length, live := live, entry := m.entry, segs := m.written }
        let gone := seqDist (BitVec.ofNat 32 m.sideTail) (BitVec.ofNat 32 sh.sideHead)
        let goneT := seqDist (BitVec.ofNat 32 m.tombTail) (BitVec.ofNat 32 sh.tombHead)
        let sh' : Shard :=
          { sh with active := !sh.active, merging := false, merge := none, gen := sh.gen + 1, sideHead := m.sideTail,
                    tombHead := m.tombTail, sides := sh.sides.drop gone, tombs := sh.tombs.drop goneT, nav := [],
                    oldSlots := sh.oldSlots ++ sh.root.segs.filter (· != 0xFFFFFFFF),
                    rootA := if sh.active then root else sh.rootA, rootB := if sh.active then sh.rootB else root }
        endCmd k (if 0 < m.lost then stDataLost else stOk) live m.removed (syncShard isle id sh' s)) s

/-- The slots of an old root are freed: every query of its generation has ended (R608); a query here ends in the step it
starts in. -/
def execOldRootFree (isle atoll : Nat) (s : State) : Host.Outcome State Fault Refusal :=
  run (fun s =>
    match NMap.get? s.atolls.shards (shardKey isle atoll) with
    | some sh => putShard isle atoll { sh with oldSlots := [] } s
    | none => s) s

end Sys2Proof.Machine
end

