-- ==== Sys2Proof/Machine/Lagoon.lean ====
section
/-! DEFINITION. Lagoon sequences (chapter 10): shapes, pages and handles, the home's record and its ownership, KV_APPEND, and the
lifecycle and handoff commands. A command that names a sequence goes on in phases: its home answers phase 0; the holders of its
pages answer the later ones. -/

namespace Sys2Proof.Machine

/-! ## Shape, pages and handles (R452–R460) -/

/-- Lh (R453). -/
def KvSeq.lh (q : KvSeq) : Nat := vecLen q.fmt q.headDim

/-- Halve `t` until `n × t` fits 32,768. -/
def fitTokens (n : Nat) : Nat → Nat → Nat
  | 0, t => t
  | fuel + 1, t => if n * t ≤ 32768 then t else fitTokens n fuel (t / 2)

/-- Tokens per page T (R453). -/
def KvSeq.tpp (q : KvSeq) : Nat := fitTokens (q.kvHeads * q.lh) 8 256

/-- Place of the entry of a placement list that holds a span (R456). -/
def placeIndex (place : List (Nat × Nat)) (span : Nat) : Nat := (place.takeWhile (fun p => p.2 ≤ span)).length - 1

/-- The device that holds a span. -/
def holderOf (place : List (Nat × Nat)) (span : Nat) : Nat := (place.getD (placeIndex place span) (0xFFF, 0)).1

/-- Length of a sequence: its lowest fill (R492). -/
def minFill (l : List Nat) : Nat := l.foldl min (l.headD 0)
def KvSeq.length (q : KvSeq) : Nat := minFill q.fills

def hPool (h : Nat) : Nat := bits h 52 12
def hSlot (h : Nat) : Nat := bits h 32 16
def hGen (h : Nat) : Nat := bits h 0 32

/-- Key of a home record: a partner's sequences are kept apart. -/
def seqKey (isle slot : Nat) : Nat := if isle < twinIsle then slot else 65536 + slot

/-- The handle of a record (R459). -/
def handleOf (pool slot gen : Nat) : Nat := pool * 2 ^ 52 + slot * 2 ^ 32 + gen

/-- The sequence a handle names for an isle at its home (R459). -/
def seq? (s : State) (isle h : Nat) : Option KvSeq :=
  match NMap.get? s.lagoon.seqs (seqKey isle (hSlot h)) with
  | some q =>
    if q.gen.toNat = hGen h ∧ q.isle = isle % twinIsle ∧ homeHere s isle (hPool h) ∧ bits h 48 4 = 0 then some q else none
  | none => none

/-- Words of a record, as a home answers them and the twin receives them. -/
def seqWords (q : KvSeq) : List Nat :=
  [q.gen.toNat, q.isle, q.layers, q.kvHeads, q.headDim, q.fmt, q.group, q.sat.toNat, q.refs, q.owner, q.ostate, q.isSealed.toNat,
   q.target, q.ownerGone.toNat, q.place.length, q.keys.length] ++
    q.place.flatMap (fun p => [p.1, p.2]) ++ q.keys ++ q.fills

/-- The record that words give. -/
def seqOfWords (w : List Nat) : KvSeq :=
  let g := fun i => w.getD i 0
  let np := g 14
  let nk := g 15
  { gen := BitVec.ofNat 32 (g 0), isle := g 1, layers := g 2, kvHeads := g 3, headDim := g 4, fmt := g 5, group := g 6,
    sat := g 7 == 1, refs := g 8, owner := g 9, ostate := g 10, isSealed := g 11 == 1, target := g 12, ownerGone := g 13 == 1,
    place := (List.range np).map (fun i => (g (16 + 2 * i), g (17 + 2 * i))),
    keys := (w.drop (16 + 2 * np)).take nk, fills := w.drop (16 + 2 * np + nk), mutating := [] }

/-- The home mirrors a record to its twin (R461): no words for a record that is gone. -/
def noteSeq (key : Nat) (s : State) : State :=
  match NMap.get? s.lagoon.seqs key with
  | some q => twinNote 11 (key :: seqWords q) [] s
  | none => twinNote 11 [key] [] s

def putSeq (isle slot : Nat) (q : KvSeq) (s : State) : State :=
  noteSeq (seqKey isle slot) { s with lagoon := { s.lagoon with seqs := NMap.set s.lagoon.seqs (seqKey isle slot) q } }

/-- The ring id of an SQ (R502): the partner's mirrored rings stand from 8,192 up (log 16). -/
def sqRingId (s : State) (sq : Nat) : Nat := if sq < 8192 then s.pool.id * 4096 + sq else s.twin.held * 4096 + (sq - 8192)

/-- The ring id of a command's ring. -/
def ringId (s : State) (k : CmdKey) : Nat := sqRingId s k.sq

/-- Record in the bitmap of homes of a command's SQ (R507). -/
def nameHome (k : CmdKey) (home : Nat) (s : State) : State :=
  let m := NMap.set s.lagoon.ringHomes k.sq (insertNat home (NMap.getD s.lagoon.ringHomes k.sq []))
  { s with lagoon := { s.lagoon with ringHomes := m } }

/-! ## KV pages at a holder (R457) -/

/-- The page of a sequence that a layer's page index lies in, as isle × 2^39 + virtual page. -/
def kvPage (s : State) (h layer idx : Nat) : Option Nat :=
  (s.lagoon.pages.find? (fun e => e.1 == h && e.2.1 == layer && e.2.2.1 == idx)).map (·.2.2.2)

/-- References to a page. -/
def pageRefs (s : State) (pk : Nat) : Nat := (s.lagoon.pages.filter (fun e => e.2.2.2 == pk)).length

/-- Whether a page holds KV or a page map. -/
def kvUsed (s : State) (pk : Nat) : Bool :=
  s.lagoon.pages.any (fun e => e.2.2.2 == pk) || s.lagoon.mapPages.any (fun e => e.2 == pk)

/-- The free Lagoon pages of an isle in a DRAM tier, lowest address first (log 10). -/
def freeKv (s : State) (isle : Nat) (t : Tier) : List Nat :=
  (((regionsOf s isle).filter (fun r => r.2.isle == isle % twinIsle && r.2.ty == 1)).flatMap
    (fun r => pagesOf r.2.va r.2.len)).filter (fun p =>
      !kvUsed s (pageKey isle p) &&
        (match walk s isle p with | .entry e => inTier t (eOff e / pageSize) | _ => false))

/-- `n` pages: HBM-resident ones, then DDR-resident ones; none where they are not there. DESIGN CHOICE (log 61). -/
def takeKv (s : State) (isle n : Nat) : Option (List Nat) :=
  let l := (freeKv s isle .hbm ++ freeKv s isle .ddr).take n
  if l.length = n then some l else none

/-- A page taken reads as zero where no vector covers it (R454). -/
def zeroPage (k : CmdKey) (isle : Nat) (s : State) (vpage : Nat) : State :=
  match walk s isle vpage with
  | .entry e =>
    if through s isle (vpage * pageSize) e then vput k isle (vpage * pageSize) (List.replicate pageSize 0) s
    else
      let s := clearBytes (eOff e) pageSize s
      { s with store := { s.store with
          poison := s.store.poison.filter (fun l => l / pageSize != eOff e / pageSize)
          lost := s.store.lost.filter (fun l => l / pageSize != eOff e / pageSize) } }
  | _ => s

def setKvPage (h layer idx pk : Nat) (s : State) : State :=
  let l := s.lagoon.pages.filter (fun e => !(e.1 == h && e.2.1 == layer && e.2.2.1 == idx))
  { s with lagoon := { s.lagoon with pages := l ++ [(h, layer, idx, pk)] } }

def dropKvPage (h layer idx : Nat) (s : State) : State :=
  let l := s.lagoon.pages.filter (fun e => !(e.1 == h && e.2.1 == layer && e.2.2.1 == idx))
  { s with lagoon := { s.lagoon with pages := l } }

/-- Take the page-map page of a sequence that has none here. DESIGN CHOICE (log 61). -/
def takeMapPage (k : CmdKey) (isle h : Nat) (s : State) : Option State :=
  if (NMap.get? s.lagoon.mapPages h).isSome then some s
  else
    match takeKv s isle 1 with
    | some (p :: _) =>
      some (zeroPage k isle { s with lagoon := { s.lagoon with mapPages := NMap.set s.lagoon.mapPages h (pageKey isle p) } } p)
    | _ => none

/-- Drop every page reference of a sequence here (R499). -/
def dropSeqPages (h : Nat) (s : State) : State :=
  { s with lagoon := { s.lagoon with
      pages := s.lagoon.pages.filter (fun e => e.1 != h), mapPages := NMap.del s.lagoon.mapPages h } }

/-- Take or copy the page of one layer and page index (R467, R469): none without room. -/
def reserveOne (k : CmdKey) (isle h layer idx : Nat) (s : State) : Option (List Nat × State) :=
  match kvPage s h layer idx with
  | none =>
    match takeKv s isle 1 with
    | some (p :: _) => some ([layer, idx, 0], setKvPage h layer idx (pageKey isle p) (zeroPage k isle s p))
    | _ => none
  | some pk =>
    if pageRefs s pk ≤ 1 then some ([], s)
    else
      match takeKv s isle 1 with
      | some (p :: _) =>
        let old := pk % 2 ^ 39
        match offOf s isle (old * pageSize) with
        | some o =>
          let bs := readBytes s o pageSize
          some ([layer, idx, pk + 1], setKvPage h layer idx (pageKey isle p) (vput k isle (p * pageSize) bs (zeroPage k isle s p)))
        | none => none
      | _ => none

/-- Give reserved pages back: words layer, page index, and the page it pointed at plus one. -/
def unreserve (h : Nat) : List Nat → State → State
  | l :: i :: o :: r, s => unreserve h r (if o = 0 then dropKvPage h l i s else setKvPage h l i (o - 1) s)
  | _, s => s

/-- Reserve a list of (layer, page index): what was taken, or nothing with the state it began in. -/
def reserveAll (k : CmdKey) (isle h : Nat) : List (Nat × Nat) → State → Option (List Nat × State)
  | [], s => some ([], s)
  | p :: r, s =>
    match reserveOne k isle h p.1 p.2 s with
    | none => none
    | some (w, s) => match reserveAll k isle h r s with | some (w', s) => some (w ++ w', s) | none => none

/-! ## KV_APPEND (R463–R470) -/

def kvHandle (c : Cmd) : Nat := c.fld 16 0 64
def kvPos (c : Cmd) : Nat := c.fld 24 0 23
def kvN (c : Cmd) : Nat := c.fld 28 0 17
def kvLayer (c : Cmd) : Nat := c.fld 32 0 8
def kvLayers (c : Cmd) : Nat := c.fld 34 0 9
def kvFmt (c : Cmd) : Nat := c.fld 36 0 2
def kvLayerStride (c : Cmd) : Nat := c.fld 48 0 64
def kvTokenStride (c : Cmd) : Nat := c.fld 56 0 32

def appendFieldsOk (c : Cmd) : Bool :=
  !descArgBlock c.desc && c.rz 24 23 9 && 1 ≤ kvN c && kvN c ≤ 65536 && c.rz 28 17 15 && c.rz 32 8 8 && 1 ≤ kvLayers c &&
    kvLayers c ≤ 256 && c.rz 34 9 7 && kvFmt c != 3 && c.rz 36 2 6 && c.zero 37 39 && c.rz 40 55 9

/-- Bytes of an element of the input format. -/
def kvElem (c : Cmd) : Nat := if kvFmt c = 0 then 4 else 2

/-- Bytes of an input record (R464). -/
def kvRecord (c : Cmd) (q : KvSeq) : Nat := 2 * q.kvHeads * q.headDim * kvElem c

/-- The home's checks of an append (R465, R503): field ranges first (DEDUCED, log 18), then the fills, the owner and the seal. On a
wrong position the first count is the lowest fill of the named layers (R470). A good append is under way until it ends. -/
def homeAppend (k : CmdKey) (isle lead ring : Nat) (c : Cmd) (s : State) : Home × State :=
  match seq? s isle (kvHandle c) with
  | none => (.st stNotMapped, s)
  | some q =>
    let fills := (q.fills.drop (kvLayer c)).take (kvLayers c)
    if q.layers < kvLayer c + kvLayers c ∨ 8388608 < kvPos c + kvN c ∨ kvTokenStride c < kvRecord c q then (.st stBadDescriptor, s)
    else if fills.any (fun f => f != kvPos c) then (.done stBadDescriptor 0 (minFill fills) 1 noData, s)
    else if q.owner ≠ ring ∨ q.ostate ≠ 0 then (.st stNotOwner, s)
    else if q.isSealed then (.st stPermission, s)
    else
      (.done stOk 0 0 0 { words := seqWords q, bytes := [] },
       putSeq isle (hSlot (kvHandle c)) { q with mutating := q.mutating.filter (· != (lead, k)) ++ [(lead, k)] } s)

/-- An append or other mutation under way ends at the home; with `fill` the named layers reach their new fill (R468). -/
def endMutation (k : CmdKey) (isle lead h : Nat) (fill : Option (Nat × Nat × Nat)) (s : State) : State :=
  match seq? s isle h with
  | none => s
  | some q =>
    let fills :=
      match fill with
      | some (l, n, v) => (q.fills.zip (List.range q.fills.length)).map (fun x => if l ≤ x.2 ∧ x.2 < l + n then v else x.1)
      | none => q.fills
    putSeq isle (hSlot h) { q with mutating := q.mutating.filter (· != (lead, k)), fills := fills } s

/-- The pages that positions `[pos, pos+n)` of a layer touch in the spans that a device holds. -/
def pagesTouched (q : KvSeq) (holder pos n : Nat) : List Nat :=
  ((List.range ((pos + n - 1) / q.tpp - pos / q.tpp + 1)).map (fun i => pos / q.tpp + i)).filter (fun i =>
    holderOf q.place (i * q.tpp / 256) == holder)

/-- Pairs of words. -/
def wordPairs : List Nat → List (Nat × Nat)
  | a :: b :: r => (a, b) :: wordPairs r
  | _ => []

/-- A holder writes encoded vectors: words handle, T, Lh, heads, then (layer, position) of each record; bytes the K vectors of
the heads and then the V vectors, record by record (R454). -/
def writeKv (k : CmdKey) (isle : Nat) (w : List Nat) (bs : List Byte) (s : State) : Home × State :=
  let h := w.getD 0 0
  let t := w.getD 1 1
  let lh := w.getD 2 0
  let heads := w.getD 3 0
  let items := (wordPairs (w.drop 4)).zip (List.range (w.length / 2))
  let at' := fun (s : State) (l p : Nat) => (kvPage s h l (p / t)).map (fun pk => pk % 2 ^ 39 * pageSize)
  let spans := items.flatMap (fun i =>
    match at' s i.1.1 i.1.2 with
    | some va => (List.range heads).flatMap (fun hd =>
        [⟨.lagoon, true, va + hd * t * lh + i.1.2 % t * lh, lh⟩, ⟨.lagoon, true, va + 32768 + hd * t * lh + i.1.2 % t * lh, lh⟩])
    | none => [])
  match access k isle spans s with
  | (.fail st, s) => (.st st, s)
  | (.wait, s) => (.wait, s)
  | (.ok, s) =>
    let r := items.foldl (fun (r : Bool × State) i =>
      match at' r.2 i.1.1 i.1.2 with
      | none => r
      | some va =>
        let one := (bs.drop (i.2 * (2 * heads * lh))).take (2 * heads * lh)
        (List.range (2 * heads)).foldl (fun (r : Bool × State) j =>
          let a := va + (if j < heads then j else j - heads) * t * lh + i.1.2 % t * lh + (if j < heads then 0 else 32768)
          let x := vwrite k isle a ((one.drop (j * lh)).take lh) r.2
          (r.1 || x.1, x.2)) r) (false, s)
    (.st (if r.1 then stPoison else stOk), r.2)

/-- A device's share of a KV_APPEND by phase: 0 the home checks; 1 a holder reserves pages (handle, then layer and page index of
each); 2 a holder writes; 3 a holder gives its pages back; 4 the home takes the new fills; 5 the home forgets the append. -/
def homeKv (k : CmdKey) (isle lead : Nat) (c : Cmd) (d : SubData) (s : State) : Home × State :=
  let w := subWords d
  let ph := subPhase d
  if ph = 0 then homeAppend k isle lead (w.headD 0) c s
  else if ph = 1 then
    let h := w.headD 0
    let ps := wordPairs (w.drop 1)
    if ps.any (fun p => match kvPage s h p.1 p.2 with | some pk => !mapped s isle (pk % 2 ^ 39) | none => false) then (.st stNotMapped, s)
    else
      match (takeMapPage k isle h s).bind (reserveAll k isle h ps) with
      | some (taken, s) => (.done stOk 0 (taken.length / 3) 0 { words := taken, bytes := [] }, s)
      | none => (.st stQuota, s)
  else if ph = 2 then writeKv k isle w d.bytes s
  else if ph = 3 then (.st stOk, unreserve (w.headD 0) (w.drop 1) s)
  else if ph = 4 then
    (.st stOk, endMutation k isle lead (kvHandle c) (some (kvLayer c, kvLayers c, kvPos c + kvN c)) s)
  else (.st stOk, endMutation k isle lead (kvHandle c) none s)

/-- Take the clusters R443 gives a WEAVE with cluster_mask zero, or those a pick demands (R485), then go on. -/
def withClusters (k : CmdKey) (fail : Nat → State → State) (go : State → State) (s : State) : State :=
  match cmd? s k with
  | none => s
  | some c =>
    if c.clusters ≠ [] then go s
    else
      match chooseClusters s c false 0 with
      | .fail st => fail st s
      | .wait => s
      | .ok l => go (takeClusters k c.isle l s)

/-- One encoded vector of an append: the input vector at an offset of a record (R464, R466). -/
def kvEncode (c : Cmd) (q : KvSeq) (bs : List Byte) (j : Nat) : List Byte :=
  let n := q.headDim * kvElem c
  encodeVec q.fmt q.sat 0 (decodeVec (kvFmt c) q.headDim ((bs.drop (j * n)).take n))

/-- The holders of the positions an append writes, each at its first placement entry. -/
def appendHolders (c : Cmd) (q : KvSeq) : List (Nat × Nat) :=
  (homesInOrder (q.place.map (·.1))).filter (fun h => pagesTouched q h.1 (kvPos c) (kvN c) != [])

/-- The input ranges of an append. -/
def appendInputs (c : Cmd) (q : KvSeq) : List Span :=
  (List.range (kvLayers c)).flatMap (fun l => (List.range (kvN c)).map (fun i =>
    ⟨.shuttle (c.clusters.headD 0), false, c.va 40 + l * kvLayerStride c + i * kvTokenStride c, kvRecord c q⟩))

/-- The shares that write an append. -/
def appendWrites (s : State) (c : Cmd) (q : KvSeq) : List Sub :=
  (appendHolders c q).map (fun h =>
    let items := (List.range (kvLayers c)).flatMap (fun l => ((List.range (kvN c)).filter (fun i =>
      holderOf q.place ((kvPos c + i) / 256) == h.1)).map (fun i => (l, i)))
    newSub h.2 h.1 c.desc
      { words := [0, 2, kvHandle c, q.tpp, q.lh, q.kvHeads] ++ items.flatMap (fun x => [kvLayer c + x.1, kvPos c + x.2])
        bytes := items.flatMap (fun x =>
          let rec' := vread s c (c.va 40 + x.1 * kvLayerStride c + x.2 * kvTokenStride c) (kvRecord c q)
          (List.range (2 * q.kvHeads)).flatMap (kvEncode c q rec')) })

/-- The home's share of the end of an append: phase 4 or 5. -/
def appendHome (c : Cmd) (ph : Nat) : Sub := newSub 0 (hPool (kvHandle c)) c.desc { words := [0, ph], bytes := [] }

/-- Go on with an append. Progress: stage (1 home asked, 2 pages reserved, 3 written, 4 failed and given back, 5 fills sent),
final status, pages taken. -/
def appendGo (k : CmdKey) : Nat → State → State
  | 0, s => s
  | fuel + 1, s =>
    match cmd? s k with
    | none => s
    | some c0 =>
      let s := runLocal k (fun x s => homeKv k (spaceOf s x.peer c0.isle) s.pool.id c0 x.data s) s
      match cmd? s k with
      | none => s
      | some c =>
        let stage := fun (n st taken : Nat) (subs : List Sub) (s : State) =>
          appendGo k fuel (startSubs k subs (updCmd k (fun c => { c with aux := [n, st, taken], fwd := [] }) s))
        let q := seqOfWords c.data.words
        let fail := fun (st : Nat) (s : State) => stage 4 st 0 [appendHome c 5] s
        if !allAnswered c then s
        else if c.aux.headD 0 = 1 then
          match firstFailing c, c.subs.head? with
          | some x, _ =>
            if x.status = some stBadDescriptor ∧ x.counts.2 = 1 then
              endCmd k stBadDescriptor x.counts.1 (Config.freeWord s.free).toNat (nextFree s)
            else failLead k x s
          | none, some x =>
            -- the home's record is kept for the rest of the command
            let q := if c.data.words = [] then seqOfWords x.answer.words else q
            let s := updCmd k (fun c => { c with data := { words := seqWords q, bytes := [] } }) s
            if descScheduled c.desc && (appendHolders c q).map (·.1) != [s.pool.id] then fail stBadDescriptor s
            else
              withClusters k fail (fun s =>
                let c := cmdNow s c
                match access k c.isle (appendInputs c q) s with
                | (.fail st, s) => fail st s
                | (.wait, s) => s
                | (.ok, s) =>
                  let c := cmdNow s c
                  match (appendInputs c q).find? (fun r => vstatus s c r.va r.len != stOk) with
                  | some r => fail (vstatus s c r.va r.len) s
                  | none =>
                    -- the encoded vectors are kept with the command while pages are reserved
                    let w := appendWrites s c q
                    let s := updCmd k (fun c => { c with arg := w.flatMap (fun x => x.data.bytes) }) s
                    stage 2 stOk 0 ((appendHolders c q).map (fun h => newSub h.2 h.1 c.desc
                      { words := [0, 1, kvHandle c] ++ (List.range (kvLayers c)).flatMap (fun l =>
                          (pagesTouched q h.1 (kvPos c) (kvN c)).flatMap (fun i => [kvLayer c + l, i])), bytes := [] })) s) s
          | none, none => s
        else if c.aux.headD 0 = 2 then
          match firstFailing c with
          | some x =>
            stage 4 (x.status.getD stOk) 0 (appendHome c 5 :: (c.subs.filter (fun y => y.status == some stOk)).map (fun y =>
              newSub y.shard y.peer c.desc { words := [0, 3, kvHandle c] ++ y.answer.words, bytes := [] })) s
          | none =>
            let taken := (c.subs.map (fun x => x.counts.1)).sum
            let one := 2 * q.kvHeads * q.lh
            let subs := ((appendHolders c q).foldl (fun (r : Nat × List Sub) h =>
              let items := (List.range (kvLayers c)).flatMap (fun l => ((List.range (kvN c)).filter (fun i =>
                holderOf q.place ((kvPos c + i) / 256) == h.1)).map (fun i => (l, i)))
              (r.1 + items.length * one, r.2 ++ [newSub h.2 h.1 c.desc
                { words := [0, 2, kvHandle c, q.tpp, q.lh, q.kvHeads] ++ items.flatMap (fun x => [kvLayer c + x.1, kvPos c + x.2])
                  bytes := (c.arg.drop r.1).take (items.length * one) }])) (0, [])).2
            stage 3 stOk taken subs s
        else if c.aux.headD 0 = 3 then
          match firstFailing c with
          | some x => stage 4 (x.status.getD stOk) 0 [appendHome c 5] s
          | none =>
            -- a home on this device takes the fills when the record is written (R468); another is told now (log 18)
            if isMine s (hPool (kvHandle c)) then endCmd k stOk (kvPos c + kvN c) (c.aux.getD 2 0) s
            else stage 5 stOk (c.aux.getD 2 0) [appendHome c 4] s
        else if c.aux.headD 0 = 4 then endFree k (c.aux.getD 1 0) s
        else
          match firstFailing c with
          | some x => failLead k x s
          | none => endCmd k stOk (kvPos c + kvN c) (c.aux.getD 2 0) s

/-- The fills that the record of an append with ST_OK brings about at a home on this device (R468). -/
def appendCommit (k : CmdKey) (s : State) : State :=
  match cmd? s k with
  | none => s
  | some c =>
    if c.opcode = 0x0200 ∧ c.lead.isNone ∧ c.status = stOk ∧ isMine s (hPool (kvHandle c)) then
      endMutation k (spaceOf s (hPool (kvHandle c)) c.isle) s.pool.id (kvHandle c)
        (some (kvLayer c, kvLayers c, kvPos c + kvN c)) s
    else s

/-- Phase 0 of a command that names a handle: its home is asked. -/
def askHome (k : CmdKey) (c : Cmd) (h : Nat) (extra : List Nat) (s : State) : State :=
  startSubs k [newSub 0 (hPool h) c.desc { words := [0, 0, ringId s k] ++ extra, bytes := [] }]
    (nameHome k (hPool h) (updCmd k (fun c => { c with aux := [1] }) (startCmd k s)))

def execKvAppend (k : CmdKey) (s : State) : Host.Outcome State Fault Refusal :=
  run (withCmd k 0x0200 (fun c s =>
    if c.lead.isSome then
      let r := homeKv k c.isle (match c.lead with | some h => h.src | none => 0) c c.data (startCmd k s)
      endServed k r.1 r.2
    else if c.aux = [] then
      if !appendFieldsOk c then badDesc k s else appendGo k 7 (askHome k c (kvHandle c) [] s)
    else appendGo k 7 s)) s

/-! ## Lifecycle (R490–R501) -/

/-- Whether a running command of this device names a sequence: its pages are kept to the command's end (R499). -/
def namesSeq (h : Nat) (c : Cmd) : Bool :=
  c.phase == .running && ((c.opcode == 0x0200 && kvHandle c == h) || (c.opcode == 0x0201 && c.data.words.contains h))

/-- The lowest free record slot of this device's own sequences. -/
def freeSlot (s : State) : Option Nat := lowestFree s.lagoon.seqs 0 65536

/-- A new sequence homed here: its slot and handle. DESIGN CHOICE (log 69). -/
def newSeq (isle : Nat) (q : KvSeq) (s : State) : Option (Nat × State) :=
  match freeSlot s with
  | none => none
  | some slot =>
    let g := NMap.getD s.lagoon.gens slot 0
    some (handleOf s.pool.id slot g.toNat, putSeq isle slot { q with gen := g } s)

/-- A sequence is destroyed: its slot's generation changes (R499). -/
def destroySeq (isle h : Nat) (s : State) : State :=
  let key := seqKey isle (hSlot h)
  let g := NMap.getD s.lagoon.gens key 0
  noteSeq key { s with lagoon := { s.lagoon with seqs := NMap.del s.lagoon.seqs key, gens := NMap.set s.lagoon.gens key (g + 1) } }

def kvFmtOk (f : Nat) : Bool := f == 1 || f == 2 || f == 3 || f == 4 || f == 5 || f == 10

/-- The sequence that SEQ_CREATE's argument block describes. -/
def createSeq (s : State) (k : CmdKey) (c : Cmd) : KvSeq :=
  let b := fun (byte lo len : Nat) => bits (field c.arg byte 2) lo len
  let n := b 4 0 7
  { gen := 0, isle := c.isle, layers := b 0 0 8 + 1, kvHeads := bits (field c.arg 1 1) 0 6 + 1,
    headDim := 64 * 2 ^ bits (field c.arg 1 1) 6 2, fmt := bits (field c.arg 2 1) 0 4, group := bits (field c.arg 2 1) 4 4 + 1,
    sat := bit (field c.arg 3 1) 0,
    place := (List.range n).map (fun i => (bits (field c.arg (64 + 8 * i) 8) 0 12, bits (field c.arg (64 + 8 * i) 8) 12 15)),
    fills := List.replicate (b 0 0 8 + 1) 0, refs := 1, owner := ringId s k, ostate := 0, isSealed := false, target := 0, keys := [],
    ownerGone := false, mutating := [] }

def createFieldsOk (c : Cmd) (q : KvSeq) : Bool :=
  let n := q.place.length
  c.hasArg (· == 64 + 64 * ceilDiv n 8) && !descScheduled c.desc && c.zero 32 63 && 1 ≤ n && n ≤ 64 &&
    bits (field c.arg 1 1) 6 2 != 3 && kvFmtOk q.fmt && bits (field c.arg 3 1) 1 7 == 0 && bits (field c.arg 4 2) 7 9 == 0 &&
    zeros c.arg 6 58 && (List.range n).all (fun i => bits (field c.arg (64 + 8 * i) 8) 27 37 == 0) &&
    zeros c.arg (64 + 8 * n) (64 * ceilDiv n 8 - 8 * n) && q.kvHeads * q.lh ≤ 32768 &&
    (q.place.headD (0, 1)).2 == 0 && (q.place.zip (q.place.drop 1)).all (fun p => p.1.2 < p.2.2)

def execSeqCreate (k : CmdKey) (s : State) : Host.Outcome State Fault Refusal :=
  run (withCmd k 0x0203 (fun c s =>
    let q := createSeq s k c
    if !createFieldsOk c q then badDesc k s
    else if q.place.any (fun p => p.1 != s.pool.id && !s.pool.members.contains p.1) then endFree k stReroute s
    else
      match newSeq c.isle q s with
      | some (h, s) => endCmd64 k stOk h (nameHome k s.pool.id s)
      | none => endFree k stQuota s)) s

/-! ### SEQ_FORK -/

def forkPos (c : Cmd) : Nat := c.fld 24 0 24
def forkFieldsOk (c : Cmd) : Bool :=
  !descArgBlock c.desc && !descScheduled c.desc && c.rz 24 24 8 && c.zero 28 63 && forkPos c ≤ 8388608

/-- A holder takes references for a fork (R492, R493): words source handle, new handle, T. -/
def forkPages (k : CmdKey) (isle : Nat) (w : List Nat) (pos : Nat) (s : State) : Home × State :=
  let src := w.getD 0 0
  let new := w.getD 1 0
  let t := w.getD 2 1
  let mine := s.lagoon.pages.filter (fun e => e.1 == src && e.2.2.1 * t < pos)
  if mine = [] then (.st stOk, s)
  else if mine.any (fun e => 65536 ≤ pageRefs s e.2.2.2 + 1) then (.st stQuota, s)
  else
    match takeMapPage k isle new s with
    | none => (.st stQuota, s)
    | some s => (.st stOk, { s with lagoon := { s.lagoon with pages := s.lagoon.pages ++ mine.map (fun e => (new, e.2)) } })

/-- A device's share of a fork: 0 the source's home, once its appends have ended; 1 a holder's references; 2 a holder drops them. DEDUCED (log 95). -/
def homeFork (k : CmdKey) (isle : Nat) (c : Cmd) (d : SubData) (s : State) : Home × State :=
  if subPhase d = 0 then
    match seq? s isle (kvHandle c) with
    | none => (.st stNotMapped, s)
    | some q =>
      if q.mutating ≠ [] then (.wait, s)
      else if q.length < forkPos c then (.st stBadDescriptor, s)
      else (.done stOk 0 0 0 { words := seqWords q, bytes := [] }, s)
  else if subPhase d = 1 then forkPages k isle (subWords d) (forkPos c) s
  else (.st stOk, dropSeqPages ((subWords d).headD 0) s)

def forkGo (k : CmdKey) : Nat → State → State
  | 0, s => s
  | fuel + 1, s =>
    match cmd? s k with
    | none => s
    | some c0 =>
      let s := runLocal k (fun x s => homeFork k (spaceOf s x.peer c0.isle) c0 x.data s) s
      match cmd? s k with
      | none => s
      | some c =>
        if !allAnswered c then s
        else if c.aux.headD 0 = 1 then
          match firstFailing c, c.subs.head? with
          | some x, _ => failLead k x s
          | none, some x =>
            let q := seqOfWords x.answer.words
            let n := { q with isle := c.isle, fills := List.replicate q.layers (forkPos c), refs := 1, owner := ringId s k, ostate := 0,
                              isSealed := false, target := 0, keys := [], ownerGone := false, mutating := [] }
            match newSeq c.isle n s with
            | none => endFree k stQuota s
            | some (h, s) =>
              forkGo k fuel (startSubs k ((homesInOrder (q.place.map (·.1))).map (fun p => newSub p.2 p.1 c.desc
                { words := [0, 1, kvHandle c, h, q.tpp], bytes := [] }))
                (nameHome k s.pool.id (updCmd k (fun c => { c with aux := [2, h] }) s)))
          | none, none => s
        else
          let h := c.aux.getD 1 0
          if c.aux.headD 0 = 2 then
            match firstFailing c with
            | some x =>
              forkGo k fuel (startSubs k ((c.subs.filter (fun y => y.status == some stOk)).map (fun y =>
                newSub y.shard y.peer c.desc { words := [0, 2, h], bytes := [] }))
                (updCmd k (fun c => { c with aux := [3, h, x.status.getD stOk] }) (destroySeq c.isle h s)))
            | none => endCmd64 k stOk h s
          else endFree k (c.aux.getD 2 0) s

def execSeqFork (k : CmdKey) (s : State) : Host.Outcome State Fault Refusal :=
  run (withCmd k 0x0204 (fun c s =>
    if c.lead.isSome then
      let r := homeFork k c.isle c c.data (startCmd k s)
      endServed k r.1 r.2
    else if c.aux = [] then
      if !forkFieldsOk c then badDesc k s else forkGo k 4 (askHome k c (kvHandle c) [] s)
    else forkGo k 4 s)) s

/-! ### SEQ_PUBLISH -/

def pbLookup (c : Cmd) : Bool := bit (c.fld 44 0 8) 0
def pbTokens (c : Cmd) : Nat := c.fld 40 0 24
def pbReg (c : Cmd) : Nat := c.fld 48 0 12

def publishFieldsOk (c : Cmd) : Bool :=
  !descArgBlock c.desc && !descScheduled c.desc && c.rz 32 0 2 && c.rz 32 55 9 && c.rz 40 24 8 && c.rz 44 1 7 && c.zero 45 47 &&
    c.rz 48 12 4 && c.zero 50 63 &&
    (if pbLookup c then kvHandle c == 0 && 1 ≤ pbTokens c && pbTokens c ≤ 8388608 else pbReg c == 0)

/-- The registry entry of a key for an isle among the sequences homed here: slot key and record. -/
def registered (s : State) (isle key : Nat) : Option (Nat × KvSeq) :=
  s.lagoon.seqs.find? (fun e => (e.1 < 65536) == decide (isle < twinIsle) && e.2.isle == isle % twinIsle && e.2.keys.contains key)

/-- Registry entries of this device. -/
def registrySize (s : State) : Nat := (s.lagoon.seqs.map (fun e => e.2.keys.length)).sum

/-- The home's share of a publish or a lookup (R496, R497): words ring, content key, token count. -/
def homePublish (isle : Nat) (c : Cmd) (w : List Nat) (s : State) : Home × State :=
  let key := w.getD 1 0
  let found := registered s isle key
  let give := fun (e : Nat × KvSeq) => handleOf (homePool s isle) (e.1 % 65536) e.2.gen.toNat
  let answer := fun (st h : Nat) => Home.done st 0 (h % 2 ^ 32) (h / 2 ^ 32) noData
  let hold := fun (e : Nat × KvSeq) (s : State) => putSeq isle (e.1 % 65536) { e.2 with refs := e.2.refs + 1 } s
  if pbLookup c then
    match found with
    | some e => (answer stOk (give e), hold e s)
    | none => (.st stNotMapped, s)
  else
    match seq? s isle (kvHandle c) with
    | none => (.st stNotMapped, s)
    | some q =>
      if q.owner ≠ w.headD 0 ∨ q.ostate ≠ 0 then (.st stNotOwner, s)
      else if q.length ≠ pbTokens c then (.st stBadDescriptor, s)
      else
        match found with
        | some e =>
          if give e = kvHandle c then (answer stOk (kvHandle c), s)
          else (answer stVersionConflict (give e), hold e s)
        | none =>
          if 65536 ≤ registrySize s then (.st stQuota, s)
          else
            (answer stOk (kvHandle c),
             putSeq isle (hSlot (kvHandle c)) { q with keys := q.keys ++ [key], refs := q.refs + 1, isSealed := true } s)

/-- The content key of a model identifier and token bytes (R495). -/
def contentKey (model : Nat) (tokens : List Byte) : Nat := sha256Nat (leBytes model 8 ++ tokens)

/-- Finish a command whose home alone answers: its status and both counts are the home's. -/
def homeOnlyGo (k : CmdKey) (home : Cmd → Nat → SubData → State → Home × State) (s : State) : State :=
  match cmd? s k with
  | none => s
  | some c0 =>
    let s := runLocal k (fun x s => home c0 (spaceOf s x.peer c0.isle) x.data s) s
    match cmd? s k with
    | none => s
    | some c =>
      if !allAnswered c then s
      else
        match firstFailing c, c.subs.head? with
        | some x, _ => if x.status = some stVersionConflict then endCmd k stVersionConflict x.counts.1 x.counts.2 s else failLead k x s
        | none, some x => endCmd k stOk x.counts.1 x.counts.2 s
        | none, none => s

def execSeqPublish (k : CmdKey) (s : State) : Host.Outcome State Fault Refusal :=
  run (withCmd k 0x0205 (fun c s =>
    let home := fun (c : Cmd) (isle : Nat) (d : SubData) (s : State) => homePublish isle c (subWords d) s
    if c.lead.isSome then
      let r := home c c.isle c.data (startCmd k s)
      endServed k r.1 r.2
    else if c.aux ≠ [] then homeOnlyGo k home s
    else if !publishFieldsOk c then badDesc k s
    else
      whenReady c [⟨.load, false, c.va 32, 4 * pbTokens c⟩] (fun s =>
        let c := cmdNow s c
        if vstatus s c (c.va 32) (4 * pbTokens c) != stOk then endFree k (vstatus s c (c.va 32) (4 * pbTokens c)) s
        else
          let key := contentKey (c.fld 24 0 64) (vread s c (c.va 32) (4 * pbTokens c))
          let peer := if pbLookup c then pbReg c else hPool (kvHandle c)
          homeOnlyGo k home (startSubs k [newSub 0 peer c.desc { words := [0, 0, ringId s k, key, pbTokens c], bytes := [] }]
            (nameHome k peer (updCmd k (fun c => { c with aux := [1], pages := [] }) s)))) s)) s

/-! ### SEQ_RELEASE -/

def releaseSeqFieldsOk (c : Cmd) : Bool :=
  !descArgBlock c.desc && !descScheduled c.desc && c.rz 24 1 7 && c.zero 25 63

/-- A device's share of a release: 0 the home drops the reference, and with unpublish the registry entries and theirs; 1 a holder
drops the pages of a destroyed sequence, once no running command names it (R498, R499). -/
def homeSeqRelease (isle : Nat) (c : Cmd) (d : SubData) (s : State) : Home × State :=
  let h := kvHandle c
  if subPhase d = 0 then
    match seq? s isle h with
    | none => (.st stNotMapped, s)
    | some q =>
      let un := bit (c.fld 24 0 8) 0
      if un ∧ (q.owner ≠ (subWords d).headD 0 ∨ q.ostate ≠ 0) then (.st stNotOwner, s)
      else
        let refs := q.refs - 1 - (if un then q.keys.length else 0)
        let q' := { q with refs := refs, keys := if un then [] else q.keys }
        (.done stOk 0 refs 0 { words := seqWords q, bytes := [] },
         if refs = 0 then destroySeq isle h s else putSeq isle (hSlot h) q' s)
  else if s.bobbin.cmds.any (namesSeq h) then (.wait, s)
  else (.st stOk, dropSeqPages h s)

def releaseSeqGo (k : CmdKey) : Nat → State → State
  | 0, s => s
  | fuel + 1, s =>
    match cmd? s k with
    | none => s
    | some c0 =>
      let s := runLocal k (fun x s => homeSeqRelease (spaceOf s x.peer c0.isle) c0 x.data s) s
      match cmd? s k with
      | none => s
      | some c =>
        if !allAnswered c then s
        else
          match firstFailing c with
          | some x => failLead k x s
          | none =>
            match c.subs.head? with
            | some x =>
              if c.aux.headD 0 = 1 ∧ x.counts.1 = 0 then
                releaseSeqGo k fuel (startSubs k ((homesInOrder ((seqOfWords x.answer.words).place.map (·.1))).map (fun p =>
                  newSub p.2 p.1 c.desc { words := [0, 1], bytes := [] })) (updCmd k (fun c => { c with aux := [2] }) s))
              else endCmd k stOk (if c.aux.headD 0 = 1 then x.counts.1 else 0) (Config.freeWord s.free).toNat (nextFree s)
            | none => s

def execSeqRelease (k : CmdKey) (s : State) : Host.Outcome State Fault Refusal :=
  run (withCmd k 0x0208 (fun c s =>
    if c.lead.isSome then
      let r := homeSeqRelease c.isle c c.data (startCmd k s)
      endServed k r.1 r.2
    else if c.aux = [] then
      if !releaseSeqFieldsOk c then badDesc k s else releaseSeqGo k 3 (askHome k c (kvHandle c) [] s)
    else releaseSeqGo k 3 s)) s

/-! ### SEQ_QUERY -/

def queryFieldsOk (c : Cmd) : Bool :=
  !descArgBlock c.desc && !descScheduled c.desc && c.rz 24 0 6 && c.rz 24 55 9 && c.zero 32 63

/-- The owner word (R502). -/
def ownerWord (q : KvSeq) : Nat := q.owner + q.ostate * 2 ^ 24 + q.isSealed.toNat * 2 ^ 26 + q.target * 2 ^ 28

/-- The record of SEQ_QUERY (R500). -/
def queryRecord (h : Nat) (q : KvSeq) : List Byte :=
  leBytes h 8 ++ leBytes q.length 4 ++ leBytes q.refs 4 ++ leBytes (ownerWord q) 8 ++ leBytes (q.layers - 1) 1 ++
    leBytes (q.kvHeads - 1 + (Nat.log2 q.headDim - 6) * 64) 1 ++ leBytes (q.fmt + (q.group - 1) * 16) 1 ++ leBytes q.sat.toNat 1 ++
    leBytes q.tpp 2 ++ leBytes 0 2 ++ beBytes (q.keys.headD 0) 32

def homeQuery (isle : Nat) (c : Cmd) (s : State) : Home × State :=
  match seq? s isle (kvHandle c) with
  | none => (.st stNotMapped, s)
  | some q => (.done stOk 0 0 0 { words := seqWords q, bytes := [] }, s)

def queryGo (k : CmdKey) (s : State) : State :=
  match cmd? s k with
  | none => s
  | some c0 =>
    let s := runLocal k (fun x s => homeQuery (spaceOf s x.peer c0.isle) c0 s) s
    match cmd? s k with
    | none => s
    | some c =>
      if !allAnswered c then s
      else
        match firstFailing c, c.subs.head? with
        | some x, _ => failLead k x s
        | none, some x =>
          let q := seqOfWords x.answer.words
          whenReady c [⟨.load, true, c.va 24, 64⟩] (fun s =>
            endCmd k stOk q.length (ownerWord q % 2 ^ 32) (vput k c.isle (c.va 24) (queryRecord (kvHandle c) q) s)) s
        | none, none => s

def execSeqQuery (k : CmdKey) (s : State) : Host.Outcome State Fault Refusal :=
  run (withCmd k 0x0209 (fun c s =>
    if c.lead.isSome then
      let r := homeQuery c.isle c (startCmd k s)
      endServed k r.1 r.2
    else if c.aux = [] then
      if !queryFieldsOk c then badDesc k s else queryGo k (askHome k c (kvHandle c) [] s)
    else queryGo k s)) s

/-! ## Ownership and handoff (R502–R508) -/

def offerFieldsOk (c : Cmd) : Bool :=
  !descArgBlock c.desc && !descScheduled c.desc && c.rz 24 24 8 && c.zero 28 63

/-- The home's share of an offer, once the mutating commands before it have ended (R504). -/
def homeOffer (isle ring : Nat) (c : Cmd) (s : State) : Home × State :=
  match seq? s isle (kvHandle c) with
  | none => (.st stNotMapped, s)
  | some q =>
    if q.owner ≠ ring ∨ q.ostate ≠ 0 then (.st stNotOwner, s)
    else if q.mutating ≠ [] then (.wait, s)
    else (.st stOk, putSeq isle (hSlot (kvHandle c)) { q with ostate := 1, target := c.fld 24 0 24 } s)

def execSeqHandoffOffer (k : CmdKey) (s : State) : Host.Outcome State Fault Refusal :=
  run (withCmd k 0x0206 (fun c s =>
    let home := fun (c : Cmd) (isle : Nat) (d : SubData) (s : State) => homeOffer isle ((subWords d).headD 0) c s
    if c.lead.isSome then
      let r := home c c.isle c.data (startCmd k s)
      endServed k r.1 r.2
    else if c.aux = [] then
      if !offerFieldsOk c then badDesc k s else homeOnlyGo k home (askHome k c (kvHandle c) [] s)
    else homeOnlyGo k home s)) s

def acceptFieldsOk (c : Cmd) : Bool := !descArgBlock c.desc && !descScheduled c.desc && c.zero 24 63

/-- The home's share of an accept (R505). -/
def homeAccept (isle ring : Nat) (c : Cmd) (s : State) : Home × State :=
  match seq? s isle (kvHandle c) with
  | none => (.st stNotMapped, s)
  | some q =>
    if (q.ostate = 1 ∧ q.target = ring) ∨ q.ostate = 2 then
      (.done stOk 0 q.length 0 noData,
       putSeq isle (hSlot (kvHandle c)) { q with owner := ring, ostate := 0, target := 0, ownerGone := false } s)
    else (.st stNotOwner, s)

def execSeqHandoffAccept (k : CmdKey) (s : State) : Host.Outcome State Fault Refusal :=
  run (withCmd k 0x0207 (fun c s =>
    let home := fun (c : Cmd) (isle : Nat) (d : SubData) (s : State) => homeAccept isle ((subWords d).headD 0) c s
    if c.lead.isSome then
      let r := home c c.isle c.data (startCmd k s)
      endServed k r.1 r.2
    else if c.aux = [] then
      if !acceptFieldsOk c then badDesc k s else homeOnlyGo k home (askHome k c (kvHandle c) [] s)
    else homeOnlyGo k home s)) s

/-- The isle space of a handle homed on this device. -/
def handleSpace (s : State) (h isle : Nat) : Nat := spaceOf s (hPool h) isle

/-- A sequence homed here by its handle alone. -/
def homedSeq (s : State) (h : Nat) : Option (Nat × KvSeq) :=
  if !isMine s (hPool h) then none
  else
    match NMap.get? s.lagoon.seqs (if hPool h = s.pool.id then hSlot h else 65536 + hSlot h) with
    | some q => if q.gen.toNat = hGen h then some (handleSpace s h q.isle, q) else none
    | none => none

/-- A Lagoon event of a sequence (R510). -/
def seqEvent (code h : Nat) (q : KvSeq) (s : State) : State := raise (event code 0 q.isle (h % 2 ^ 32) (h / 2 ^ 32)) s

/-- An OWNED sequence whose owner ring is gone becomes ORPHANED (R508). -/
def orphan (isle h : Nat) (q : KvSeq) (s : State) : State :=
  seqEvent evSeqOrphaned h q (putSeq isle (hSlot h) { q with ostate := 2, target := 0, ownerGone := true } s)

/-- An offer expires at a beat boundary (R506). -/
def execHandoffExpiry (handle : Nat) (s : State) : Host.Outcome State Fault Refusal :=
  run (fun s =>
    match homedSeq s handle with
    | none => s
    | some (isle, q) =>
      if q.ostate ≠ 1 then s
      else if q.ownerGone then orphan isle handle q s
      else seqEvent evHandoffReverted handle q (putSeq isle (hSlot handle) { q with ostate := 0, target := 0 } s)) s

/-- Tell the holders of a destroyed sequence, outside any command, to drop its pages (R508): a sub-command of phase 1 of
SEQ_RELEASE, which nothing waits for. -/
def dropAtHolders (h : Nat) (q : KvSeq) (s : State) : State :=
  (homesInOrder (q.place.map (·.1))).foldl (fun s p =>
    if isMine s p.1 then dropSeqPages h s
    else
      let stream := Config.freeChoice s.free % 256
      match portFor s p.1 stream with
      | some port =>
        countSent p.1 stream (emit (.subcmd port p.1 stream (freeTag s stream 512 0) s.maps.cur.epoch (0x0208 + h * 2 ^ 128)
          { words := [0, 1], bytes := [] }) (nextFree s))
      | none => nextFree s) s

/-- A sequence ORPHANED for orphan_s seconds is reclaimed (R508). -/
def execOrphanReclaim (handle : Nat) (s : State) : Host.Outcome State Fault Refusal :=
  run (fun s =>
    match homedSeq s handle with
    | none => s
    | some (isle, q) =>
      if q.ostate ≠ 2 then s else seqEvent evSeqReclaimed handle q (dropAtHolders handle q (destroySeq isle handle s))) s

/-- Rings are gone: the sequences homed here that they own become ORPHANED, or remember it while they are OFFERED (R507, R508). -/
def ringsGone (rings : List Nat) (s : State) : State :=
  s.lagoon.seqs.foldl (fun s e =>
    let own := e.1 < 65536
    let h := handleOf (if own then s.pool.id else s.twin.held) (e.1 % 65536) e.2.gen.toNat
    let isle := if own then e.2.isle else twinIsle + e.2.isle
    if !rings.contains e.2.owner then s
    else if e.2.ostate = 0 then orphan isle h e.2 s
    else if e.2.ostate = 1 then putSeq isle (e.1 % 65536) { e.2 with ownerGone := true } s
    else s) s

/-- A ring of this device is gone: its homes are told (R507). -/
def ringGone (sq : Nat) (s : State) : State :=
  let ring := sqRingId s sq
  let homes := NMap.getD s.lagoon.ringHomes sq []
  let s := { s with lagoon := { s.lagoon with ringHomes := NMap.del s.lagoon.ringHomes sq } }
  (homes.filter (fun p => !isMine s p)).foldl (fun s p => sendManage p .ringGone [ring] s) (ringsGone [ring] s)

/-- A home learns that rings of another device are gone, from it or from the twin that took it over. Only a member is heard. -/
def execRingGoneNotice (h : Hdr) (rings : List Nat) (s : State) : Host.Outcome State Fault Refusal :=
  run (fun s => if s.pool.members.contains h.src then
    ringsGone (rings.filter (fun r => r / 4096 == h.src || ((routeOf s (r / 4096)).redirected && (routeOf s (r / 4096)).twinAlias == some h.src))) s
    else s) s

end Sys2Proof.Machine
end

