-- ==== Sys2Proof/Machine/Fences.lean ====
section
/-! DEFINITION. FENCE, RELEASE and ACQUIRE (chapter 04). -/

namespace Sys2Proof.Machine

/-! ## FENCE (R179–R181) -/

def fenceFieldsOk (c : Cmd) : Bool :=
  !descArgBlock c.desc && (c.fld 16 0 2 == 1 || c.fld 16 0 2 == 2) && c.rz 16 2 6 && c.zero 17 63

/-- FENCE is dispatched: from now on it holds back what was fetched after it. -/
def execFence (k : CmdKey) (s : State) : Host.Outcome State Fault Refusal :=
  run (withCmd k 0x0030 (fun c s => if !fenceFieldsOk c then badDesc k s else startCmd k s)) s

/-- Whether a fence's condition holds: at device scope every earlier command has made its writes visible here; at pool scope
every earlier command has written its record (R180, R181). DEDUCED (log 92). -/
def fenceDone (s : State) (c : Cmd) : Bool :=
  if c.fld 16 0 2 = 1 then (earlier s c.key).all (fun x => x.phase == .ended) else earlier s c.key == []

def execFenceComplete (k : CmdKey) (s : State) : Host.Outcome State Fault Refusal :=
  run (withCmd k 0x0030 (fun c s => if c.phase == .running && fenceDone s c then endFree k stOk s else s)) s

/-! ## RELEASE (R182, R183) -/

def releaseFieldsOk (c : Cmd) : Bool :=
  !descArgBlock c.desc && c.fld 16 0 2 != 3 && c.rz 16 2 6 && c.zero 17 23 && c.rz 24 0 3 && c.rz 24 55 9 && c.zero 40 63

/-- Whether the writes of every earlier command of the ring are visible as the scope requires (R174, R183): at engine scope at
once, at device scope when they have ended, at pool scope when the twin has acknowledged them too. DEDUCED (log 92). -/
def releaseDone (s : State) (c : Cmd) : Bool :=
  c.fld 16 0 2 == 0 ||
    (earlier s c.key).all (fun x => x.phase == .ended && (c.fld 16 0 2 == 1 || x.unacked == []))

def execRelease (k : CmdKey) (s : State) : Host.Outcome State Fault Refusal :=
  run (withCmd k 0x0031 (fun c s =>
    if !releaseFieldsOk c then badDesc k s
    else if !releaseDone s c then startCmd k s
    else
      whenReady c [⟨.load, true, c.va 24, 8⟩] (fun s =>
        let w := vwrite k c.isle (c.va 24) (leBytes (c.fld 32 0 64) 8) s
        endFree k (if w.1 then stPoison else stOk) w.2) s)) s

/-! ## ACQUIRE (R184–R187, R247, R248) -/

def acquireFieldsOk (c : Cmd) : Bool :=
  !descArgBlock c.desc && c.fld 16 0 2 != 3 && c.rz 16 2 6 && c.rz 17 1 7 && c.zero 18 19 && c.rz 24 0 3 && c.rz 24 55 9 &&
    c.zero 40 63

/-- cond 0: equal; 1: unsigned greater than or equal. -/
def flagMeets (cond : Nat) (flag value : Nat) : Bool := if cond = 0 then flag == value else decide (value ≤ flag)

/-- Whether a command holds an ACQUIRE entry. -/
def holdsEntry (s : State) (k : CmdKey) : Bool := s.heddle.acquires.any (fun a => a.1 == k)

/-- Take an ACQUIRE entry for a coherent flag, while one is free (R247, R248). -/
def takeEntry (k : CmdKey) (isle va : Nat) (s : State) : State :=
  match walk s isle (va / pageSize) with
  | .entry e =>
    if eCoherent e && s.heddle.acquires.length < 16384 && !holdsEntry s k then
      { s with heddle := { s.heddle with acquires := s.heddle.acquires ++ [(k, lineOf (eOff e + va % pageSize))] } }
    else s
  | _ => s

/-- One read of a flag by a command: what it does with the value; a failing access or a poisoned line ends it. The lines that
were forwarded for this read are used up by it. -/
def readFlag (c : Cmd) (va : Nat) (onFail : Nat → State → State) (go : Nat → State → State) (s : State) : State :=
  match access c.key c.isle [⟨.load, false, va, 8⟩] s with
  | (.fail st, s) => onFail st s
  | (.wait, s) => s
  | (.ok, s) =>
    let c := cmdNow s c
    let st := vstatus s c va 8
    let v := vnat s c va 8
    let s := updCmd c.key (fun x => { x with fwd := [], pages := [] })
      { s with heddle := { s.heddle with wakeCmds := s.heddle.wakeCmds.filter (· != c.key) } }
    if st != stOk then onFail st s else go v s

/-- ACQUIRE reads its flag: it completes where the condition holds, and waits otherwise (R185). -/
def acquireRead (c : Cmd) (s : State) : State :=
  readFlag c (c.va 24) (fun st s => endFree c.key st s) (fun v s =>
    if flagMeets (c.fld 17 0 1) v (c.fld 32 0 64) then endCmd64 c.key stOk v s
    else takeEntry c.key c.isle (c.va 24) (updCmd c.key (fun x => { x with aux := [v] }) s)) s

def execAcquire (k : CmdKey) (s : State) : Host.Outcome State Fault Refusal :=
  run (withCmd k 0x0032 (fun c s =>
    if !acquireFieldsOk c then badDesc k s
    else if c.phase == .ready || c.aux == [] then acquireRead c (startCmd k s) else s)) s

/-- The flag is read again: at a Heddle grant of a write to its line, or once per beat while no entry is held (R185, R248). -/
def execAcquireReread (k : CmdKey) (s : State) : Host.Outcome State Fault Refusal :=
  run (withCmd k 0x0032 (fun c s =>
    if c.phase == .running && (!holdsEntry s k || s.heddle.wakeCmds.contains k) then acquireRead c s else s)) s

end Sys2Proof.Machine
end

