-- ==== Sys2Proof/Machine/Weave.lean ====
section
/-! DEFINITION. WEAVE (chapter 09): the chain header and the stage records, what makes a chain refused, the fourteen stages, and
the four commands that a chain's phases and flags wait for. A chain runs stage by stage, each stage over every item; the output
bits do not depend on that order (R445). -/

namespace Sys2Proof.Machine

/-! ## Fields (R433, R434) -/

abbrev kGather : Nat := 0x01
abbrev kDot : Nat := 0x02
abbrev kQuantize : Nat := 0x0B
abbrev kDequantize : Nat := 0x0C
abbrev kWrite : Nat := 0x0E

/-- Stage record `i` of a chain. -/
def stageRec (c : Cmd) (i : Nat) : Nat := field c.arg (64 * (i + 1)) 64

def stageCount (c : Cmd) : Nat := bits (field c.arg 0 1) 0 4
def itemCount (c : Cmd) : Nat := bits (field c.arg 4 4) 0 25
def acqTimeout (c : Cmd) : Nat := field c.arg 8 4
def scratchOff (c : Cmd) : Nat := field c.arg 12 4
def scratchLen (c : Cmd) : Nat := field c.arg 16 4

def sgKind (g : Nat) : Nat := bits g 0 8
def sgFmt (g : Nat) : Nat := bits g 8 4
def sgRnd (g : Nat) : Nat := bits g 12 2
def sgSat (g : Nat) : Bool := bit g 14
def sgEncoded (g : Nat) : Bool := bit g 15
def sgA (g : Nat) : Nat := bits g 16 4
def sgB (g : Nat) : Nat := bits g 20 4
def sgDst (g : Nat) : Nat := bits g 24 4
def sgIdx (g : Nat) : Nat := bits g 28 2
def sgAdd (g : Nat) : Bool := bit g 30
def sgWidth (g : Nat) : Nat := bits g 32 14
def sgParam (g : Nat) : Nat := bits g 48 14
def sgVa (g : Nat) : Nat := bits g 64 55
def sgStride (g : Nat) : Nat := bits g 128 32
def sgImm (g : Nat) : Nat := bits g 160 32
def sgIndexVa (g : Nat) : Nat := bits g 192 55
def sgSeed (g : Nat) : Nat := bits g 256 32
def sgSrStep (g : Nat) : Nat := bits g 288 32
def sgScope (g : Nat) : Nat := bits g 320 2
def sgSync (g : Nat) : Bool := bit g 322
def sgCond (g : Nat) : Nat := bits g 323 1
def sgFlagVa (g : Nat) : Nat := bits g 384 55
def sgFlag (g : Nat) : Nat := bits g 448 64

/-- The fields (lowest bit, bits) that a stage uses; all others are reserved for it (R434). -/
def stageFields (g : Nat) : List (Nat × Nat) :=
  let k := sgKind g
  let memory := [(64, 55), (128, 32)]
  let index := if sgIdx g = 0 then [(28, 2)] else [(28, 2), (192, 55)]
  let sync := if sgSync g then [(320, 2), (322, 1), (387, 52), (448, 64)] ++ (if k = kGather then [(323, 1)] else []) else []
  let round := [(12, 2), (14, 1)] ++ (if sgRnd g = 1 then [(256, 32), (288, 32)] else []) ++
    (if sgFmt g = 10 then [(160, 32)] else [])
  [(0, 8), (32, 14)] ++
    (if k = kGather then [(8, 4), (15, 1), (24, 4)] ++ memory ++ index ++ sync
     else if k = kDot then [(8, 4), (16, 4), (24, 4), (48, 14)] ++ memory
     else if k = 0x03 then [(16, 4), (24, 4), (160, 32)]
     else if k = 0x04 ∨ k = 0x05 then [(16, 4), (20, 4), (24, 4)]
     else if k = 0x08 then [(16, 4), (20, 4), (24, 4), (160, 32)]
     else if k = 0x0A then [(16, 4), (24, 4), (48, 14)]
     else if k = kQuantize then [(8, 4), (16, 4), (24, 4)] ++ round
     else if k = kDequantize then [(8, 4), (16, 4), (24, 4)]
     else if k = kWrite then [(8, 4), (16, 4), (30, 1)] ++ round ++ memory ++ index ++ sync
     else [(16, 4), (24, 4)])

/-- The bits of a list of fields. -/
def fieldMask (l : List (Nat × Nat)) : Nat := l.foldl (fun m f => m ||| ((2 ^ f.2 - 1) <<< f.1)) 0

/-- Whether a stage record keeps its reserved fields and encodings. -/
def stageFieldsOk (g : Nat) : Bool :=
  let k := sgKind g
  1 ≤ k && k ≤ 0x0E && g &&& fieldMask (stageFields g) == g && sgFmt g ≤ 10 && sgRnd g ≤ 1 && sgIdx g != 3 && sgScope g != 3 &&
    1 ≤ sgWidth g && sgWidth g ≤ (if k = kGather ∨ k = kDot then 4096 else 8194) &&
    (k != kDot || (1 ≤ sgParam g && sgParam g ≤ 4096)) &&
    (k != 0x0A || (1 ≤ sgParam g && sgParam g ≤ min (sgWidth g) 4097))

/-! ## The slots of a phase (R436, R437, R441) -/

/-- What a slot holds: the format of an encoded vector, or FP32; and its width. An encoded FP32 vector is an FP32 vector. -/
abbrev SlotType : Type := Option Nat × Nat

/-- The slot a stage writes. -/
def stageOut (g : Nat) : Option SlotType :=
  let k := sgKind g
  if k = kGather then some (if sgEncoded g && sgFmt g != 0 then some (sgFmt g) else none, sgWidth g)
  else if k = kDot then some (none, sgParam g)
  else if k = 0x09 then some (none, sgWidth g + 2)
  else if k = 0x0A then some (none, 2 * sgParam g)
  else if k = kQuantize then some (if sgFmt g = 0 then none else some (sgFmt g), sgWidth g)
  else if k = 0x0D then some (none, 1)
  else if k = kWrite then none
  else some (none, sgWidth g)

/-- Bytes a slot of a type takes (R441). -/
def slotBytes (t : SlotType) : Nat := match t.1 with | none => 4 * t.2 | some f => vecLen f t.2

/-- Whether a vector of `n` elements of a format exists: an MX width is a multiple of 32 (R418). -/
def vecWidthOk (f n : Nat) : Bool := !isMx f || n % 32 == 0

/-- Whether a stage may read the slots that stand before it. -/
def stageReadsOk (slots : NMap SlotType) (g : Nat) : Bool :=
  let k := sgKind g
  k == kGather ||
    (match NMap.get? slots (sgA g) with
     | none => false
     | some (enc, w) =>
       w == sgWidth g &&
         (if k = kDequantize then (if sgFmt g = 0 then enc == none else enc == some (sgFmt g))
          else if k = kWrite then enc == none || (enc == some (sgFmt g) && !sgAdd g)
          else enc == none) &&
         (if k = 0x04 ∨ k = 0x05 ∨ k = 0x08 then
            (match NMap.get? slots (sgB g) with
             | some (none, wb) => wb == sgWidth g || (k != 0x08 && wb == 1)
             | _ => false)
          else true))

/-- Whether a stage by itself keeps R436: its formats, widths and output. -/
def stageShapeOk (g : Nat) : Bool :=
  let k := sgKind g
  (sgRnd g == 0 || sgFmt g == 1) && (!sgAdd g || sgFmt g == 0) &&
    (!(k == kGather || k == kDot || k == kQuantize || k == kDequantize || k == kWrite) || vecWidthOk (sgFmt g) (sgWidth g)) &&
    (match stageOut g with
     | none => true
     | some (none, n) => n ≤ 8194
     | some (some f, n) => n ≤ 8192 && vecWidthOk f n)

/-- Whether a stage writes into a Shuttle scratchpad window, judged by the page of its base address (DEDUCED, log 14). -/
def writesScratch (s : State) (isle g : Nat) : Bool :=
  sgKind g == kWrite && (match offOf s isle (sgVa g) with | some o => scratchBase ≤ o && o < scratchEnd | none => false)

/-- The stages of a chain with the first stage of each phase marked: a GATHER that follows a WRITE of its phase into a
scratchpad begins the next phase (R437). -/
def phaseMarks (s : State) (isle : Nat) (wrote : Bool) : List Nat → List Bool
  | [] => []
  | g :: r =>
    let new := sgKind g == kGather && wrote
    new :: phaseMarks s isle ((wrote && !new) || writesScratch s isle g) r

/-- The stage records of a chain. -/
def stages (c : Cmd) : List Nat := (List.range (stageCount c)).map (stageRec c)

/-- Whether stage `i` begins a later phase. -/
def startsPhase (s : State) (c : Cmd) (i : Nat) : Bool := (phaseMarks s c.isle false (stages c)).getD i false

/-- Walk the stages of a chain with the slots of the phase and the largest vector each has held: false where R436 refuses it. -/
def chainOk (len : Nat) : List (Nat × Bool) → NMap SlotType → NMap Nat → Bool
  | [], _, _ => true
  | (g, new) :: r, slots, sizes =>
    let slots := if new then [] else slots
    let sizes := if new then [] else sizes
    let slots' := match stageOut g with | some t => NMap.set slots (sgDst g) t | none => slots
    let sizes' := match stageOut g with
      | some t => NMap.set sizes (sgDst g) (max (NMap.getD sizes (sgDst g) 0) (slotBytes t))
      | none => sizes
    stageFieldsOk g && stageShapeOk g && stageReadsOk slots g && (sizes'.map (·.2)).sum ≤ len && chainOk len r slots' sizes'

/-- Whether the descriptor and the chain header keep their rules (R432, R433). -/
def chainHeaderOk (c : Cmd) : Bool :=
  c.hasArg (fun n => n == 64 * (1 + stageCount c)) && c.zero 40 63 && 1 ≤ stageCount c && stageCount c ≤ 8 &&
    bits (field c.arg 0 4) 4 28 == 0 && 1 ≤ itemCount c && itemCount c ≤ 16777216 && bits (field c.arg 4 4) 25 7 == 0 &&
    scratchOff c % 4096 == 0 && scratchLen c % 4096 == 0 && scratchLen c != 0 && scratchOff c + scratchLen c ≤ 0x200000 &&
    zeros c.arg 20 44

def weaveOk (s : State) (c : Cmd) : Bool :=
  chainHeaderOk c && chainOk (scratchLen c) ((stages c).zip (phaseMarks s c.isle false (stages c))) [] []

/-! ## What a stage computes (R435) -/

/-- RMSNORM over a vector and its gain. -/
def rmsNorm (imm : Nat) (x g : List Nat) : List Nat :=
  let ms := fMul (treeSum (x.map (fun v => fMul v v))) (fRecip (ofInt32 x.length))
  let r := fRsqrt (fAdd ms imm)
  List.zipWith (fun v w => fMul (fMul v r) w) x g

/-- SOFTMAX_PARTIAL: the exponentials, then the maximum and their sum. -/
def softmaxPartial (x : List Nat) : List Nat :=
  let m := fMax x
  let p := x.map (fun v => if m = 0xFF800000 then 0 else fExp (fSub v m))
  p ++ [m, if m = 0xFF800000 then 0 else treeSum p]

/-- Whether element `a` ranks above `b` in TOPK: value, then lower index; NaN below every number. -/
def topAbove (a b : Nat × Nat) : Bool :=
  if isNan a.1 then isNan b.1 && a.2 < b.2
  else if isNan b.1 then true
  else fLt b.1 a.1 || (!fLt a.1 b.1 && a.2 < b.2)

/-- Insert into a list that falls by rank. -/
def topInsert (x : Nat × Nat) : List (Nat × Nat) → List (Nat × Nat)
  | [] => [x]
  | y :: r => if topAbove x y then x :: y :: r else y :: topInsert x r

/-- TOPK: the first `k` by rank as (value, index) pairs; the index stands in the slot as a number (log 14). -/
def topK (k : Nat) (x : List Nat) : List Nat :=
  (((x.zip (List.range x.length)).foldl (fun l v => (topInsert v l).take k) []).take k).flatMap (fun p => [p.1, ofInt32 p.2])

/-- An FP32 vector encoded by a QUANTIZE or a WRITE: stochastic rounding where asked, by row and column. -/
def encodeStage (g row : Nat) (x : List Nat) : List Byte :=
  if sgRnd g = 1 then
    (x.zip (List.range x.length)).flatMap (fun v => leBytes (srBf16 (sgSeed g) (sgSrStep g) row v.2 v.1) 2)
  else encodeVec (sgFmt g) (sgSat g) (sgImm g) x

/-- One row of weights against a vector (R424): an INT8 row's scale multiplies the tree's result. -/
def dotRow (f : Nat) (x : List Nat) (bs : List Byte) : Nat :=
  if f = 10 then fMul (fDot x ((bs.drop 4).map (fun b => ofInt32 (sByte b.toNat)))) (field bs 0 4)
  else fDot x (decodeVec f x.length bs)

/-- The slot of an item. -/
def slotOf (sl : List (Nat × SlotVal)) (n : Nat) : SlotVal := NMap.getD sl n { enc := none, vals := [], bytes := [] }

def vecSlot (l : List Nat) : SlotVal := { enc := none, vals := l, bytes := [] }

/-- A quantized vector in a slot: FP32 stays a vector of values. -/
def encSlot (f n : Nat) (bs : List Byte) : SlotVal :=
  if f = 0 then vecSlot (decodeVec 0 n bs) else { enc := some f, vals := [], bytes := bs }

/-- What a stage that reads slots alone leaves in its slot. -/
def slotStage (g item : Nat) (sl : List (Nat × SlotVal)) : SlotVal :=
  let k := sgKind g
  let a := slotOf sl (sgA g)
  let x := a.vals
  let b := (slotOf sl (sgB g)).vals
  let b' := if b.length = 1 then List.replicate x.length (b.headD 0) else b
  if k = 0x03 then vecSlot (x.map (fun v => fMul v (sgImm g)))
  else if k = 0x04 then vecSlot (List.zipWith fAdd x b')
  else if k = 0x05 then vecSlot (List.zipWith fMul x b')
  else if k = 0x06 then vecSlot (x.map (fun v => if isNan v then nan32 else if fLt 0 v then v else 0))
  else if k = 0x07 then vecSlot (x.map fGelu)
  else if k = 0x08 then vecSlot (rmsNorm (sgImm g) x b)
  else if k = 0x09 then vecSlot (softmaxPartial x)
  else if k = 0x0A then vecSlot (topK (sgParam g) x)
  else if k = kQuantize then encSlot (sgFmt g) x.length (encodeStage g item x)
  else if k = kDequantize then (if sgFmt g = 0 then a else vecSlot (decodeVec (sgFmt g) (sgWidth g) a.bytes))
  else vecSlot [treeSum x]

/-! ## Running a stage -/

/-- The cluster that runs an item (any assignment gives the same bits, R445). -/
def itemCluster (c : Cmd) (i : Nat) : Nat := c.clusters.getD (i % max c.clusters.length 1) 0

/-- Sync progress of the stage the command stands at: 0 fresh, 1 its phase has started, 2 its flag is acquired, 3 written and
waiting for its release. The items that met poison follow it. -/
def weaveSync (c : Cmd) : Nat := c.aux.headD 0
def deadItems (c : Cmd) : List Nat := c.aux.drop 1
def setSync (k : CmdKey) (n : Nat) (s : State) : State := updCmd k (fun c => { c with aux := n :: c.aux.drop 1 }) s
def killItem (k : CmdKey) (i : Nat) (s : State) : State :=
  updCmd k (fun c => { c with aux := c.aux.headD 0 :: insertNat i (c.aux.drop 1) }) s

/-- The items that still run. -/
def liveItems (c : Cmd) : List Nat := (List.range (itemCount c)).filter (fun i => !(deadItems c).contains i)

/-- The index list entry of an item. -/
def indexSpan (g i : Nat) : Nat × Nat := if sgIdx g = 1 then (sgIndexVa g + 4 * i, 4) else (sgIndexVa g + 8 * i, 8)

/-- Row of an item (R435). -/
def itemRow (s : State) (c : Cmd) (g i : Nat) : Nat :=
  if sgIdx g = 0 then i else let r := indexSpan g i; vnat s c r.1 r.2

/-- Bytes of a row of a GATHER or WRITE. -/
def rowBytes (g : Nat) : Nat := vecLen (sgFmt g) (sgWidth g)

/-- The ranges a stage touches for an item, its index list entry apart. -/
def stageSpans (s : State) (c : Cmd) (g i : Nat) : List Span :=
  let k := sgKind g
  let acc := Acc.shuttle (itemCluster c i)
  if k = kGather then [⟨acc, false, sgVa g + itemRow s c g i * sgStride g, rowBytes g⟩]
  else if k = kWrite then [⟨acc, true, sgVa g + itemRow s c g i * sgStride g, rowBytes g⟩]
  else if k = kDot then (List.range (sgParam g)).map (fun j => ⟨acc, false, sgVa g + j * sgStride g, vecLen (sgFmt g) (sgWidth g)⟩)
  else []

def indexSpans (c : Cmd) (g i : Nat) : List Span :=
  if sgIdx g = 0 then [] else let r := indexSpan g i; [⟨.shuttle (itemCluster c i), false, r.1, r.2⟩]

def setSlot (k : CmdKey) (i n : Nat) (v : SlotVal) (s : State) : State :=
  updCmd k (fun c => { c with slots := (c.slots.take i ++ [NMap.set (c.slots.getD i []) n v]) ++ c.slots.drop (i + 1) }) s

/-- ADD_F32 of each element of a row into memory (R222, R440). -/
def addRow (k : CmdKey) (c : Cmd) (va : Nat) (s : State) (l : List (Nat × Nat)) : Bool × State :=
  l.foldl (fun r v =>
    let a := va + 4 * v.2
    let w := vwrite k c.isle a (leBytes (fAdd (vnat r.2 c a 4) v.1) 4) r.2
    (r.1 || w.1, w.2)) (false, s)

/-- One item's share of a stage: a poisoned line ends the item's further writes (R448). DESIGN CHOICE (log 97). -/
def stageItem (k : CmdKey) (g : Nat) (s : State) (i : Nat) : State :=
  match cmd? s k with
  | none => s
  | some c =>
    let kd := sgKind g
    let sl := c.slots.getD i []
    let reads := (indexSpans c g i ++ (if kd = kWrite then [] else stageSpans s c g i))
    if reads.any (fun r => vstatus s c r.va r.len != stOk) then killItem k i s
    else
      let row := itemRow s c g i
      let va := sgVa g + row * sgStride g
      if kd = kGather then
        let bs := vread s c va (rowBytes g)
        setSlot k i (sgDst g)
          (if sgEncoded g then encSlot (sgFmt g) (sgWidth g) bs else vecSlot (decodeVec (sgFmt g) (sgWidth g) bs)) s
      else if kd = kDot then
        let x := (slotOf sl (sgA g)).vals
        setSlot k i (sgDst g) (vecSlot ((List.range (sgParam g)).map (fun j =>
          dotRow (sgFmt g) x (vread s c (sgVa g + j * sgStride g) (vecLen (sgFmt g) (sgWidth g)))))) s
      else if kd = kWrite then
        let a := slotOf sl (sgA g)
        let w :=
          if sgAdd g then addRow k c va s (a.vals.zip (List.range a.vals.length))
          else vwrite k c.isle va (match a.enc with | some _ => a.bytes | none => encodeStage g row a.vals) s
        if w.1 then killItem k i w.2 else w.2
      else setSlot k i (sgDst g) (slotStage g i sl) s

/-- End a chain: the working area of every cluster it used is left undefined (R441), and the counts are those of R450. `done` is
the number of items that finished every stage. -/
def endWeave (k : CmdKey) (c : Cmd) (st done low : Nat) (s : State) : State :=
  endCmd k st done low (c.clusters.foldl (scrubScratch (scratchOff c) (scratchLen c)) s)

/-- A stage over every live item; false while it waits. DESIGN CHOICE (log 97). -/
def runStage (k : CmdKey) (c : Cmd) (g : Nat) (s : State) : Got × State :=
  let live := liveItems c
  match access k c.isle (live.flatMap (indexSpans c g)) s with
  | (.ok, s) =>
    let c := cmdNow s c
    let sp := (live.filter (fun i => (indexSpans c g i).all (fun r => vstatus s c r.va r.len == stOk))).flatMap (stageSpans s c g)
    let atomic := if sgKind g = kWrite && sgAdd g then sp.findSome? (fun r => rangeFault s c.isle r.va r.len 7) else none
    match atomic with
    | some (va, st) => (.fail st, faultEvent c.isle va st s)
    | none =>
      match access k c.isle sp s with
      | (.ok, s) => (.ok, updCmd k (fun c => { c with fwd := [] }) (live.foldl (stageItem k g) s))
      | r => r
  | r => r

/-- Run a chain until it ends, or reaches a flag, a later phase or something to wait for. -/
def weaveLoop (k : CmdKey) : Nat → State → State
  | 0, s => s
  | fuel + 1, s =>
    match cmd? s k with
    | none => s
    | some c =>
      let i := c.done
      let g := stageRec c i
      if stageCount c ≤ i then
        match deadItems c with
        | [] => endWeave k c stOk (itemCount c) 0 s
        | d :: r => endWeave k c stPoison (itemCount c - (r.length + 1)) d s
      else if startsPhase s c i && weaveSync c = 0 then s
      else if sgKind g = kGather && sgSync g && weaveSync c ≠ 2 then s
      else if weaveSync c = 3 then s
      else
        let s := if startsPhase s c i then updCmd k (fun c => { c with slots := [] }) s else s
        match runStage k (cmdNow s c) g s with
        | (.fail st, s) => endWeave k c st 0 0 s
        | (.wait, s) => s
        | (.ok, s) =>
          if sgKind g = kWrite && sgSync g then setSync k 3 s
          else weaveLoop k fuel (setSync k 0 (updCmd k (fun c => { c with done := i + 1 }) s))

/-- The slots of every item, empty. -/
def emptySlots (c : Cmd) : List (List (Nat × SlotVal)) := List.replicate (itemCount c) []

def execWeave (k : CmdKey) (s : State) : Host.Outcome State Fault Refusal :=
  run (withCmd k 0x0040 (fun c s =>
    if c.phase == .ready || c.clusters == [] then
      if !weaveOk s c then endCmd k stBadDescriptor 0 0 s
      else
        match chooseClusters s c true (c.fld 32 0 64) with
        | .fail st => endCmd k st 0 0 s
        | .wait => startCmd k s
        | .ok l =>
          let s := takeClusters k c.isle l (startCmd k s)
          let s := l.foldl (scrubScratch (scratchOff c) (scratchLen c)) s
          weaveLoop k 9 (updCmd k (fun c => { c with aux := [0], slots := emptySlots c }) s)
    else weaveLoop k 9 s)) s

/-- The stage that a running chain stands at. -/
def atStage (c : Cmd) : Nat := stageRec c c.done

/-- A later phase starts: every item has finished every stage of the phases before it (R437). -/
def execWeavePhaseStart (k : CmdKey) (s : State) : Host.Outcome State Fault Refusal :=
  run (withCmd k 0x0040 (fun c s =>
    if c.phase == .running && c.clusters != [] && c.done < stageCount c && startsPhase s c c.done && weaveSync c == 0 then
      weaveLoop k 9 (setSync k 1 s)
    else s)) s

/-- Whether a chain stands at a GATHER that acquires its flag. -/
def awaitsFlag (s : State) (c : Cmd) : Bool :=
  c.phase == .running && c.clusters != [] && c.done < stageCount c && sgKind (atStage c) == kGather && sgSync (atStage c) &&
    weaveSync c != 2 && (!startsPhase s c c.done || weaveSync c == 1)

/-- The flag of a GATHER with sync_en is read (R446): the chain goes on where its condition holds, and waits otherwise. -/
def execGatherAcquire (k : CmdKey) (s : State) : Host.Outcome State Fault Refusal :=
  run (withCmd k 0x0040 (fun c s =>
    if awaitsFlag s c then
      let g := atStage c
      readFlag c (sgFlagVa g) (fun st s => endWeave k c st 0 0 s) (fun v s =>
        if flagMeets (sgCond g) v (sgFlag g) then
          weaveLoop k 9 (setSync k 2 { s with heddle := { s.heddle with acquires := s.heddle.acquires.filter (fun a => a.1 != k) } })
        else takeEntry k c.isle (sgFlagVa g) s) s
    else s)) s

/-- The flag of a WRITE with sync_en is written, every item having finished the stage (R447). -/
def execWriteRelease (k : CmdKey) (s : State) : Host.Outcome State Fault Refusal :=
  run (withCmd k 0x0040 (fun c s =>
    if c.phase == .running && weaveSync c == 3 && (sgScope (atStage c) != 2 || c.unacked == []) then
      let g := atStage c
      match access k c.isle [⟨.shuttle (itemCluster c 0), true, sgFlagVa g, 8⟩] s with
      | (.fail st, s) => endWeave k c st 0 0 s
      | (.wait, s) => s
      | (.ok, s) =>
        let w := vwrite k c.isle (sgFlagVa g) (leBytes (sgFlag g) 8) s
        if w.1 then endWeave k c stPoison 0 0 w.2
        else weaveLoop k 9 (setSync k 0 (updCmd k (fun c => { c with done := c.done + 1, fwd := [] }) w.2))
    else s)) s

/-- A longest wait has expired: that of an ACQUIRE, whose counts carry the last value read (R187), or that of a chain at a GATHER
with sync_en (R446). -/
def execAcquireTimeout (k : CmdKey) (s : State) : Host.Outcome State Fault Refusal :=
  run (fun s =>
    withCmd k 0x0040 (fun c s => if awaitsFlag s c && acqTimeout c != 0 then endWeave k c stTimeout 0 0 s else s)
      (withCmd k 0x0032 (fun c s =>
        if c.phase == .running && c.fld 20 0 32 != 0 then
          match c.aux with
          | v :: _ => endCmd64 k stTimeout v s
          | [] => endFree k stTimeout s
        else s) s)) s

end Sys2Proof.Machine
end

