-- ==== Sys2Proof/Machine/Attn.lean ====
section
/-! DEFINITION. Attention over KV sequences (chapter 10): partials and their combine, ATTN_DECODE at its lead, at a sequence's
home and at a holder of its pages, and ATTN_COMBINE. -/

namespace Sys2Proof.Machine

/-! ## Partials (R471–R476). A partial is the list m, l, o[0], …, as FP32 codes. -/

abbrev negInf32 : Nat := 0xFF800000

/-- The leaf E of a span with no attended token (R472). -/
def emptyPartial (dim : Nat) : List Nat := negInf32 :: 0 :: List.replicate dim 0

/-- The combine C of two partials (R473). -/
def combinePart (a b : List Nat) : List Nat :=
  let ma := a.headD negInf32
  let mb := b.headD negInf32
  if ma = negInf32 ∧ mb = negInf32 then emptyPartial (a.length - 2)
  else if ma = negInf32 then b
  else if mb = negInf32 then a
  else
    let m := fMax [ma, mb]
    let ca := fExp (fSub ma m)
    let cb := fExp (fSub mb m)
    m :: List.zipWith (fun x y => fAdd (fMul x ca) (fMul y cb)) (a.drop 1) (b.drop 1)

/-- One level of the tree of R422 with C in place of addition. -/
def pairParts : List (List Nat) → List (List Nat)
  | a :: b :: r => combinePart a b :: pairParts r
  | l => l

/-- The tree of R422 over partials; `fuel` bounds the levels. -/
def treePartsAux : List (List Nat) → Nat → List Nat
  | l, 0 => l.headD []
  | l, k + 1 => if l.length ≤ 1 then l.headD [] else treePartsAux (pairParts l) k
def treeParts (l : List (List Nat)) : List Nat := treePartsAux l (Nat.log2 l.length + 1)

/-- The leaf of a span for one query head: the attended K and V vectors in position order (R472). INT8 vectors keep their scale
in the dot product (R471) and in the decoded V. -/
def leafPart (fmt dim scale : Nat) (q : List Nat) (kvs : List (List Byte × List Byte)) : List Nat :=
  if kvs = [] then emptyPartial dim
  else
    let sp := softmaxPartial (kvs.map (fun kv => fMul (dotRow fmt q kv.1) scale))
    let p := sp.take kvs.length
    let vs := kvs.map (fun kv => decodeVec fmt dim kv.2)
    sp.drop kvs.length ++ (List.range dim).map (fun d => treeSum (List.zipWith (fun pt v => fMul pt (v.getD d 0)) p vs))

/-- Normalized output of a head (R475). -/
def normPart (p : List Nat) : List Nat :=
  let l := p.getD 1 0
  (p.drop 2).map (fun o => if l = 0 then 0 else fMul o (fRecip l))

/-- The bytes of a head's output: FP32, BF16, or its partial (R479). -/
def headBytes (mode : Nat) (p : List Nat) : List Byte :=
  if mode = 0 then (normPart p).flatMap (fun x => leBytes x 4)
  else if mode = 1 then encodeVec 1 false 0 (normPart p)
  else p.flatMap (fun x => leBytes x 4)

/-- Bytes of one head's output. -/
def headLen (mode dim : Nat) : Nat := if mode = 0 then 4 * dim else if mode = 1 then 2 * dim else 4 * (dim + 2)

/-- The maximal aligned blocks of `[a, b)` as (first span, spans), lowest first (R483). -/
def alignedBlocks (a b : Nat) : Nat → List (Nat × Nat)
  | 0 => []
  | fuel + 1 =>
    if b ≤ a then []
    else
      let k := ((List.range 17).filter (fun k => a % 2 ^ k == 0 && a + 2 ^ k ≤ b)).foldl max 0
      (a, 2 ^ k) :: alignedBlocks (a + 2 ^ k) b fuel

/-- The element of the tree at level `k` for block `b`, from the partials of aligned blocks: in normal mode a block without a
right half passes up unchanged; in partial mode spans beyond the context are E (R474, R480). -/
def treeNode (tbl : List ((Nat × Nat) × List Nat)) (pad : Option (List Nat)) : Nat → Nat → Option (List Nat)
  | 0, b => match tbl.find? (fun e => e.1 == (b, 1)) with | some e => some e.2 | none => pad
  | k + 1, b =>
    match tbl.find? (fun e => e.1 == (b * 2 ^ (k + 1), 2 ^ (k + 1))) with
    | some e => some e.2
    | none =>
      match treeNode tbl pad k (2 * b), treeNode tbl pad k (2 * b + 1) with
      | some x, some y => some (combinePart x y)
      | some x, none => some x
      | none, r => r

/-! ## ATTN_DECODE: fields (R477, R478) -/

def atCount (c : Cmd) : Nat := c.fld 32 0 7
def atMode (c : Cmd) : Nat := c.fld 34 0 2
def atBf16 (c : Cmd) : Bool := bit (c.fld 34 0 8) 2
def atScale (c : Cmd) : Nat := c.fld 36 0 32

/-- An entry of the argument block. -/
structure AttnEntry where
  handle : Nat
  layer  : Nat
  ctx    : Nat
  win    : Nat
  first  : Nat
  count  : Nat
  q      : Nat
  out    : Nat
  deriving DecidableEq, Repr

def atEntry (c : Cmd) (i : Nat) : AttnEntry :=
  let b := fun (byte n : Nat) => field c.arg (64 * i + byte) n
  { handle := b 0 8, layer := b 8 1, ctx := bits (b 12 4) 0 24, win := bits (b 16 4) 0 24, first := b 20 2, count := b 22 2,
    q := bits (b 24 8) 0 55, out := bits (b 32 8) 0 55 }

/-- Reserved bits and encodings of an entry. -/
def atEntryOk (c : Cmd) (i : Nat) : Bool :=
  let b := fun (byte n : Nat) => field c.arg (64 * i + byte) n
  b 9 3 == 0 && bits (b 12 4) 24 8 == 0 && bits (b 16 4) 24 8 == 0 && bits (b 24 8) 0 6 == 0 && bits (b 24 8) 55 9 == 0 &&
    bits (b 32 8) 0 6 == 0 && bits (b 32 8) 55 9 == 0 && zeros c.arg (64 * i + 40) 24

def attnFieldsOk (c : Cmd) : Bool :=
  c.hasArg (· == 64 * atCount c) && 1 ≤ atCount c && atCount c ≤ 64 && c.rz 32 7 9 && atMode c != 3 && c.rz 34 3 5 && c.zero 35 35 &&
    !(isNan (atScale c) || isInf (atScale c)) && c.zero 40 63 && (List.range (atCount c)).all (atEntryOk c)

/-- Whether an entry's own ranges are sound: its window, context and block (R478, R481). -/
def atRangesOk (c : Cmd) (e : AttnEntry) : Bool :=
  1 ≤ e.ctx && e.ctx ≤ 8388608 && e.win < e.ctx &&
    (if atMode c = 2 then 1 ≤ e.count && e.count ≤ 32768 && e.count == 2 ^ Nat.log2 e.count && e.first % e.count == 0 && e.first + e.count ≤ 32768
     else e.first == 0 && e.count == 0)

/-- Spans of an entry's context. DEDUCED (log 63). -/
def atSpans (e : AttnEntry) : Nat := ceilDiv e.ctx 256

/-- The spans whose partials are wanted: all of the context, or the part of it inside the block. DEDUCED (log 63). -/
def atRange (c : Cmd) (e : AttnEntry) : Nat × Nat :=
  if atMode c = 2 then (e.first, min (atSpans e) (e.first + e.count)) else (0, atSpans e)

def KvSeq.qHeads (q : KvSeq) : Nat := q.kvHeads * q.group
def atQLen (c : Cmd) (q : KvSeq) : Nat := q.qHeads * q.headDim * (if atBf16 c then 2 else 4)
def atOutLen (c : Cmd) (q : KvSeq) : Nat := q.qHeads * headLen (atMode c) q.headDim

/-! ## ATTN_DECODE: what a device answers -/

/-- What a home knows of the handles asked: for each the number of words, none where the handle names nothing. -/
def homeShapes (isle : Nat) (hs : List Nat) (s : State) : List Nat :=
  hs.flatMap (fun h => match seq? s isle h with | some q => (seqWords q).length :: seqWords q | none => [0])

/-- The pieces of a run of positions inside single pages: page index, first position, positions. -/
def tokenRuns (t a n : Nat) : Nat → List (Nat × Nat × Nat)
  | 0 => []
  | fuel + 1 =>
    if n = 0 then []
    else
      let m := min n (t - a % t)
      (a / t, a, m) :: tokenRuns t (a + m) (n - m) fuel

/-- A holder's share: words handle, layer, context, window, KV heads, head dimension, format, group, then the blocks; bytes the
queries as FP32. It answers the partial of every block and query head, in that order (R483). -/
def homeAttn (k : CmdKey) (isle : Nat) (c : Cmd) (d : SubData) (s : State) : Home × State :=
  let w := subWords d
  if subPhase d = 0 then (.done stOk 0 0 0 { words := homeShapes isle w s, bytes := [] }, s)
  else
    let h := w.getD 0 0
    let layer := w.getD 1 0
    let q : KvSeq :=
      { gen := 0, isle := isle, layers := 0, kvHeads := w.getD 4 1, headDim := w.getD 5 64, fmt := w.getD 6 1,
        group := w.getD 7 1, sat := false, place := [], fills := [], refs := 0, owner := 0, ostate := 0, isSealed := false, target := 0,
        keys := [], ownerGone := false, mutating := [] }
    let blocks := wordPairs (w.drop 8)
    let tokens := fun (j : Nat) => (max (w.getD 3 0) (256 * j), min (w.getD 2 0) (256 * (j + 1)))
    let spans := blocks.flatMap (fun b => (List.range b.2).map (fun i => b.1 + i))
    let runs := spans.flatMap (fun j => let t := tokens j; tokenRuns q.tpp t.1 (t.2 - t.1) 257)
    let base := fun (s : State) (idx : Nat) => (kvPage s h layer idx).map (fun pk => pk % 2 ^ 39 * pageSize)
    if runs.any (fun r => match base s r.1 with | some va => !mapped s isle (va / pageSize) | none => true) then (.st stNotMapped, s)
    else
      let l := runs.flatMap (fun r => (List.range q.kvHeads).flatMap (fun hd =>
        let va := (base s r.1).getD 0 + hd * q.tpp * q.lh + r.2.1 % q.tpp * q.lh
        [(⟨.lagoon, false, va, r.2.2 * q.lh⟩ : Span), ⟨.lagoon, false, va + 32768, r.2.2 * q.lh⟩]))
      match access k isle l s with
      | (.fail st, s) => (.st st, s)
      | (.wait, s) => (.wait, s)
      | (.ok, s) =>
        let c' := { cmdNow s c with isle := isle }
        if l.any (fun r => vstatus s c' r.va r.len != stOk) then (.st stPoison, s)
        else
          let vec := fun (hd t : Nat) =>
            let va := (base s (t / q.tpp)).getD 0 + hd * q.tpp * q.lh + t % q.tpp * q.lh
            (vread s c' va q.lh, vread s c' (va + 32768) q.lh)
          let leaf := fun (i j : Nat) =>
            let t := tokens j
            leafPart q.fmt q.headDim (atScale c) (decodeVec 0 q.headDim ((d.bytes.drop (i * q.headDim * 4)).take (q.headDim * 4)))
              ((List.range (t.2 - t.1)).map (fun x => vec (i / q.group) (t.1 + x)))
          (.done stOk 0 0 0
            { words := blocks.flatMap (fun b => (List.range q.qHeads).flatMap (fun i =>
                treeParts ((List.range b.2).map (fun x => leaf i (b.1 + x)))))
              bytes := [] }, s)

/-! ## ATTN_DECODE: the lead. Progress: stage (1 homes asked, 2 checked, 3 holders asked, 4 all partials here). -/

/-- The entries of a command with the sequences the homes gave: words handle, count, record. -/
def entrySeqs : Nat → List Nat → List KvSeq
  | 0, _ => []
  | n + 1, w => seqOfWords ((w.drop 2).take (w.getD 1 0)) :: entrySeqs n (w.drop (2 + w.getD 1 0))

/-- Split a home's answer into one list of words for each handle asked. -/
def splitShapes : Nat → List Nat → List (List Nat)
  | 0, _ => []
  | n + 1, w => (w.drop 1).take (w.headD 0) :: splitShapes n (w.drop (1 + w.headD 0))

/-- The records that the answered homes gave for a handle; none where it names nothing. -/
def shapeOf (c : Cmd) (h : Nat) : Option (List Nat) :=
  c.subs.findSome? (fun x =>
    let hs := subWords x.data
    (((hs.zip (splitShapes hs.length x.answer.words)).find? (fun e => e.1 == h)).map (·.2)).bind
      (fun w => if w = [] then none else some w))

/-- The status an entry's checks give, in the order of R481; ST_OK where it passes. -/
def attnEntryStatus (s : State) (c : Cmd) (i : Nat) : Nat :=
  let e := atEntry c i
  match shapeOf c e.handle with
  | none => stNotMapped
  | some w =>
    let q := seqOfWords w
    if q.layers ≤ e.layer ∨ !atRangesOk c e ∨ q.fills.getD e.layer 0 < e.ctx then stBadDescriptor
    else
      match rangeFault s c.isle e.q (atQLen c q) 1 with
      | some (_, st) => st
      | none => match rangeFault s c.isle e.out (atOutLen c q) 2 with | some (_, st) => st | none => stOk

/-- Whether every span with attended tokens of an entry lies on this device (R485). -/
def entryHeldHere (s : State) (c : Cmd) (e : AttnEntry) (q : KvSeq) : Bool :=
  let r := atRange c e
  (List.range (r.2 - max r.1 (e.win / 256))).all (fun i => holderOf q.place (max r.1 (e.win / 256) + i) == s.pool.id)

/-- The spans of a range that a placement gives a device, as runs of consecutive placement entries. -/
def heldRuns (q : KvSeq) (pool a b : Nat) : List (Nat × Nat) :=
  (q.place.zip ((q.place.drop 1).map (·.2) ++ [32768])).foldl (fun l p =>
    let lo := max a p.1.2
    let hi := min b p.2
    if p.1.1 ≠ pool ∨ hi ≤ lo then l
    else match l.getLast? with
      | some x => if x.2 = lo then l.dropLast ++ [(x.1, hi)] else l ++ [(lo, hi)]
      | none => [(lo, hi)]) []

def heldBlocks (q : KvSeq) (pool a b : Nat) : List (Nat × Nat) :=
  (heldRuns q pool a b).flatMap (fun r => alignedBlocks r.1 r.2 64)

/-- The queries of an entry as FP32 bytes, and whether a line of them is poisoned. -/
def entryQueries (s : State) (c : Cmd) (e : AttnEntry) (q : KvSeq) : List Byte :=
  if atBf16 c then (decodeVec 1 (q.qHeads * q.headDim) (vread s c e.q (atQLen c q))).flatMap (fun x => leBytes x 4)
  else vread s c e.q (atQLen c q)

/-- The shares of an entry: one for each device that holds a block of it. -/
def entrySubs (s : State) (c : Cmd) (i : Nat) (q : KvSeq) : List Sub :=
  let e := atEntry c i
  let r := atRange c e
  if vstatus s c e.q (atQLen c q) != stOk then []
  else
    (homesInOrder (q.place.map (·.1))).filterMap (fun h =>
      let bl := heldBlocks q h.1 r.1 r.2
      if bl = [] then none
      else some (newSub (i * 64 + h.2) h.1 c.desc
        { words := [0, 1, e.handle, e.layer, e.ctx, e.win, q.kvHeads, q.headDim, q.fmt, q.group] ++ bl.flatMap (fun b => [b.1, b.2])
          bytes := entryQueries s c e q }))

/-- The output of an entry from the partials its holders answered. -/
def entryOutput (c : Cmd) (i : Nat) (q : KvSeq) : List Byte :=
  let e := atEntry c i
  let dim := q.headDim + 2
  let shares := c.subs.filter (fun x => x.shard / 64 == i)
  let tbl := fun (hd : Nat) => shares.flatMap (fun x =>
    let bl := wordPairs ((subWords x.data).drop 8)
    (bl.zip (List.range bl.length)).map (fun b =>
      (b.1, (x.answer.words.drop ((b.2 * q.qHeads + hd) * dim)).take dim)))
  (List.range q.qHeads).flatMap (fun hd =>
    let p :=
      if atMode c = 2 then treeNode (tbl hd) (some (emptyPartial q.headDim)) (Nat.log2 e.count) (e.first / e.count)
      else treeNode (tbl hd) none (Nat.log2 (2 * atSpans e - 1)) 0
    headBytes (atMode c) (p.getD (emptyPartial q.headDim)))

/-- The entries that met poison: a share or the queries (the queries leave no share behind where the range holds a block). -/
def poisonedEntries (s : State) (c : Cmd) (qs : List KvSeq) : List Nat :=
  (List.range (atCount c)).filter (fun i =>
    (c.subs.any (fun x => x.shard / 64 == i && x.status == some stPoison)) ||
      (let e := atEntry c i; let q := qs.getD i (seqOfWords []); vstatus s c e.q (atQLen c q) != stOk))

/-- Write the outputs of the entries that met no poison and end (R484). -/
def attnFinish (k : CmdKey) (c : Cmd) (qs : List KvSeq) (s : State) : State :=
  let n := atCount c
  let cl := c.clusters.headD 0
  let outs := (List.range n).flatMap (fun i =>
    let e := atEntry c i
    let q := qs.getD i (seqOfWords [])
    [(⟨.shuttle cl, false, e.q, atQLen c q⟩ : Span), ⟨.shuttle cl, true, e.out, atOutLen c q⟩])
  match access k c.isle outs s with
  | (.fail st, s) => endFree k st s
  | (.wait, s) => s
  | (.ok, s) =>
    let c := cmdNow s c
    let bad := poisonedEntries s c qs
    let r := ((List.range n).filter (fun i => !bad.contains i)).foldl (fun (r : List Nat × State) i =>
      let x := vwrite k c.isle (atEntry c i).out (entryOutput c i (qs.getD i (seqOfWords []))) r.2
      (if x.1 then r.1 ++ [i] else r.1, x.2)) ([], s)
    let bad := (List.range n).filter (fun i => bad.contains i || r.1.contains i)
    match bad with
    | [] => endCmd k stOk n 0xFFFFFFFF r.2
    | b :: _ => endCmd k stPoison (n - bad.length) b r.2

/-- Ask the homes of a command's sequences for their records. -/
def attnAsk (k : CmdKey) (c : Cmd) (s : State) : State :=
  let hs := ((List.range (atCount c)).map (fun i => (atEntry c i).handle)).eraseDups
  let homes := homesInOrder (hs.map hPool)
  let s := homes.foldl (fun s h => nameHome k h.1 s) (updCmd k (fun c => { c with aux := [1] }) (startCmd k s))
  startSubs k (homes.map (fun h => newSub h.2 h.1 c.desc { words := [0, 0] ++ hs.filter (fun x => hPool x == h.1), bytes := [] })) s

def attnGo (k : CmdKey) : Nat → State → State
  | 0, s => s
  | fuel + 1, s =>
    match cmd? s k with
    | none => s
    | some c0 =>
      let stage1 := fun (s : State) => runLocal k (fun x s => homeAttn k (spaceOf s x.peer c0.isle) c0 x.data s) s
      if c0.aux.headD 0 = 1 then
        let s := stage1 s
        let c := cmdNow s c0
        if !allAnswered c then s
        else
          match firstFailing c with
          | some x => failLead k x s
          | none =>
            let n := atCount c
            match (List.range n).find? (fun i => attnEntryStatus s c i != stOk) with
            | some i => endCmd k (attnEntryStatus s c i) 0 i s
            | none =>
              let words := (List.range n).flatMap (fun i =>
                let w := (shapeOf c (atEntry c i).handle).getD []
                (atEntry c i).handle :: w.length :: w)
              let qs := entrySeqs n words
              if descScheduled c.desc && !(List.range n).all (fun i => entryHeldHere s c (atEntry c i) (qs.getD i (seqOfWords []))) then
                badDesc k s
              else
                attnGo k fuel (updCmd k (fun c => { c with aux := [2], subs := [], data := { words := words, bytes := [] } }) s)
      else if c0.aux.headD 0 = 2 then
        withClusters k (fun st s => endFree k st s) (fun s =>
          let c := cmdNow s c0
          let qs := entrySeqs (atCount c) c.data.words
          let spans := (List.range (atCount c)).map (fun i =>
            (⟨.shuttle (c.clusters.headD 0), false, (atEntry c i).q, atQLen c (qs.getD i (seqOfWords []))⟩ : Span))
          match access k c.isle spans s with
          | (.fail st, s) => endFree k st s
          | (.wait, s) => s
          | (.ok, s) =>
            let c := cmdNow s c
            attnGo k fuel (startSubs k ((List.range (atCount c)).flatMap (fun i => entrySubs s c i (qs.getD i (seqOfWords []))))
              (updCmd k (fun c => { c with aux := [3] }) s))) s
      else
        let s := stage1 s
        let c := cmdNow s c0
        if !allAnswered c then s
        else
          match (c.subs.filter (fun x => x.status != some stOk && x.status != some stPoison)).foldl
              (fun b x => match b with | none => some x | some y => if x.shard < y.shard then some x else some y) none with
          | some x => failLead k x s
          | none => attnFinish k c (entrySeqs (atCount c) c.data.words) s

def execAttnDecode (k : CmdKey) (s : State) : Host.Outcome State Fault Refusal :=
  run (withCmd k 0x0201 (fun c s =>
    if c.lead.isSome then
      let s := startCmd k s
      if subPhase c.data = 0 then (let r := homeAttn k c.isle c c.data s; endServed k r.1 r.2)
      else
        withClusters k (fun st s => endServed k (.st st) s)
          (fun s => let r := homeAttn k c.isle (cmdNow s c) c.data s; endServed k r.1 r.2) s
    else if c.aux = [] then
      if !attnFieldsOk c then badDesc k s else attnGo k 4 (attnAsk k c s)
    else attnGo k 4 s)) s

/-! ## ATTN_COMBINE (R486–R488) -/

def cbCount (c : Cmd) : Nat := c.fld 16 0 17
def cbHeads (c : Cmd) : Nat := c.fld 20 0 11
def cbDim (c : Cmd) : Nat := 64 * 2 ^ c.fld 22 0 2
def cbMode (c : Cmd) : Nat := c.fld 23 0 2

def combineFieldsOk (c : Cmd) : Bool :=
  !descArgBlock c.desc && 1 ≤ cbCount c && cbCount c ≤ 65536 && c.rz 16 17 15 && 1 ≤ cbHeads c && cbHeads c ≤ 1024 && c.rz 20 11 5 &&
    c.fld 22 0 2 != 3 && c.rz 22 2 6 && cbMode c != 3 && c.rz 23 2 6 && c.rz 24 0 6 && c.rz 24 55 9 && c.rz 32 0 6 && c.rz 32 55 9 &&
    c.zero 40 63

/-- Bytes of one partial record. -/
def cbRecord (c : Cmd) : Nat := cbHeads c * headLen 2 (cbDim c)

def execAttnCombine (k : CmdKey) (s : State) : Host.Outcome State Fault Refusal :=
  run (withCmd k 0x0202 (fun c s =>
    if !combineFieldsOk c then badDesc k s
    else
      withClusters k (fun st s => endFree k st s) (fun s =>
        let c := cmdNow s c
        let cl := c.clusters.headD 0
        let n := cbCount c
        let outLen := cbHeads c * headLen (cbMode c) (cbDim c)
        whenReady c [⟨.shuttle cl, false, c.va 24, n * cbRecord c⟩, ⟨.shuttle cl, true, c.va 32, outLen⟩] (fun s =>
          let c := cmdNow s c
          let bad := (List.range n).filter (fun r => vstatus s c (c.va 24 + r * cbRecord c) (cbRecord c) != stOk)
          match bad with
          | b :: _ => endCmd k stPoison (n - bad.length) b s
          | [] =>
            let part := fun (hd r : Nat) =>
              decodeVec 0 (cbDim c + 2) (vread s c (c.va 24 + r * cbRecord c + hd * headLen 2 (cbDim c)) (headLen 2 (cbDim c)))
            let bs := (List.range (cbHeads c)).flatMap (fun hd => headBytes (cbMode c) (treeParts ((List.range n).map (part hd))))
            let w := vwrite k c.isle (c.va 32) bs s
            if w.1 then endCmd k stPoison n 0 w.2 else endCmd k stOk n 0xFFFFFFFF w.2) s) (startCmd k s))) s

end Sys2Proof.Machine
end

