-- ==== Sys2Proof/Machine/Clocks.lean ====
section
/-! DEFINITION. The sources of the root: the reference multiplexer, its monitors, the trim, and a stop of the root (chapter 16,
"Sources of the root"). -/

namespace Sys2Proof.Machine

/-- The recovered clock of L0 of the timing port is alive (CLK_MON_STATUS.timing_alive). -/
def timingAlive (s : State) : Bool := s.clocks.laneAlive.getLsbD s.clocks.timingPort

/-- The PLL's present reference is alive (R746). -/
def refAlive (s : State) : Bool := if s.clocks.refIsLane then timingAlive s else s.clocks.oscAlive

/-- The reference that the PLL does not take now is alive. -/
def otherAlive (s : State) : Bool := if s.clocks.refIsLane then s.clocks.oscAlive else timingAlive s

/-- Unit number of the present reference in a clock event (R752). -/
def refUnit (s : State) : Nat := if s.clocks.refIsLane then s.clocks.timingPort else 31

/-- Select the timing lane or the oscillator as reference. A forced select switches at once and holds the phase detector: the PLL
is in holdover until it locks (R751). A glitch-free switch waits for the old clock: where that has stopped, it never completes and
the PLL stays in holdover (R749). -/
def selectRef (forced lane : Bool) (s : State) : State :=
  let c := s.clocks
  if forced then
    if lane == c.refIsLane && !c.switchPending then s
    else { s with clocks := { c with refIsLane := lane, switchPending := false, holdover := true, pllLocked := false } }
  else if lane == c.refIsLane then { s with clocks := { c with switchPending := c.switchPending && !refAlive s } }
  else { s with clocks := { c with switchPending := true, holdover := c.holdover || !refAlive s, pllLocked := c.pllLocked && refAlive s } }

/-- The timing lane becomes the reference once software has set ref_sel, the selected port is up and its lane is alive (R744). -/
def takeLane (s : State) : State :=
  if s.clocks.refSel && !s.clocks.refIsLane && !s.clocks.switchPending && portUp s s.clocks.timingPort && timingAlive s then
    selectRef s.clocks.force true s
  else s

/-- A write of CLK_SRC_CTRL: a timing_port of 24–31 is reserved and kept out (R12). -/
def writeSrcCtrl (value : BitVec 32) (s : State) : State :=
  if s.harbour.sealed then s
  else
    let v := value.toNat
    let old := s.clocks.refSel
    let c := s.clocks
    let port := bits v 1 5
    let s := { s with clocks := { c with refSel := bit v 0, timingPort := if port < 24 then port else c.timingPort,
                                         trimSrc := bit v 6, force := bit v 7 } }
    if s.clocks.refSel == old then s
    else if s.clocks.refSel then takeLane s
    else if s.clocks.refIsLane || s.clocks.switchPending then selectRef s.clocks.force false s
    else s

/-- A write of CLK_SRC_CTRL that changes ref_sel (R744, R749, R751). -/
def execRefSelectWrite (value : BitVec 32) (s : State) : Host.Outcome State Fault Refusal :=
  run (fun s => if bit value.toNat 0 == s.clocks.refSel then s else writeSrcCtrl value s) s

/-- The PLL locks to its reference and leaves holdover (R751). -/
def execPllLocked (s : State) : Host.Outcome State Fault Refusal :=
  run (fun s =>
    if s.clocks.switchPending || !refAlive s then s
    else { s with clocks := { s.clocks with pllLocked := true, holdover := false } }) s

/-- The selected reference stops (1) or leaves its range (2): holdover, CLK_REF_LOST, and a forced select of the oscillator, since
the old source is not alive (R747, R750). Where the oscillator itself was the reference, the PLL stays in holdover. DEDUCED (log 86). -/
def execClkRefLost (cause : Nat) (s : State) : Host.Outcome State Fault Refusal :=
  run (fun s =>
    if !(cause = 1 || cause = 2) then s
    else
      let s := raise (event evClkRefLost (refUnit s) 0 cause 0) s
      let c := s.clocks
      if c.refIsLane then
        let s := { s with clocks := { c with laneAlive := c.laneAlive &&& ~~~(1 <<< c.timingPort : BitVec 24) } }
        raise (event evClkRefSwitched 31 0 2 0) (selectRef true false s)
      else { s with clocks := { c with oscAlive := false, holdover := true, pllLocked := false } }) s

/-- The timing lane's clock has stayed alive for 10 ms: the reference returns to it, by a glitch-free switch where the oscillator
is alive and by a forced select where it is not (R747, R750). DEDUCED (log 86). -/
def execRefSwitchBack (s : State) : Host.Outcome State Fault Refusal :=
  run (fun s =>
    let c := s.clocks
    if !c.refSel || c.refIsLane || c.switchPending || !portUp s c.timingPort then s
    else
      let s := { s with clocks := { c with laneAlive := c.laneAlive ||| (1 <<< c.timingPort : BitVec 24) } }
      if c.oscAlive then raise (event evClkRefSwitched c.timingPort 0 1 0) { s with clocks := { s.clocks with refIsLane := true } }
      else raise (event evClkRefSwitched c.timingPort 0 2 0) (selectRef true true s)) s

/-- Harbour firmware trims the oscillator while the trim's reference is alive: REFCLK, or the beat markers (R743). -/
def execOscTrim (code : BitVec 16) (s : State) : Host.Outcome State Fault Refusal :=
  run (fun s =>
    let live := if s.clocks.trimSrc then s.treadle.locked && !s.treadle.unsynced else s.clocks.refclkAlive
    if live then { s with clocks := { s.clocks with trim := code } } else s) s

/-- The root stops: every clocked domain stops, every transmitter falls silent, ALERT_N is driven low, and the journal's next
report gives cause 4 (R748, R768). Only a reset restarts the device. -/
def execRootStopped (s : State) : Host.Outcome State Fault Refusal :=
  run (fun s =>
    { s with
      clocks := { s.clocks with rootAlive := false, pllLocked := false }
      pool := { s.pool with rootAlert := true }
      harbour := { s.harbour with jCause := 4 }
      links := { s.links with ports := s.links.ports.map (fun p => (p.1, { p.2 with txIdle := true })) } }) s

end Sys2Proof.Machine
end

