-- ==== Sys2Proof/Machine/Dma.lean ====
section
/-! DEFINITION. NOP, the DMA commands COPY, FILL, TILE_COPY and CHECK (chapters 03 and 14), POISON_CLEAR, and ATOMIC_BATCH
(chapter 05). A row given `bursts` moves at most that many 256-byte bursts, 0 for all that remain. -/

namespace Sys2Proof.Machine

/-- NOP reserves bytes 16–63 and completes with both counts zero (R331). -/
def execNop (k : CmdKey) (s : State) : Host.Outcome State Fault Refusal :=
  run (withCmd k 0x0001 (fun c s =>
    if descArgBlock c.desc || !c.zero 16 63 then badDesc k s else endCmd k stOk 0 0 s)) s

/-! ## Moving bytes -/

/-- ST_DATA_LOST takes precedence over ST_POISON, and that over ST_OK (R670). -/
def worse (a b : Nat) : Nat := if a = stDataLost ∨ b = stDataLost then stDataLost else max a b

/-- The worst status a command has met so far, kept in its first progress number. -/
def Cmd.worst (c : Cmd) : Nat := c.aux.headD stOk

/-- Bytes moved and the worst status so far. -/
def progress (k : CmdKey) (n st : Nat) (s : State) : State :=
  updCmd k (fun c => { c with done := c.done + n, aux := [worse c.worst st] }) s

/-- Write bytes at a destination from a source range, destination line by destination line: a line that takes bytes from a
poisoned or lost source line is written poisoned (R670). -/
def moveLines (c : Cmd) (sv dv : Nat) (bs : List Byte) (s : State) : Nat × State :=
  (lineParts dv bs (bs.length / 64 + 2)).foldl (fun r p =>
    let st := vstatus r.2 c (sv + (p.1 - dv)) p.2.length
    if st = stOk then
      let w := vwrite c.key c.isle p.1 p.2 r.2
      (if w.1 then worse r.1 stPoison else r.1, w.2)
    else
      match walk r.2 c.isle (p.1 / pageSize) with
      | .entry e =>
        let id := r.2.twin.nextItem
        (worse r.1 st, awaitItems c.key id (poisonLine (through r.2 c.isle p.1 e) (lineOf (eOff e + p.1 % pageSize)) r.2))
      | _ => r) (stOk, s)

/-- One burst of a copy from `sv` to `dv`: the source and the destination translated and made ready, then moved. `whole` says
that the operation writes the whole destination page. -/
def copyBurst (k : CmdKey) (c : Cmd) (sv dv n : Nat) (whole : Bool) (s : State) : Got × State :=
  match readyPiece k c.isle .dma false false sv n s with
  | (.fail st, s) => if stalled s c (sv / pageSize) then (.wait, issue k [sv / pageSize] s) else (.fail st, s)
  | (.wait, s) => (.wait, s)
  | (.ok, s) =>
    match readyPiece k c.isle .dma true whole dv n s with
    | (.fail st, s) => if stalled s c (dv / pageSize) then (.wait, issue k [dv / pageSize] s) else (.fail st, s)
    | (.wait, s) => (.wait, s)
    | (.ok, s) =>
      let c := cmdNow s c
      let r := moveLines c sv dv (vread s c sv n) s
      (.ok, progress k n r.1 (issue k [sv / pageSize, dv / pageSize] r.2))

/-- Bytes of the next burst: up to the next 256-byte boundary of the destination, within both pages (R156). -/
def burstLen (sv dv left : Nat) : Nat :=
  min left (min (256 - dv % 256) (min (pageSize - sv % pageSize) (pageSize - dv % pageSize)))

/-- Whether the operation over `[va, va+len)` covers the whole page of an address. -/
def coversPage (va len a : Nat) : Bool := va ≤ a / pageSize * pageSize && a / pageSize * pageSize + pageSize ≤ va + len

/-! ## The budget of a pick (R375, R377) -/

/-- The memory class that a page's bursts count against: HBM, DDR, or none. -/
def tierRid (s : State) (isle va : Nat) : List Nat :=
  match offOf s isle va with
  | some off => if inTier .hbm (off / pageSize) then [0x3000] else if inTier .ddr (off / pageSize) then [0x4000] else []
  | none => []

/-- The slots that one burst takes: one of the fabric, and one of the tier of each address it reads or writes. -/
def burstCost (s : State) (isle : Nat) (vas : List Nat) : List (Nat × Nat) :=
  let l := vas.flatMap (tierRid s isle)
  [0x6000, 0x3000, 0x4000].map (fun r => (r, if r = 0x6000 then 1 else (l.filter (· == r)).length))

/-- What a pick reserves of a resource in each beat. -/
def reserved (k : Pick) (rid : Nat) : Nat := ((k.demand.filter (fun d => d.1 == rid)).map (fun d => ceilDiv d.2 k.span)).sum

/-- Whether the budget of a released pick holds its next burst back to the next boundary: a counter would fall below zero. A
counter that is full takes any burst (log 27). -/
def budgetHolds (s : State) (c : Cmd) (vas : List Nat) : Bool :=
  match c.pick with
  | none => false
  | some (h, i) =>
    let pick := (NMap.get? s.treadle.plans h).bind (fun p => p.text.picks[i]?)
    (burstCost s c.isle vas).any (fun r => s.treadle.budgets.any (fun b =>
      b.1 == h && b.2.1 == i && b.2.2.1 == r.1 && b.2.2.2 < r.2 && pick.any (fun k => b.2.2.2 < reserved k r.1)))

/-- The counters of a pick after a burst. -/
def spendBudget (c : Cmd) (vas : List Nat) (s : State) : State :=
  match c.pick with
  | none => s
  | some (h, i) =>
    let cost := burstCost s c.isle vas
    { s with treadle := { s.treadle with budgets := s.treadle.budgets.map (fun b =>
        if b.1 = h ∧ b.2.1 = i then (b.1, b.2.1, b.2.2.1, b.2.2.2 - NMap.getD cost b.2.2.1 0) else b) } }

/-! ## COPY (R146, R149, R153–R155) -/

def copyFieldsOk (c : Cmd) : Bool :=
  !descArgBlock c.desc && c.rz 16 55 9 && c.rz 24 55 9 && c.zero 40 63 && 1 ≤ c.fld 32 0 64 && c.fld 32 0 64 ≤ 2 ^ 40

/-- Whether any source byte lies within the destination bytes (R149). -/
def overlap (a la b lb : Nat) : Bool := a < b + lb && b < a + la

def copyLoop (k : CmdKey) : Nat → Nat → State → State
  | 0, _, s => s
  | fuel + 1, budget, s =>
    match cmd? s k with
    | none => s
    | some c =>
      let len := c.fld 32 0 64
      if len ≤ c.done then endCmd64 k c.worst c.done s
      else if budget = 0 || budgetHolds s c [c.va 16 + c.done, c.va 24 + c.done] then s
      else
        let sv := c.va 16 + c.done
        let dv := c.va 24 + c.done
        match copyBurst k c sv dv (burstLen sv dv (len - c.done)) (coversPage (c.va 24) len dv) s with
        | (.fail st, s) => endCmd64 k st c.done s
        | (.wait, s) => s
        | (.ok, s) => copyLoop k fuel (budget - 1) (spendBudget c [sv, dv] s)

/-- A row's budget of bursts: 0 stands for all that remain. -/
def budgetOf (bursts len : Nat) : Nat := if bursts = 0 then len + 1 else bursts

def execCopy (k : CmdKey) (bursts : Nat) (bad : List LineFault) (s : State) : Host.Outcome State Fault Refusal :=
  run (withCmd k 0x0010 (fun c s =>
    let len := c.fld 32 0 64
    if !copyFieldsOk c || overlap (c.va 16) len (c.va 24) len then badDesc k s
    else copyLoop k (len + 2) (budgetOf bursts len) (startCmd k (bad.foldl lineFault s)))) s

/-! ## FILL (R147) -/

def fillFieldsOk (c : Cmd) : Bool :=
  !descArgBlock c.desc && c.rz 16 55 9 && c.zero 24 31 && c.zero 48 63 && 1 ≤ c.fld 32 0 64 && c.fld 32 0 64 ≤ 2 ^ 40

/-- `n` bytes of the pattern from distance `d`. -/
def patternBytes (pat d n : Nat) : List Byte := (List.range n).map (fun i => BitVec.ofNat 8 (pat >>> (8 * ((d + i) % 8))))

def fillLoop (k : CmdKey) : Nat → Nat → State → State
  | 0, _, s => s
  | fuel + 1, budget, s =>
    match cmd? s k with
    | none => s
    | some c =>
      let len := c.fld 32 0 64
      if len ≤ c.done then endCmd64 k c.worst c.done s
      else if budget = 0 || budgetHolds s c [c.va 16 + c.done] then s
      else
        let dv := c.va 16 + c.done
        let n := burstLen dv dv (len - c.done)
        match readyPiece k c.isle .dma true (coversPage (c.va 16) len dv) dv n s with
        | (.fail st, s) =>
          if stalled s c (dv / pageSize) then issue k [dv / pageSize] s else endCmd64 k st c.done s
        | (.wait, s) => s
        | (.ok, s) =>
          let w := vwrite k c.isle dv (patternBytes (c.fld 40 0 64) c.done n) s
          fillLoop k fuel (budget - 1) (spendBudget c [dv] <| progress k n (if w.1 then stPoison else stOk) (issue k [dv / pageSize] w.2))

def execFill (k : CmdKey) (bursts : Nat) (s : State) : Host.Outcome State Fault Refusal :=
  run (withCmd k 0x0011 (fun c s =>
    let len := c.fld 32 0 64
    if !fillFieldsOk c then badDesc k s else fillLoop k (len + 2) (budgetOf bursts len) (startCmd k s))) s

/-! ## TILE_COPY (R148–R152) -/

def tileRow (c : Cmd) : Nat := c.fld 32 0 27
def tileRows (c : Cmd) : Nat := c.fld 36 0 17
def tileSp (c : Cmd) : Nat := c.fld 40 0 40
def tileDp (c : Cmd) : Nat := c.fld 48 0 40

def tileFieldsOk (c : Cmd) : Bool :=
  !descArgBlock c.desc && c.rz 16 55 9 && c.rz 24 55 9 && c.rz 32 27 5 && c.rz 36 17 15 && c.rz 40 40 24 && c.rz 48 40 24 &&
    c.zero 56 63 && 1 ≤ tileRow c && tileRow c ≤ 67108864 && 1 ≤ tileRows c && tileRows c ≤ 65536 &&
    tileRow c ≤ tileSp c && tileRow c ≤ tileDp c && tileRow c * tileRows c ≤ 67108864

/-- The rows of a tile as ranges. -/
def tileRanges (base pitch rows rowBytes : Nat) : List (Nat × Nat) := (List.range rows).map (fun r => (base + r * pitch, rowBytes))

def tileSrc (c : Cmd) : List (Nat × Nat) := tileRanges (c.va 16) (tileSp c) (tileRows c) (tileRow c)
def tileDst (c : Cmd) : List (Nat × Nat) := tileRanges (c.va 24) (tileDp c) (tileRows c) (tileRow c)

/-- Whether any source byte of the tile lies within its destination bytes (R149). -/
def tileOverlap (c : Cmd) : Bool :=
  (tileSrc c).any (fun a => (tileDst c).any (fun b => overlap a.1 a.2 b.1 b.2))

/-- The failing page parts of a list of ranges: the address where each part starts, and its status (R150). DEDUCED (log 58). -/
def failingParts (s : State) (isle need : Nat) (l : List (Nat × Nat)) : List (Nat × Nat) :=
  (l.flatMap (fun r => pieces r.1 r.2)).filterMap (fun p =>
    match xlat s isle p.1 need with
    | .inl _ => none
    | .inr st => some (p.1, if st = stNotMapped then stPartialMap else st))

/-- The lowest of failing addresses. DEDUCED (log 58). -/
def lowestPart : List (Nat × Nat) → Option (Nat × Nat)
  | [] => none
  | x :: r => match lowestPart r with | none => some x | some y => if y.1 < x.1 then some y else some x

def tileLoop (k : CmdKey) : Nat → Nat → State → State
  | 0, _, s => s
  | fuel + 1, budget, s =>
    match cmd? s k with
    | none => s
    | some c =>
      let total := tileRow c * tileRows c
      if total ≤ c.done then endCmd64 k c.worst c.done s
      else
        let r := c.done / tileRow c
        let o := c.done % tileRow c
        let sv := c.va 16 + r * tileSp c + o
        let dv := c.va 24 + r * tileDp c + o
        if budget = 0 || budgetHolds s c [sv, dv] then s
        else
        let whole := tileRow c == tileDp c && coversPage (c.va 24) total dv
        match copyBurst k c sv dv (burstLen sv dv (tileRow c - o)) whole s with
        | (.ok, s) => tileLoop k fuel (budget - 1) (spendBudget c [sv, dv] s)
        | (_, s) => s

def execTileCopy (k : CmdKey) (bursts : Nat) (s : State) : Host.Outcome State Fault Refusal :=
  run (withCmd k 0x0012 (fun c s =>
    let total := tileRow c * tileRows c
    if !tileFieldsOk c || tileOverlap c then badDesc k s
    else if c.phase = .ready then
      match lowestPart (failingParts s c.isle 1 (tileSrc c) ++ failingParts s c.isle 2 (tileDst c)) with
      | some (va, st) => endCmd64 k st va (faultEvent c.isle va st s)
      | none =>
        -- every page of the tile is translated before the first burst
        let pages := ((tileSrc c ++ tileDst c).flatMap (fun r => pagesOf r.1 r.2)).eraseDups
        tileLoop k (total + 2) (budgetOf bursts total) (issue k pages (startCmd k s))
    else tileLoop k (total + 2) (budgetOf bursts total) s)) s

/-! ## CHECK (R674–R678) -/

def checkFieldsOk (c : Cmd) : Bool :=
  let w := (crcOfCode (c.fld 16 0 2)).width
  !descArgBlock c.desc && c.rz 16 5 3 && c.zero 17 23 && c.rz 24 55 9 && 1 ≤ c.fld 32 0 64 && c.fld 32 0 64 ≤ 2 ^ 40 &&
    (if bit (c.fld 16 0 8) 2 then c.fld 40 0 64 < 2 ^ w else c.fld 40 0 64 == 0) &&
    (if bit (c.fld 16 0 8) 4 then c.fld 48 0 64 < 2 ^ w else c.fld 48 0 64 == 0) && c.rz 56 0 4 && c.rz 56 55 9

/-- The CRC register so far, kept as the second progress number plus one. -/
def checkReg (c : Cmd) : Nat :=
  let p := crcOfCode (c.fld 16 0 2)
  match c.aux with
  | [_, r] => r
  | _ => if bit (c.fld 16 0 8) 4 then c.fld 48 0 64 ^^^ p.xout else p.init

/-- End a CHECK whose last byte is in: the result record, the comparison, the counts (R677, R678). DEDUCED (log 93). -/
def checkEnd (k : CmdKey) (c : Cmd) (s : State) : State :=
  let result := checkReg c ^^^ (crcOfCode (c.fld 16 0 2)).xout
  let rva := c.va 56
  let finish := fun (s : State) =>
    if !bit (c.fld 16 0 8) 2 || result == c.fld 40 0 64 then endCmd64 k stOk result s
    else
      endCmd64 k stCheckMismatch c.done (updCmd k (fun x => { x with forceIrq := bit (c.fld 16 0 8) 3 }) s)
  if rva = 0 then finish s
  else
    match access k c.isle [⟨.dma, true, rva, 16⟩] s with
    | (.fail st, s) => endCmd64 k st c.done s
    | (.wait, s) => s
    | (.ok, s) =>
      let w := vwrite k c.isle rva (leBytes result 8 ++ leBytes c.done 8) s
      if w.1 then endCmd64 k stPoison c.done w.2 else finish w.2

/-- Bytes of a range before its first line that reads as failing, where it has one. -/
def goodPrefix (s : State) (c : Cmd) (va n : Nat) : Option Nat :=
  (List.range n).find? (fun i => (i == 0 || (va + i) % 64 == 0) && vstatus s c (va + i) 1 != stOk)

def checkLoop (k : CmdKey) : Nat → Nat → State → State
  | 0, _, s => s
  | fuel + 1, budget, s =>
    match cmd? s k with
    | none => s
    | some c =>
      let len := c.fld 32 0 64
      if len ≤ c.done then checkEnd k c s
      else if budget = 0 || budgetHolds s c [c.va 24 + c.done] then s
      else
        let va := c.va 24 + c.done
        let n := burstLen va va (len - c.done)
        match readyPiece k c.isle .dma false false va n s with
        | (.fail st, s) =>
          if stalled s c (va / pageSize) then issue k [va / pageSize] s else endCmd64 k st c.done s
        | (.wait, s) => s
        | (.ok, s) =>
          let c := cmdNow s c
          match goodPrefix s c va n with
          | some i => endCmd64 k (vstatus s c (va + i) 1) (c.done + i) s
          | none =>
            let r := crcRun (crcOfCode (c.fld 16 0 2)) (checkReg c) (vread s c va n)
            checkLoop k fuel (budget - 1) <| spendBudget c [va]
              (updCmd k (fun x => { x with done := x.done + n, aux := [stOk, r] }) (issue k [va / pageSize] s))

def execCheck (k : CmdKey) (bursts : Nat) (s : State) : Host.Outcome State Fault Refusal :=
  run (withCmd k 0x0018 (fun c s =>
    let len := c.fld 32 0 64
    let rva := c.va 56
    if !checkFieldsOk c then badDesc k s
    else if c.phase = .ready && rva != 0 && xlatRange s c.isle rva 16 2 != stOk then
      endCmd64 k (xlatRange s c.isle rva 16 2) 0 s
    else checkLoop k (len + 2) (budgetOf bursts len) (startCmd k s))) s

/-! ## POISON_CLEAR (R672, R673) -/

/-- A line whose stored data an uncorrectable error or a lost mark left undefined: with keep set it yields free bytes. A line that
was only poisoned-lost yields its last written-back value, which the store holds. -/
def freeLine (s : State) : Line := BitVec.ofNat 512 (leVal ((List.range 64).map (fun i => Config.freeByte (s.free + i))))

/-- Clear one line: true where it was poisoned or lost. -/
def clearLine (mir keep : Bool) (line : Nat) (s : State) : Bool × State :=
  if lineStatus s line = stOk then (false, s)
  else
    let lost := isLost s line
    let v : Line := if keep then (if lost then freeLine s else readLine s line) else 0
    let s := if keep && lost then { s with free := s.free + 64 } else s
    let s := wake line (putLine line v s)
    (true, if mir then twinSend 1 (twinKey s line ++ [0]) [] (twinSend 0 (twinKey s line) (readBytes s line 64) s) else s)

def poisonFieldsOk (c : Cmd) : Bool :=
  !descArgBlock c.desc && c.rz 16 1 7 && c.zero 17 23 && c.rz 24 0 6 && c.rz 24 55 9 && 64 ≤ c.fld 32 0 64 &&
    c.fld 32 0 64 ≤ 2 ^ 34 && c.fld 32 0 64 % 64 == 0 && c.va 24 + c.fld 32 0 64 ≤ 2 ^ 55

def execPoisonClear (k : CmdKey) (s : State) : Host.Outcome State Fault Refusal :=
  run (withCmd k 0x0405 (fun c s =>
    let va := c.va 24
    let len := c.fld 32 0 64
    if !poisonFieldsOk c then badDesc k s
    else
      whenReady c [⟨.dma, true, va, len⟩] (fun s =>
        let id := s.twin.nextItem
        let r := (List.range (len / 64)).foldl (fun (r : Nat × Nat × State) i =>
          let a := va + 64 * i
          match walk r.2.2 c.isle (a / pageSize) with
          | .entry e =>
            let t := clearLine (through r.2.2 c.isle a e) (bit (c.fld 16 0 8) 0) (eOff e + a % pageSize) r.2.2
            if t.1 then (r.1 + 1, r.2.1, t.2) else (r.1, r.2.1 + 1, t.2)
          | _ => r) (0, 0, s)
        endCmd k stOk r.1 r.2.1 (awaitItems k id r.2.2)) s)) s

/-! ## ATOMIC_BATCH (R226–R230) -/

/-- An atomic performed on a line at a device offset (R220, R224, R225): the prior value; none while copies outside are being
taken back; the second component is false where the line is poisoned and nothing was done (R229, R256). `cl` is the cluster
that performs it, and `tracked` says that the line is of a coherent DRAM page; an atomic of a mirrored line is performed at
memory under the transaction, so that its write reaches the twin (log 12). -/
def atomicAt (who : Who) (mir tracked : Bool) (cl op off a c : Nat) (s : State) : Option (Nat × Bool) × State :=
  let line := lineOf off
  let sz := atomicSize op
  let finish := fun (l : Line) (cached : Bool) (s : State) =>
    let old := bits l.toNat (8 * (off % 64)) (8 * sz)
    let new := leBytes (atomicNew op old a c) sz
    if cached then (some (old, true), wake line (cacheWrite cl line (fun l => mergeLine l (off % 64) new) s))
    else (some (old, true), (storeLine mir off new s).2)
  if (cacheGet s cl line).all (·.state == .s) && lineStatus s line != stOk && !txnOpen s line && (dirGet s line).all (·.state == .shared)
  then (some (0, false), s)
  else if tracked && !mir then
    match hedOwnInt cl who line s with
    | (none, s) => (none, s)
    | (some (l, cached), s) => if !cached && lineStatus s line != stOk then (some (0, false), s) else finish l cached s
  else
    let r := hedClear who line s
    if !r.1 then (none, r.2)
    else if lineStatus r.2 line != stOk then (some (0, false), r.2)
    else finish (readLine r.2 line) false r.2

/-- Home cluster of a line: S(L[5:0]) (R220). -/
def homeCluster (off : Nat) : Nat := lineNo off % 64

/-- Check of one entry of the list: op, reserved bytes and alignment, then translation and rights (R228). -/
def entryStatus (s : State) (isle : Nat) (b : List Byte) : Nat :=
  let op := field b 0 1
  let va := field b 8 8
  let sz := atomicSize op
  if sz = 0 then stBadDescriptor
  else if !(zeros b 1 7) || 2 ^ 55 ≤ va || !(zeros b 48 16) || !atomicOperandsOk op (field b 16 16) (field b 32 16) then stBadDescriptor
  else if va % sz ≠ 0 then stBadDescriptor
  else match xlat s isle va 7 with | .inl _ => stOk | .inr st => st

def batchFieldsOk (c : Cmd) : Bool :=
  !descArgBlock c.desc && 1 ≤ c.fld 16 0 32 && c.fld 16 0 32 ≤ 65536 && c.rz 20 1 7 && c.zero 21 23 && c.rz 24 0 6 &&
    c.rz 24 55 9 && c.rz 32 0 4 && c.rz 32 55 9 && c.zero 40 63

/-- Perform the entries from the one the command has reached. Progress numbers: entries performed, index of the first poisoned
entry plus one. -/
def batchLoop (k : CmdKey) : Nat → State → State
  | 0, s => s
  | fuel + 1, s =>
    match cmd? s k with
    | none => s
    | some c =>
      let n := c.fld 16 0 32
      let performed := c.aux.getD 0 0
      let bad := c.aux.getD 1 0
      if n ≤ c.done then
        endCmd k (if bad = 0 then stOk else stPoison) performed (if bad = 0 then 0xFFFFFFFF else bad - 1) s
      else
        let b := vread s c (c.va 24 + 64 * c.done) 64
        let va := field b 8 8
        match xlat s c.isle va 7 with
        | .inr st => endCmd k st performed c.done (faultEvent c.isle va st s)
        | .inl e =>
          match reachPage .load c.isle (va / pageSize) e true false s with
          | (.wait _, s) => s
          | (.fail st, s) => endCmd k st performed c.done s
          | (.at off, s) =>
            let x := off + va % pageSize
            let tracked := eCoherent e && (inTier .hbm (off / pageSize) || inTier .ddr (off / pageSize))
            let id := s.twin.nextItem
            match atomicAt (.cmd k) (through s c.isle va e) tracked (homeCluster x) (field b 0 1) x (field b 16 16) (field b 32 16) s with
            | (none, s) => s
            | (some (old, ok), s) =>
              let s := vput k c.isle (c.va 32 + 16 * c.done) (leBytes old 16) (awaitItems k id (touchPage (off / pageSize) 1 s))
              batchLoop k fuel (updCmd k (fun c =>
                { c with done := c.done + 1,
                         aux := [if ok then performed + 1 else performed, if ok || bad != 0 then bad else c.done + 1] }) s)

def execAtomicBatch (k : CmdKey) (s : State) : Host.Outcome State Fault Refusal :=
  run (withCmd k 0x0020 (fun c s =>
    if !batchFieldsOk c then badDesc k s
    else
      let n := c.fld 16 0 32
      match access k c.isle [⟨.load, false, c.va 24, 64 * n⟩, ⟨.load, true, c.va 32, 16 * n⟩] (startCmd k s) with
      | (.fail st, s) => endCmd k st 0 0 s
      | (.wait, s) => s
      | (.ok, s) =>
        let c := cmdNow s c
        if vstatus s c (c.va 24) (64 * n) != stOk then endCmd k (vstatus s c (c.va 24) (64 * n)) 0 0 s
        else
          match (if c.done = 0 then
              (List.range n).find? (fun i => entryStatus s c.isle (vread s c (c.va 24 + 64 * i) 64) != stOk) else none) with
          | some i => endCmd k (entryStatus s c.isle (vread s c (c.va 24 + 64 * i) 64)) 0 i s
          | none => batchLoop k (n + 1) s)) s

end Sys2Proof.Machine
end

