-- ==== Sys2Proof/Machine/Emb.lean ====
section
/-! DEFINITION. Embedding tables (chapter 11): gathers with their pooling, updates staged at the homes, step closes, skew counters,
and row migration by Ferry up to its commit notice. -/

namespace Sys2Proof.Machine

/-! ## Tables, slots and rows (R511–R515) -/

def table? (s : State) (tid : Nat) : Option Table := NMap.get? s.maps.cur.tables tid

/-- The slot that holds a row: the last one whose first row is not above it (R512). -/
def slotIndex (t : Table) (row : Nat) : Nat := (t.slots.takeWhile (fun x => x.first ≤ row)).length - 1

def slotAt (t : Table) (i : Nat) : Slot := t.slots.getD i { first := 0, pool := 0xFFF, va := 0 }

/-- Home of a row. -/
def rowHome (t : Table) (row : Nat) : Nat := (slotAt t (slotIndex t row)).pool

/-- Row pitch P (R513). -/
def rowPitch (t : Table) : Nat := ceilDiv (vecLen t.fmt t.width + (if t.opt = 2 then 4 else 0)) 64 * 64

/-- Bytes of a staged contribution record (R532). -/
def recordSize (t : Table) : Nat := ceilDiv (16 + 4 * t.width) 64 * 64

/-- Address of a row on its home (R513). -/
def rowVa (t : Table) (row : Nat) : Nat :=
  let x := slotAt t (slotIndex t row)
  x.va + (row - x.first) * rowPitch t

/-- The homes of a table, each at its first slot, in shard-map order. -/
def tableHomes (t : Table) : List (Nat × Nat) := homesInOrder (t.slots.map (·.pool))

/-- The status that keeps a range from being embedding pages with read and write (R514). -/
def typedRange (s : State) (isle va len ty : Nat) : Nat :=
  match (pagesOf va len).findSome? (fun p =>
    match xlat s isle (p * pageSize) 3 with
    | .inl e => if eType e = ty then none else some stPermission
    | .inr st => some st) with
  | some st => st
  | none => stOk

/-- Key of a table's home state: a partner's tables are kept apart. -/
def homeKey (isle tid : Nat) : Nat := if isle < twinIsle then tid else 65536 + tid

/-- A command's table, where its isle owns it; else the status that ends the command (a table of another isle is refused with
ST_PERMISSION, DEDUCED from R511 and R514; log 17). -/
def cmdTable (s : State) (c : Cmd) (tid : Nat) : Table ⊕ Nat :=
  match table? s tid with
  | none => .inr stBadDescriptor
  | some t => if t.isle = c.isle % twinIsle then .inl t else .inr stPermission

/-- An 8-byte address field of an argument block: [54:low] used, the rest reserved. -/
def argVaOk (c : Cmd) (byte low : Nat) : Bool := field c.arg byte 8 % 2 ^ low == 0 && field c.arg byte 8 < 2 ^ 55
def argVa (c : Cmd) (byte : Nat) : Nat := field c.arg byte 8

/-- Saturating 32-bit counters of a slot (R543): rows read and contributions staged. -/
def bumpSlot (key reads staged : Nat) (s : State) : State :=
  let v := NMap.getD s.emb.counters key (0, 0)
  let v' := (min (v.1 + reads) 0xFFFFFFFF, min (v.2 + staged) 0xFFFFFFFF)
  { s with emb := { s.emb with counters := NMap.set s.emb.counters key v' } }

/-! ## EMB_GATHER (R516–R524) -/

def gaTable (c : Cmd) : Nat := c.fld 32 0 16
def gaMode (c : Cmd) : Nat := c.fld 34 0 2
def gaIdx64 (c : Cmd) : Bool := bit (c.fld 34 0 8) 2
def gaBf16 (c : Cmd) : Bool := bit (c.fld 34 0 8) 3
def gaCount (c : Cmd) : Nat := c.fld 36 0 21
def gaBags (c : Cmd) : Nat := c.fld 40 0 21
def idxSize (b : Bool) : Nat := if b then 8 else 4

def gatherFieldsOk (c : Cmd) : Bool :=
  let m := gaMode c
  c.hasArg (· == 64) && !descScheduled c.desc && c.rz 34 4 4 && c.zero 35 35 && c.rz 36 21 11 && c.rz 40 21 11 && c.zero 44 63 &&
    1 ≤ gaCount c && gaCount c ≤ 1048576 && (if m = 0 then gaBags c == 0 else 1 ≤ gaBags c && gaBags c ≤ 1048576) &&
    argVaOk c 0 0 && argVa c 0 % idxSize (gaIdx64 c) == 0 && argVaOk c 8 2 && (m != 0 || argVa c 8 == 0) &&
    argVaOk c 16 2 && (m == 2 || argVa c 16 == 0) && argVaOk c 24 6 && zeros c.arg 32 32

/-- Numbers of `n` elements of `sz` bytes. -/
def numsOf (bs : List Byte) (sz n : Nat) : List Nat := (List.range n).map (fun i => field bs (i * sz) sz)

/-- Output vectors of a gather. -/
def gaOutputs (c : Cmd) : Nat := if gaMode c = 0 then gaCount c else gaBags c

/-- Output bytes: packed vectors (R522). -/
def gaOutLen (c : Cmd) (t : Table) : Nat := gaOutputs c * t.width * (if gaBf16 c then 2 else 4)

/-- The input ranges of a gather. -/
def gaInputs (c : Cmd) : List Span :=
  [⟨.load, false, argVa c 0, gaCount c * idxSize (gaIdx64 c)⟩] ++
    (if gaMode c = 0 then [] else [⟨.load, false, argVa c 8, 4 * (gaBags c + 1)⟩]) ++
    (if gaMode c = 2 then [⟨.load, false, argVa c 16, 4 * gaCount c⟩] else [])

def gaOutSpan (c : Cmd) (t : Table) : Span := ⟨.load, true, argVa c 24, gaOutLen c t⟩

/-- Whether offsets begin at 0, end at the index count and never fall (R517). -/
def offsetsOk (offs : List Nat) (n : Nat) : Bool :=
  offs.headD 1 == 0 && offs.getLastD 1 == n && (offs.zip (offs.drop 1)).all (fun p => p.1 ≤ p.2)

/-- The rows of a list below `rows`, each once, ascending. -/
def uniqueRows (rows : Nat) (idx : List Nat) : List Nat := (idx.filter (· < rows)).foldl (fun l r => insertNat r l) []

/-- A home reads rows for a gather: the encoded bytes of each, in the order asked (R523). -/
def homeGather (k : CmdKey) (isle tid : Nat) (rows : List Nat) (s : State) : Home × State :=
  match table? s tid with
  | none => (.st stBadDescriptor, s)
  | some t =>
    match rows.find? (fun r => !homeHere s isle (rowHome t r)) with
    | some r => (.done stReroute (rowHome t r) 0 0 noData, s)
    | none =>
      let n := vecLen t.fmt t.width
      match rows.find? (fun r => typedRange s isle (rowVa t r) n 2 != stOk) with
      | some r => (.st (typedRange s isle (rowVa t r) n 2), s)
      | none =>
        match access k isle (rows.map (fun r => ⟨.load, false, rowVa t r, n⟩)) s with
        | (.fail st, s) => (.st st, s)
        | (.wait, s) => (.wait, s)
        | (.ok, s) =>
          match cmd? s k with
          | none => (.wait, s)
          | some c =>
            let c := { c with isle := isle }
            match rows.find? (fun r => vstatus s c (rowVa t r) n != stOk) with
            | some r => (.st (vstatus s c (rowVa t r) n), s)
            | none =>
              let bs := rows.flatMap (fun r => vread s c (rowVa t r) n)
              (.done stOk 0 0 0 { words := [], bytes := bs },
               rows.foldl (fun s r => bumpSlot (homeKey isle tid * 4096 + slotIndex t r) 1 0 s) s)

/-- The FP32 vector of a bag (R520): the rows in bag order, weights and the mean's factor. -/
def poolBag (width mode : Nat) (rowOf : Nat → Option (List Nat)) (items : List (Nat × Nat)) : List Nat :=
  let r := items.foldl (fun (a : Nat × List Nat) p =>
    match rowOf p.1 with
    | none => a
    | some v => (a.1 + 1, List.zipWith fAdd a.2 (if mode = 2 then v.map (fMul p.2) else v))) (0, List.replicate width 0)
  if mode = 3 ∧ 0 < r.1 then let f := fRecip (ofInt32 r.1); r.2.map (fun x => fMul x f) else r.2

/-- The elements from place `a` up to place `b`. -/
def sliceOf {α : Type} (l : List α) (a b : Nat) : List α := (l.drop a).take (b - a)

/-- Every output vector of a gather (R520, R521). -/
def gatherOut (width mode : Nat) (rowOf : Nat → Option (List Nat)) (idx offs wts : List Nat) : List (List Nat) :=
  if mode = 0 then idx.map (fun r => (rowOf r).getD (List.replicate width 0))
  else
    let items := idx.zip (if mode = 2 then wts else idx.map (fun _ => 0))
    (offs.zip (offs.drop 1)).map (fun p => poolBag width mode rowOf (sliceOf items p.1 p.2))

/-- The rows that the homes answered: row with its decoded vector. -/
def gatheredRows (t : Table) (subs : List Sub) : List (Nat × List Nat) :=
  subs.flatMap (fun x =>
    let n := vecLen t.fmt t.width
    (subWords x.data).zip ((List.range (subWords x.data).length).map (fun i =>
      decodeVec t.fmt t.width ((x.answer.bytes.drop (i * n)).take n))))

/-- The output of a gather whose every home has answered. -/
def gatherFinish (k : CmdKey) (c : Cmd) (t : Table) (s : State) : State :=
  match access k c.isle [gaOutSpan c t] s with
  | (.fail st, s) => endFree k st s
  | (.wait, s) => s
  | (.ok, s) =>
    let ni := gaCount c
    let nb := if gaMode c = 0 then 0 else gaBags c + 1
    let idx := c.data.words.take ni
    let offs := (c.data.words.drop ni).take nb
    let wts := c.data.words.drop (ni + nb)
    let rows := gatheredRows t c.subs
    let out := gatherOut t.width (gaMode c) (fun r => (rows.find? (fun x => x.1 == r)).map (·.2)) idx offs wts
    let w := vwrite k c.isle (argVa c 24) (encodeVec (if gaBf16 c then 1 else 0) false 0 out.flatten) s
    if w.1 then endFree k stPoison w.2
    else endCmd k stOk (idx.filter (fun r => t.rows ≤ r)).length rows.length w.2

/-- Go on with a gather: its own share, then the output once every home has answered. -/
def gatherGo (k : CmdKey) (s : State) : State :=
  match cmd? s k with
  | none => s
  | some c0 =>
    let s := runLocal k (fun x s => homeGather k (spaceOf s x.peer c0.isle) (gaTable c0) (subWords x.data) s) s
    match cmd? s k with
    | none => s
    | some c =>
      if !allAnswered c then s
      else
        match firstFailing c, table? s (gaTable c) with
        | some x, _ => failLead k x s
        | none, some t => gatherFinish k c t s
        | none, none => endFree k stBadDescriptor s

/-- Dispatch of a gather at its lead (R517–R519). -/
def gatherStart (k : CmdKey) (c : Cmd) (s : State) : State :=
  if !gatherFieldsOk c then endCmd k stBadDescriptor 0 0 s
  else
    match cmdTable s c (gaTable c) with
    | .inr st => endCmd k st 0 0 s
    | .inl t =>
      match spansFault s c.isle (gaInputs c ++ [gaOutSpan c t]) with
      | some (va, st) => endCmd k st 0 0 (faultEvent c.isle va st s)
      | none =>
        match access k c.isle (gaInputs c) (startCmd k s) with
        | (.fail st, s) => endCmd k st 0 0 s
        | (.wait, s) => s
        | (.ok, s) =>
          let c := cmdNow s c
          match (gaInputs c).find? (fun r => vstatus s c r.va r.len != stOk) with
          | some r => endFree k (vstatus s c r.va r.len) s
          | none =>
            let sz := idxSize (gaIdx64 c)
            let idx := numsOf (vread s c (argVa c 0) (gaCount c * sz)) sz (gaCount c)
            let offs := if gaMode c = 0 then [] else numsOf (vread s c (argVa c 8) (4 * (gaBags c + 1))) 4 (gaBags c + 1)
            let wts := if gaMode c = 2 then numsOf (vread s c (argVa c 16) (4 * gaCount c)) 4 (gaCount c) else []
            if gaMode c ≠ 0 && !offsetsOk offs (gaCount c) then endCmd k stBadDescriptor 0 0 s
            else
              let rows := uniqueRows t.rows idx
              let dropped := (idx.filter (fun r => t.rows ≤ r)).length
              let subs := ((tableHomes t).filter (fun h => rows.any (fun r => rowHome t r == h.1))).map (fun h =>
                newSub h.2 h.1 c.desc { words := 0 :: 0 :: rows.filter (fun r => rowHome t r == h.1), bytes := [] })
              let d := NMap.getD s.emb.dropped c.isle 0 + dropped
              let s := { s with emb := { s.emb with dropped := NMap.set s.emb.dropped c.isle d } }
              let s := updCmd k (fun c => { c with aux := [1], pages := [], data := { words := idx ++ offs ++ wts, bytes := [] } }) s
              gatherGo k (startSubs k subs s)

def execEmbGather (k : CmdKey) (s : State) : Host.Outcome State Fault Refusal :=
  run (withCmd k 0x0100 (fun c s =>
    if c.lead.isSome then
      let r := homeGather k c.isle (gaTable c) (subWords c.data) (startCmd k s)
      endServed k r.1 r.2
    else if c.aux = [] then gatherStart k c s
    else gatherGo k s)) s

/-! ## EMB_UPDATE (R525–R533) -/

def upPerBag (c : Cmd) : Bool := bit (c.fld 34 0 8) 0
def upWeighted (c : Cmd) : Bool := bit (c.fld 34 0 8) 1
def upStep (c : Cmd) : BitVec 32 := BitVec.ofNat 32 (c.fld 44 0 32)
def upSeq (c : Cmd) : Nat := c.fld 48 0 32

def updateFieldsOk (c : Cmd) : Bool :=
  c.hasArg (· == 64) && !descScheduled c.desc && c.rz 34 4 4 && c.zero 35 35 && c.rz 36 21 11 && c.rz 40 21 11 && c.zero 52 63 &&
    (upPerBag c || !upWeighted c) && 1 ≤ gaCount c && gaCount c ≤ 1048576 &&
    (if upPerBag c then 1 ≤ gaBags c && gaBags c ≤ 1048576 else gaBags c == 0) &&
    argVaOk c 0 0 && argVa c 0 % idxSize (gaIdx64 c) == 0 && argVaOk c 8 2 && (upPerBag c || argVa c 8 == 0) &&
    argVaOk c 16 2 && (upWeighted c || argVa c 16 == 0) && argVaOk c 24 6 && zeros c.arg 32 32

/-- Gradient vectors of an update. -/
def upGrads (c : Cmd) : Nat := if upPerBag c then gaBags c else gaCount c
def upGradLen (c : Cmd) (t : Table) : Nat := upGrads c * t.width * (if gaBf16 c then 2 else 4)

def upInputs (c : Cmd) (t : Table) : List Span :=
  [⟨.load, false, argVa c 0, gaCount c * idxSize (gaIdx64 c)⟩] ++
    (if upPerBag c then [⟨.load, false, argVa c 8, 4 * (gaBags c + 1)⟩] else []) ++
    (if upWeighted c then [⟨.load, false, argVa c 16, 4 * gaCount c⟩] else []) ++
    [⟨.load, false, argVa c 24, upGradLen c t⟩]

/-- The bag of each position. -/
def bagOf (offs : List Nat) (p : Nat) : Nat := (offs.takeWhile (fun o => o ≤ p)).length - 1

/-- The share of an update that a home holds, reserved or staged. -/
def share? (s : State) (hk src useq : Nat) (step : BitVec 32) : Option Share :=
  s.emb.shares.find? (fun x => x.table == hk && x.src == src && x.useq == useq && x.step == step)

/-- Contributions a home holds or has reserved room for. -/
def stagingUsed (s : State) (hk : Nat) : Nat :=
  (s.emb.staged.filter (fun x => x.table == hk)).length +
    ((s.emb.shares.filter (fun x => x.table == hk && !x.staged)).map (·.count)).sum

/-- A home's answer to a reservation (R529, R536): count 1 says that it holds the share already. DEDUCED (log 94). -/
def homeReserve (isle tid src useq n : Nat) (step : BitVec 32) (s : State) : Home × State :=
  let hk := homeKey isle tid
  match table? s tid, NMap.get? s.emb.openStep hk with
  | none, _ => (.st stBadDescriptor, s)
  | some t, none => (.done stReroute ((tableHomes t).headD (0xFFF, 0)).1 0 0 noData, s)
  | some t, some o =>
    let closing := s.emb.closing.contains hk
    if closing && step == o + 1 then (.wait, s)
    else if closing || step != o then (.st stVersionConflict, s)
    else
      match share? s hk src useq step with
      | some x => (.done stOk 0 (if x.staged then 1 else 0) 0 noData, s)
      | none =>
        let st := typedRange s isle t.stagingVa t.stagingLen 2
        if st != stOk then (.st st, s)
        else if t.stagingLen / recordSize t < stagingUsed s hk + n then (.st stQuota, s)
        else
          let x : Share := { table := hk, step := step, src := src, useq := useq, count := n, staged := false }
          (.st stOk, { s with emb := { s.emb with shares := s.emb.shares ++ [x] } })

/-- A home drops a reservation it has not staged. -/
def homeRelease (isle tid src useq : Nat) (step : BitVec 32) (s : State) : Home × State :=
  let hk := homeKey isle tid
  (.st stOk, { s with emb := { s.emb with shares := s.emb.shares.filter (fun x =>
    x.staged || !(x.table == hk && x.src == src && x.useq == useq && x.step == step)) } })

/-- The record of a staged contribution (R532). -/
def stagedRecord (t : Table) (row src useq pos : Nat) (v : List Byte) : List Byte :=
  let b := leBytes (row + src * 2 ^ 40) 8 ++ leBytes useq 4 ++ leBytes pos 4 ++ v
  b ++ List.replicate (recordSize t - b.length) 0

/-- Pairs of a list of words. -/
def pairsOf : List Nat → List (Nat × Nat)
  | a :: b :: r => (a, b) :: pairsOf r
  | _ => []

/-- A home stages the whole share of an update (R530); a home that holds its share ignores it (R531). DEDUCED (log 94). -/
def homeStage (k : CmdKey) (isle tid src useq : Nat) (step : BitVec 32) (items : List (Nat × Nat)) (bs : List Byte) (s : State) :
    Home × State :=
  let hk := homeKey isle tid
  match table? s tid, share? s hk src useq step with
  | none, _ => (.st stBadDescriptor, s)
  | some _, none => (.st stVersionConflict, s)
  | some t, some x =>
    if x.staged then (.st stOk, s)
    else
      let base := (s.emb.staged.filter (fun x => x.table == hk)).length
      let rs := recordSize t
      match access k isle [⟨.load, true, t.stagingVa + base * rs, items.length * rs⟩] s with
      | (.fail st, s) => (.st st, s)
      | (.wait, s) => (.wait, s)
      | (.ok, s) =>
        let recs := (items.zip (List.range items.length)).flatMap (fun i =>
          stagedRecord t i.1.1 src useq i.1.2 ((bs.drop (i.2 * (4 * t.width))).take (4 * t.width)))
        let s := vput k isle (t.stagingVa + base * rs) recs s
        let new : List Staged := (items.zip (List.range items.length)).map (fun i =>
          { table := hk, index := base + i.2, row := i.1.1, src := src, useq := useq, pos := i.1.2 })
        let s := { s with emb := { s.emb with
          staged := s.emb.staged ++ new
          shares := s.emb.shares.map (fun y => if y = x then { y with staged := true } else y) } }
        (.done stOk 0 items.length 0 noData,
         items.foldl (fun s i => bumpSlot (hk * 4096 + slotIndex t i.1) 0 1 s) s)

/-- A home's share of an update by phase: 0 reserve, 1 stage, 2 release. -/
def homeUpdate (k : CmdKey) (isle src : Nat) (c : Cmd) (d : SubData) (s : State) : Home × State :=
  if subPhase d = 0 then homeReserve isle (gaTable c) src (upSeq c) ((subWords d).headD 0) (upStep c) s
  else if subPhase d = 1 then
    let items := pairsOf (subWords d)
    -- a forwarded share comes without its reservation, which the old home held
    let r := if subFlag d = 1 && (share? s (homeKey isle (gaTable c)) src (upSeq c) (upStep c)).isNone then
        homeReserve isle (gaTable c) src (upSeq c) items.length (upStep c) s
      else (.st stOk, s)
    match r.1 with
    | .done st _ _ _ _ => if st = stOk then homeStage k isle (gaTable c) src (upSeq c) (upStep c) items d.bytes r.2 else r
    | .wait => r
  else homeRelease isle (gaTable c) src (upSeq c) (upStep c) s

/-- Go on with an update: reservations, then the contributions; a refusal releases every reservation (R529). -/
def updateGo (k : CmdKey) : Nat → State → State
  | 0, s => s
  | fuel + 1, s =>
    match cmd? s k with
    | none => s
    | some c0 =>
      let s := runLocal k (fun x s => homeUpdate k (spaceOf s x.peer c0.isle) s.pool.id c0 x.data s) s
      match cmd? s k with
      | none => s
      | some c =>
        if !allAnswered c then s
        else
          match firstFailing c with
          | some x =>
            if c.aux.headD 0 = 1 then
              let held := (c.subs.filter (fun y => y.status == some stOk && y.counts.1 == 0)).map (fun y =>
                newSub y.shard y.peer c.desc { words := [0, 2], bytes := [] })
              failLead k x (runLocal k (fun y s => homeUpdate k (spaceOf s y.peer c.isle) s.pool.id c y.data s) (startSubs k held s))
            else failLead k x s
          | none =>
            if c.aux.headD 0 = 1 then
              -- the contributions kept since dispatch: words (home, row, position), bytes one FP32 vector each
              let all := (c.data.words.drop 2)
              let n := all.length / 3
              let w := c.data.bytes.length / max n 1
              let it := (List.range n).map (fun i => (all.getD (3 * i) 0, all.getD (3 * i + 1) 0, all.getD (3 * i + 2) 0, i))
              let subs := c.subs.map (fun x =>
                let mine := it.filter (fun i => i.1 == x.peer)
                newSub x.shard x.peer c.desc
                  { words := 0 :: 1 :: mine.flatMap (fun i => [i.2.1, i.2.2.1])
                    bytes := mine.flatMap (fun i => (c.data.bytes.drop (i.2.2.2 * w)).take w) })
              updateGo k fuel (startSubs k subs (updCmd k (fun c => { c with aux := 2 :: c.aux.drop 1 }) s))
            else endCmd k stOk ((c.subs.map (fun x => x.counts.1)).sum) (c.aux.getD 1 0) s

/-- Dispatch of an update at its lead. -/
def updateStart (k : CmdKey) (c : Cmd) (s : State) : State :=
  if !updateFieldsOk c then badDesc k s
  else
    match cmdTable s c (gaTable c) with
    | .inr st => endFree k st s
    | .inl t =>
      if t.opt = 3 then endFree k stPermission s
      else
        whenReady c (upInputs c t) (fun s =>
          let c := cmdNow s c
          match (upInputs c t).find? (fun r => vstatus s c r.va r.len != stOk) with
          | some r => endFree k (vstatus s c r.va r.len) s
          | none =>
            let sz := idxSize (gaIdx64 c)
            let idx := numsOf (vread s c (argVa c 0) (gaCount c * sz)) sz (gaCount c)
            let offs := if upPerBag c then numsOf (vread s c (argVa c 8) (4 * (gaBags c + 1))) 4 (gaBags c + 1) else []
            if upPerBag c && !offsetsOk offs (gaCount c) then badDesc k s
            else
              let gsz := t.width * (if gaBf16 c then 2 else 4)
              let gb := vread s c (argVa c 24) (upGradLen c t)
              let grad := fun g => decodeVec (if gaBf16 c then 1 else 0) t.width ((gb.drop (g * gsz)).take gsz)
              let vec := fun (p : Nat) =>
                let g := grad (if upPerBag c then bagOf offs p else p)
                if upWeighted c then g.map (fMul (vnat s c (argVa c 16 + 4 * p) 4)) else g
              let kept := ((idx.zip (List.range idx.length)).filter (fun x => x.1 < t.rows))
              let words := kept.flatMap (fun x => [rowHome t x.1, x.1, x.2])
              let bytes := kept.flatMap (fun x => encodeVec 0 false 0 (vec x.2))
              let subs := (tableHomes t).map (fun h => newSub h.2 h.1 c.desc
                { words := [0, 0, (kept.filter (fun x => rowHome t x.1 == h.1)).length], bytes := [] })
              updateGo k 3 (startSubs k subs (updCmd k (fun c =>
                { c with aux := [1, idx.length - kept.length], pages := [], data := { words := 0 :: 0 :: words, bytes := bytes } }) s))) s

/-- The pool id whose update or close this is: the lead of a sub-command, or this device. -/
def leadOf (s : State) (c : Cmd) : Nat := match c.lead with | some h => h.src | none => s.pool.id

def execEmbUpdate (k : CmdKey) (s : State) : Host.Outcome State Fault Refusal :=
  run (withCmd k 0x0101 (fun c s =>
    if c.lead.isSome then
      let r := homeUpdate k c.isle (leadOf s c) c c.data (startCmd k s)
      endServed k r.1 r.2
    else if c.aux = [] then updateStart k c s
    else updateGo k 3 s)) s

/-! ## Row migration (R545–R554) -/

def mgTable (c : Cmd) : Nat := c.fld 16 0 16
def mgSlot (c : Cmd) : Nat := c.fld 18 0 12
def mgPool (c : Cmd) : Nat := c.fld 20 0 12
def mgVa (c : Cmd) : Nat := c.va 24

/-- Rows of a slot: first and number. -/
def slotRows (t : Table) (i : Nat) : Nat × Nat :=
  let f := (slotAt t i).first
  (f, (match t.slots[i + 1]? with | some x => x.first | none => t.rows) - f)

def updMigration (f : Migration → Migration) (s : State) : State :=
  { s with emb := { s.emb with migration := s.emb.migration.map f } }

/-- A migration that has not committed ends: the rows at the old home stay authoritative (R554). -/
def rollBack (status : Nat) (s : State) : State :=
  match s.emb.migration with
  | none => s
  | some m =>
    let s := { s with emb := { s.emb with migration := none } }
    endFree m.cmd status (raise (event evMigrationRolledBack 0 m.table (m.slot + m.pool * 4096) status) s)

/-- The bytes of rows of a slot at this home, row by row. -/
def rowsOf (s : State) (c : Cmd) (t : Table) (rows : List Nat) : List Byte :=
  rows.flatMap (fun r => vread s { c with isle := t.isle } (rowVa t r) (rowPitch t))

/-- Send rows to the new home as sub-commands of phase `ph`, at most 1,023 KiB of rows each (R622). -/
def sendRows (ph : Nat) (m : Migration) (t : Table) (rows : List Nat) (s : State) : Got × State :=
  match cmd? s m.cmd with
  | none => (.ok, s)
  | some c =>
    let pitch := rowPitch t
    match access m.cmd t.isle (rows.map (fun r => ⟨.load, false, rowVa t r, pitch⟩)) s with
    | (.ok, s) =>
      let c' := { cmdNow s c with isle := t.isle }
      match rows.find? (fun r => vstatus s c' (rowVa t r) pitch != stOk) with
      | some r => (.fail (vstatus s c' (rowVa t r) pitch), s)
      | none =>
        let per := max 1 (1023 * 1024 / pitch)
        let subs := (chunks per rows (rows.length + 1)).map (fun g =>
          newSub 0 m.pool c.desc { words := 0 :: ph :: g, bytes := rowsOf s c' t g })
        (.ok, startSubs m.cmd subs s)
    | r => r

/-- The commit notice of a migration (R550), with the step that its close closed. -/
def commitWords (s : State) (m : Migration) : List Nat :=
  [m.table, m.slot, m.pool, m.va, (s.maps.cur.epoch + 1).toNat, m.step.toNat]

/-- The log has been copied again: the commit notice goes to the new home. -/
def sendCommit (s : State) : State :=
  match s.emb.migration with
  | some m =>
    sendManage m.pool .commitNotice (commitWords s m) (updMigration (fun m => { m with phase := 4 }) s)
  | none => s

/-- Ferry starts to copy a slot's rows, once hold_epochs tiering epochs have passed since the last reset (R548, R549). -/
def ferryStart (s : State) : State :=
  match s.emb.migration with
  | none => s
  | some m =>
    if m.phase ≠ 0 ∨ s.emb.epochs < s.emb.holdEpochs then s
    else
      match table? s m.table with
      | none => rollBack stBadDescriptor s
      | some t =>
        let sr := slotRows t m.slot
        match sendRows 1 m t ((List.range sr.2).map (fun i => sr.1 + i)) s with
        | (.fail st, s) => rollBack st s
        | (.wait, s) => s
        | (.ok, s) => updMigration (fun m => { m with phase := 1, cursor := sr.2 }) s

/-- A close wrote rows of a table here: those of a slot that Ferry has copied are logged (R549). Past 1,048,576 rows the slot is
copied again from its first row. -/
def logRows (tid : Nat) (t : Table) (rows : List Nat) (s : State) : State :=
  match s.emb.migration with
  | none => s
  | some m =>
    if m.table ≠ tid ∨ m.phase = 0 ∨ 3 ≤ m.phase then s
    else
      let mine := rows.filter (fun r => slotIndex t r == m.slot)
      let log := mine.foldl (fun l r => insertNat r l) m.log
      if 1048576 < log.length then ferryStart (updMigration (fun m => { m with phase := 0, cursor := 0, log := [] }) s)
      else updMigration (fun m => { m with log := log }) s

/-- The first close that ends after the copy commits the migration (R550). -/
def commitClose (tid : Nat) (step : BitVec 32) (t : Table) (s : State) : State :=
  match s.emb.migration with
  | none => s
  | some m =>
    if m.table ≠ tid ∨ m.phase ≠ 2 then s
    else
      let s := updMigration (fun m => { m with phase := 3, step := step, again := m.log.length }) s
      if m.log = [] then sendCommit s
      else
        match sendRows 1 m t m.log s with
        | (.fail st, s) => rollBack st s
        | (_, s) => s

/-! ## EMB_STEP_CLOSE (R534–R542) -/

def clTable (c : Cmd) : Nat := c.fld 16 0 16
def clStep (c : Cmd) : BitVec 32 := BitVec.ofNat 32 (c.fld 20 0 32)
def clLr (c : Cmd) : Nat := c.fld 24 0 32

def closeFieldsOk (c : Cmd) : Bool := !descArgBlock c.desc && !descScheduled c.desc && c.zero 18 19 && c.zero 28 63

/-- The closes applied here whose lead is reset, or this device with them: a lead that closes such a step again hears that it is closed
(R535, R541; log 43). -/
def interruptCloses (lead : Nat → Bool) (s : State) : State :=
  let l := (s.emb.lastClose.filter (fun x => lead x.2.2.1 && NMap.get? s.emb.openStep x.1 == some (x.2.1 + 1))).map (fun x => (x.1, x.2.1))
  { s with emb := { s.emb with interrupted := s.emb.interrupted ++ l.filter (fun x => !s.emb.interrupted.contains x) } }

/-- A home's answer to a prepare (R535): its open step, and 1 where it has closed this step in a close that a reset interrupted. -/
def homePrepare (isle tid : Nat) (step : BitVec 32) (s : State) : Home × State :=
  let hk := homeKey isle tid
  match NMap.get? s.emb.openStep hk with
  | none => (.st stBadDescriptor, s)
  | some o =>
    if o = step then
      let s := { s with emb := { s.emb with closing := insertNat hk s.emb.closing } }
      if s.emb.shares.any (fun x => x.table == hk && !x.staged) then (.wait, s) else (.done stOk 0 o.toNat 0 noData, s)
    else if o = step + 1 && s.emb.interrupted.contains (hk, step) then (.done stOk 0 o.toNat 1 noData, s)
    else (.done stOk 0 o.toNat 0 noData, s)

/-- A home reopens its step. -/
def homeReopen (isle tid : Nat) (step : BitVec 32) (s : State) : Home × State :=
  let hk := homeKey isle tid
  if NMap.get? s.emb.openStep hk = some step then
    (.st stOk, { s with emb := { s.emb with closing := s.emb.closing.filter (· != hk) } })
  else (.st stOk, s)

/-- Order of contributions: row, source pool id, update_seq, position (R527, R537). -/
def keyBefore (a b : Staged) : Bool :=
  a.row < b.row || (a.row == b.row && (a.src < b.src || (a.src == b.src && (a.useq < b.useq || (a.useq == b.useq && a.pos < b.pos)))))

def insertStaged (x : Staged) : List Staged → List Staged
  | [] => [x]
  | y :: r => if keyBefore x y then x :: y :: r else y :: insertStaged x r

def sortStaged (l : List Staged) : List Staged := l.foldl (fun a x => insertStaged x a) []

/-- The new row of an optimizer and its accumulator (R538). -/
def newRow (t : Table) (lr acc : Nat) (w g : List Nat) : List Nat × Nat :=
  if t.opt = 0 then (List.zipWith fAdd w g, acc)
  else if t.opt = 1 then (List.zipWith (fun x y => fSub x (fMul lr y)) w g, acc)
  else
    let m := fMul (treeSum (g.map (fun x => fMul x x))) (fRecip (ofInt32 t.width))
    let acc' := fAdd acc m
    let k := fMul lr (fRsqrt (fAdd acc' t.eps))
    (List.zipWith (fun x y => fSub x (fMul k y)) w g, acc')

/-- The bytes of a new row at its pitch (R513, R539). -/
def rowImage (t : Table) (step : BitVec 32) (row : Nat) (w : List Nat) (acc : Nat) : List Byte :=
  let enc :=
    if t.fmt = 1 ∧ t.sr then (w.zip (List.range w.length)).flatMap (fun v => leBytes (srBf16 t.srSeed step.toNat row v.2 v.1) 2)
    else encodeVec t.fmt t.sat 0 w
  let tail := if t.opt = 2 then leBytes acc 4 else []
  enc ++ List.replicate (rowPitch t - enc.length - tail.length) 0 ++ tail

/-- Apply every staged contribution of a table here (R537–R540): rows written, contributions applied. -/
def applyStaged (k : CmdKey) (c : Cmd) (isle : Nat) (t : Table) (step : BitVec 32) (lr : Nat) (l : List Staged) (s : State) : Nat × State :=
  let c := { c with isle := isle }
  let rows := (l.map (·.row)).eraseDups
  (rows.length, rows.foldl (fun s r =>
    let mine := l.filter (fun x => x.row == r)
    let g := mine.foldl (fun g x =>
      List.zipWith fAdd g (decodeVec 0 t.width (vread s c (t.stagingVa + x.index * recordSize t + 16) (4 * t.width))))
      (List.replicate t.width 0)
    let old := vread s c (rowVa t r) (rowPitch t)
    let new := newRow t lr (field old (rowPitch t - 4) 4) (decodeVec t.fmt t.width old) g
    let image := rowImage t step r new.1 new.2
    let s := vput k isle (t.stagingVa + (mine.head?.map (·.index)).getD 0 * recordSize t) image s
    vput k isle (rowVa t r) image s) s)

/-- A home applies a close (R540): all its rows in one step, then its open step advances; a migration that the close commits is
waited for (R550). -/
def homeApply (k : CmdKey) (isle tid lr lead : Nat) (step : BitVec 32) (s : State) : Home × State :=
  let hk := homeKey isle tid
  match table? s tid, NMap.get? s.emb.openStep hk with
  | some t, some o =>
    if o = step + 1 then
      match NMap.get? s.emb.lastClose hk with
      | some (st, _, rows, applied) =>
        if st = step then
          if s.emb.migration.any (fun m => m.table == tid && 3 ≤ m.phase && m.step == step) then (.wait, s)
          else (.done stOk 0 rows applied noData, s)
        else (.st stVersionConflict, s)
      | none => (.st stVersionConflict, s)
    else if o ≠ step ∨ !s.emb.closing.contains hk then (.st stVersionConflict, s)
    else
      let l := sortStaged (s.emb.staged.filter (fun x => x.table == hk))
      let rows := (l.map (·.row)).eraseDups
      let reopen := fun (st hint : Nat) (s : State) => (Home.done st hint 0 0 noData, (homeReopen isle tid step s).2)
      match rows.find? (fun r => !homeHere s isle (rowHome t r)) with
      | some r => reopen stReroute (rowHome t r) s
      | none =>
        match rows.find? (fun r => typedRange s isle (rowVa t r) (rowPitch t) 2 != stOk) with
        | some r => reopen (typedRange s isle (rowVa t r) (rowPitch t) 2) 0 s
        | none =>
          let spans := rows.flatMap (fun r => [⟨.load, false, rowVa t r, rowPitch t⟩, ⟨.load, true, rowVa t r, rowPitch t⟩]) ++
            l.flatMap (fun x => [⟨.load, false, t.stagingVa + x.index * recordSize t, recordSize t⟩,
                                 ⟨.load, true, t.stagingVa + x.index * recordSize t, recordSize t⟩])
          match access k isle spans s with
          | (.fail st, s) => reopen st 0 s
          | (.wait, s) => (.wait, s)
          | (.ok, s) =>
            match cmd? s k with
            | none => (.wait, s)
            | some c =>
              match spans.find? (fun r => vstatus s { c with isle := isle } r.va r.len != stOk) with
              | some r => reopen (vstatus s { c with isle := isle } r.va r.len) 0 s
              | none =>
                let r := applyStaged k c isle t step lr l s
                let s := { r.2 with emb := { r.2.emb with
                  staged := r.2.emb.staged.filter (fun x => x.table != hk)
                  shares := r.2.emb.shares.filter (fun x => x.table != hk)
                  openStep := NMap.set r.2.emb.openStep hk (step + 1)
                  closing := r.2.emb.closing.filter (· != hk)
                  interrupted := r.2.emb.interrupted.filter (fun x => x.1 != hk)
                  lastClose := NMap.set r.2.emb.lastClose hk (step, lead, r.1, l.length) } }
                let s := updCmd k (fun c => { c with fwd := [] }) s
                let s := if isle < twinIsle then commitClose tid step t (logRows tid t rows s) else s
                if s.emb.migration.any (fun m => m.table == tid && 3 ≤ m.phase && m.step == step) then (.wait, s)
                else (.done stOk 0 r.1 l.length noData, s)
  | _, _ => (.st stBadDescriptor, s)

/-- A home's share of a close by phase: 0 prepare, 1 apply, 2 reopen. -/
def homeClose (k : CmdKey) (isle lead : Nat) (c : Cmd) (d : SubData) (s : State) : Home × State :=
  if subPhase d = 0 then homePrepare isle (clTable c) (clStep c) s
  else if subPhase d = 1 then homeApply k isle (clTable c) (clLr c) lead (clStep c) s
  else homeReopen isle (clTable c) (clStep c) s

/-- The shares of a close's phase, for the homes of the table as read at dispatch. -/
def closeSubs (c : Cmd) (homes : List (Nat × Nat)) (ph : Nat) : List Sub :=
  homes.map (fun h => newSub h.2 h.1 c.desc { words := [0, ph], bytes := [] })

/-- The homes of a close under way. -/
def closeHomes (c : Cmd) : List (Nat × Nat) := c.subs.map (fun x => (x.peer, x.shard))

/-- Go on with a close: prepare, then apply; a failure reopens every home (R535). -/
def closeGo (k : CmdKey) : Nat → State → State
  | 0, s => s
  | fuel + 1, s =>
    match cmd? s k with
    | none => s
    | some c0 =>
      let local' := runLocal k (fun x s => homeClose k (spaceOf s x.peer c0.isle) s.pool.id c0 x.data s)
      let s := local' s
      match cmd? s k with
      | none => s
      | some c =>
        if !allAnswered c then s
        else
          let reopen := fun (s : State) => local' (startSubs k (closeSubs c (closeHomes c) 2) s)
          if c.aux.headD 0 = 1 then
            match firstFailing c, c.subs.find? (fun x => x.counts.1 != (clStep c).toNat && x.counts.2 == 0) with
            | some x, _ => failLead k x (reopen s)
            | none, some x => endCmd k stVersionConflict x.counts.1 (Config.freeWord s.free).toNat (reopen (nextFree s))
            | none, none =>
              let todo := (closeSubs c (closeHomes c) 1).zip c.subs |>.filter (fun x => x.2.counts.2 == 0) |>.map (·.1)
              closeGo k fuel (startSubs k todo (updCmd k (fun c => { c with aux := [2] }) s))
          else
            match firstFailing c with
            | some x => failLead k x s
            | none => endCmd k stOk ((c.subs.map (fun x => x.counts.1)).sum) ((c.subs.map (fun x => x.counts.2)).sum) s

def closeStart (k : CmdKey) (c : Cmd) (s : State) : State :=
  if !closeFieldsOk c then badDesc k s
  else
    match cmdTable s c (clTable c) with
    | .inr st => endFree k st s
    | .inl t =>
      if (t.opt = 0 ∨ t.opt = 3) ∧ clLr c ≠ 0 then badDesc k s
      else closeGo k 3 (startSubs k (closeSubs c (tableHomes t) 0) (updCmd k (fun c => { c with aux := [1] }) (startCmd k s)))

def execEmbStepClose (k : CmdKey) (s : State) : Host.Outcome State Fault Refusal :=
  run (withCmd k 0x0102 (fun c s =>
    if c.lead.isSome then
      let r := homeClose k c.isle (leadOf s c) c c.data (startCmd k s)
      endServed k r.1 r.2
    else if c.aux = [] then closeStart k c s
    else closeGo k 3 s)) s

/-! ## EMB_STATS (R543, R544) -/

def statsFieldsOk (c : Cmd) : Bool :=
  !descArgBlock c.desc && !descScheduled c.desc && c.rz 18 1 7 && c.zero 19 23 && c.rz 24 0 6 && c.rz 24 55 9 && c.zero 32 63

/-- The slots of a table that this device holds. -/
def slotsHeld (s : State) (t : Table) : List Nat := (List.range t.slots.length).filter (fun i => (slotAt t i).pool == s.pool.id)

/-- The record of EMB_STATS. -/
def statsRecord (s : State) (isle tid : Nat) (t : Table) : List Byte :=
  let held := slotsHeld s t
  let step := if held = [] then 0 else ((NMap.get? s.emb.openStep tid).getD 0).toNat
  leBytes (NMap.getD s.emb.dropped isle 0) 8 ++ leBytes tid 2 ++ leBytes held.length 2 ++ leBytes step 4 ++ List.replicate 48 0 ++
    (List.range 4096).flatMap (fun i =>
      let v := if held.contains i then NMap.getD s.emb.counters (tid * 4096 + i) (0, 0) else (0, 0)
      leBytes v.1 4 ++ leBytes v.2 4)

def execEmbStats (k : CmdKey) (s : State) : Host.Outcome State Fault Refusal :=
  run (withCmd k 0x0103 (fun c s =>
    if !statsFieldsOk c then badDesc k s
    else
      let tid := c.fld 16 0 16
      match cmdTable s c tid with
      | .inr st => endFree k st s
      | .inl t =>
        whenReady c [⟨.load, true, c.va 24, 32832⟩] (fun s =>
          let held := slotsHeld s t
          let step := if held = [] then 0 else ((NMap.get? s.emb.openStep tid).getD 0).toNat
          let s := vput k c.isle (c.va 24) (statsRecord s c.isle tid t) s
          let s :=
            if bit (c.fld 18 0 8) 0 then
              { s with emb := { s.emb with
                counters := s.emb.counters.filter (fun e => e.1 / 4096 != tid)
                dropped := NMap.del s.emb.dropped c.isle } }
            else s
          endCmd k stOk held.length step s) s)) s

/-! ## ROW_MIGRATE (R545–R549) -/

def migrateFieldsOk (c : Cmd) : Bool :=
  !descArgBlock c.desc && c.rz 18 12 4 && c.rz 20 12 4 && c.zero 22 23 && c.rz 24 0 6 && c.rz 24 55 9 && c.zero 32 63

/-- The new home's share: phase 0 checks R514 for the slot's rows and the staging area; phase 1 writes rows (R546, R549). -/
def homeMigrate (k : CmdKey) (c : Cmd) (d : SubData) (s : State) : Home × State :=
  match table? s (mgTable c) with
  | none => (.st stBadDescriptor, s)
  | some t =>
    let sr := slotRows t (mgSlot c)
    let pitch := rowPitch t
    if subPhase d = 0 then
      let a := typedRange s t.isle (mgVa c) (sr.2 * pitch) 2
      if a != stOk then (.st a, s) else (.st (typedRange s t.isle t.stagingVa t.stagingLen 2), s)
    else
      let rows := subWords d
      match access k t.isle (rows.map (fun r => ⟨.load, true, mgVa c + (r - sr.1) * pitch, pitch⟩)) s with
      | (.fail st, s) => (.st st, s)
      | (.wait, s) => (.wait, s)
      | (.ok, s) =>
        (.st stOk, (rows.zip (List.range rows.length)).foldl (fun s r =>
          vput k t.isle (mgVa c + (r.1 - sr.1) * pitch) ((d.bytes.drop (r.2 * pitch)).take pitch) s) s)

/-- Go on with a migration: the new home's check, the copy, the log copied again. -/
def migrateGo (k : CmdKey) (s : State) : State :=
  match cmd? s k with
  | none => s
  | some c =>
    if !allAnswered c then s
    else
      match s.emb.migration with
      | none =>
        match firstFailing c with
        | some x => failLead k x s
        | none =>
          let m : Migration :=
            { cmd := k, table := mgTable c, slot := mgSlot c, pool := mgPool c, va := mgVa c, phase := 0, cursor := 0, log := [],
              again := 0, step := 0 }
          ferryStart { s with emb := { s.emb with migration := some m } }
      | some m =>
        if m.cmd ≠ k then s
        else
          match firstFailing c with
          | some x => rollBack (x.status.getD stOk) s
          | none => if m.phase = 0 then ferryStart s else if m.phase = 3 then sendCommit s else s

def execRowMigrate (k : CmdKey) (s : State) : Host.Outcome State Fault Refusal :=
  run (withCmd k 0x0F20 (fun c s =>
    if c.lead.isSome then
      let r := homeMigrate k c c.data (startCmd k s)
      endServed k r.1 r.2
    else if c.aux ≠ [] then migrateGo k s
    else if !migrateFieldsOk c then badDesc k s
    else if !onManagement s k then endFree k stPermission s
    else
      match table? s (mgTable c) with
      | none => badDesc k s
      | some t =>
        if t.slots.length ≤ mgSlot c then badDesc k s
        else
          let home := (slotAt t (mgSlot c)).pool
          if home ≠ s.pool.id then
            endCmd64 k stReroute ((Config.freeWord s.free).toNat / 4096 * 4096 + home) (nextFree s)
          else if mgPool c = home || !s.pool.members.contains (mgPool c) ||
              s.emb.migration.any (fun m => m.table == mgTable c && m.slot == mgSlot c) then badDesc k s
          else if s.emb.migration.isSome then endFree k stQuota s
          else
            migrateGo k (startSubs k [newSub 0 (mgPool c) c.desc { words := [0, 0], bytes := [] }]
              (updCmd k (fun c => { c with aux := [1] }) (startCmd k s))))) s

/-- hold_epochs tiering epochs have passed since the last reset, and Ferry starts copying. -/
def execFerryHoldEnd (s : State) : Host.Outcome State Fault Refusal := run ferryStart s

/-- Ferry has copied every row of the slot it moves: the migration waits for the table's next close (R549, R550). -/
def execFerryCopyDone (table slot rows : Nat) (s : State) : Host.Outcome State Fault Refusal :=
  run (fun s =>
    match s.emb.migration with
    | none => s
    | some m =>
      match cmd? s m.cmd with
      | none => s
      | some c =>
        if m.phase = 1 ∧ m.table = table ∧ m.slot = slot ∧ m.cursor = rows ∧ allAnswered c then
          match firstFailing c with
          | some x => rollBack (x.status.getD stOk) s
          | none => updMigration (fun m => { m with phase := 2 }) s
        else s) s

end Sys2Proof.Machine
end

