-- ==== Sys2Proof/Machine/Requests.lean ====
section
/-! DEFINITION. Data requests of Strait and of the BAR2 apertures (chapters 02, 03, 05, 13): ingress, binding, windows, service,
waiting and answering; the answers of snooped agents. -/

namespace Sys2Proof.Machine

/-! ## The kinds -/

/-- The requests of an agent that caches (R60, R125). -/
def ReqKind.caching : ReqKind → Bool
  | .rdShared | .rdOwn | .upgrade | .dirty | .wrBack => true
  | _ => false

/-- The requests that store: their order matters to a release (R190). -/
def ReqKind.writes : ReqKind → Bool
  | .wrBack | .wrLine | .wrPartial | .atomic | .wrRun | .bar2Write => true
  | _ => false

/-- The rights a request needs (R823): read 1, write 2, atomic 4. -/
def ReqKind.need : ReqKind → Nat
  | .rdShared | .rdUncached | .rdRun | .bar2Read => 1
  | .rdOwn | .upgrade => 3
  | .wrLine | .wrPartial | .wrRun | .bar2Write => 2
  | .atomic => 7
  | .dirty | .wrBack => 0

/-- Whether the sync code is permitted for the kind (R617): release codes on writes, acquire codes on uncached reads. -/
def syncOk (k : ReqKind) (sync : Nat) : Bool :=
  sync == 0 || (match k with
    | .wrLine | .wrRun | .wrPartial => sync ≤ 3
    | .rdUncached | .rdRun => 4 ≤ sync && sync ≤ 6
    | _ => false)

/-- Window offset of a request's first byte (R121): a run keeps its burst count in bits [7:0]. -/
def Req.off (r : Req) : Nat :=
  let o := bits r.hdr.addr.toNat 0 40
  match r.kind with
  | .rdRun | .wrRun => o / 256 * 256
  | _ => o

/-- Bytes a request covers. -/
def Req.size (r : Req) : Nat :=
  match r.kind with
  | .rdRun | .wrRun => 256 * (bits r.hdr.addr.toNat 0 8 + 1)
  | .atomic => atomicSize r.op
  | .bar2Read => r.len
  | .bar2Write => r.bytes.length
  | _ => 64

/-- Whether a request carries a reserved field or encoding, or a run breaks its limits (R620, R825). -/
def Req.malformed (r : Req) : Bool :=
  r.hdr.rsv || !syncOk r.kind r.hdr.sync ||
    (match r.kind with
     | .atomic => atomicSize r.op == 0 || r.off % atomicSize r.op != 0 || !atomicOperandsOk r.op r.a.toNat r.c.toNat
     | .rdRun => 65536 < r.off % 65536 + r.size
     | .wrRun => 65536 < r.off % 65536 + r.size || r.lines.length != r.size / 64
     | .bar2Read | .bar2Write => false
     | _ => r.off % 64 != 0)

/-- The remote address of line `i` of a request (R121). -/
def Req.lineAddr (r : Req) (i : Nat) : BitVec 64 :=
  BitVec.ofNat 64 (bits r.hdr.addr.toNat 40 24 * 2 ^ 40 + r.off / 64 * 64 + 64 * i)

/-- Whether a carried line fails its check (R666). -/
def Req.mismatch (r : Req) : Bool :=
  (r.lines.zip (List.range r.lines.length)).any (fun x => wireCheck (r.lineAddr x.2) x.1.data != x.1.check)

/-! ## Answers (R618, R619) -/

/-- Message codes of R618: class in bits [7:5], op in bits [4:0]. -/
abbrev opStatus : Nat := 0x40
abbrev opGrant : Nat := 0x41
abbrev opRetry : Nat := 0x42
abbrev opWatched : Nat := 0x43
abbrev opProgress : Nat := 0x45
abbrev opAtomicResult : Nat := 0x46
abbrev opGrantData : Nat := 0x61
abbrev opReadData : Nat := 0x62
abbrev opRunCont : Nat := 0x63

/-- The mark of an answer WATCHED in the place of a grant. -/
abbrev grantWatched : Nat := 8

/-- Send a response or data message to the requester. -/
def sendMsg (h : Hdr) (op status grant detail : Nat) (lines : List WireLine) (words : List Nat) (s : State) : State :=
  emitReply h (fun p => .message p h.src h.stream h.tag op status grant detail lines words) s

/-- A STATUS response: the hint of ST_REROUTE and the epoch of ST_STALE_EPOCH go in its detail (R619). -/
def sendStatus (h : Hdr) (status detail : Nat) (s : State) : State := sendMsg h opStatus status 0 detail [] [] s

/-- A line as an answer carries it: a poisoned one has zero data and the inverse of their check (R670). -/
def wireLine (r : Req) (i : Nat) (l : Line) (bad : Bool) : WireLine :=
  if bad then { data := 0, check := ~~~ (wireCheck (r.lineAddr i) 0) } else { data := l, check := wireCheck (r.lineAddr i) l }

def wireLines (r : Req) (first : Nat) (l : List (Line × Bool)) : List WireLine :=
  (l.zip (List.range l.length)).map (fun x => wireLine r (first + x.2) x.1.1 x.1.2)

/-- What a BAR2 access ends with: data cut out of its lines, Unsupported Request, or poisoned data (R70, R71). A failed write is
dropped and counted. -/
def answerBar2 (r : Req) (fn status : Nat) (lines : List (Line × Bool)) (s : State) : State :=
  if r.kind = .bar2Read then
    emit (.bar2 fn (if status = stOk then .data (((lines.flatMap (fun l => leBytes l.1.toNat 64)).drop (r.va % 64)).take r.len)
      else if status = stPoison ∨ status = stDataLost then .poisoned else .refused)) s
  else if status = stOk ∨ status = stPoison ∨ status = stDataLost then s
  else updFn fn (fun f => { f with dropped := f.dropped + 1 }) s

/-- Answer a request (R210, R618, R619): DIRTY has no response. DEDUCED (log 67). -/
def deliver (r : Req) (status : Nat) (lines : List (Line × Bool)) (grant : Nat) (prior : BitVec 128) (s : State) : State :=
  match r.origin with
  | .bar2 fn => answerBar2 r fn status lines s
  | .strait =>
    match r.kind with
    | .dirty => s
    | .rdShared | .rdOwn | .upgrade =>
      if grant = grantWatched then sendMsg r.hdr opWatched status 0 0 [] [] s
      else if lines ≠ [] then sendMsg r.hdr opGrantData status grant 0 (wireLines r 0 lines) [] s
      else if grant ≠ 0 then sendMsg r.hdr opGrant status grant 0 [] [] s
      else sendStatus r.hdr status 0 s
    | .rdUncached | .rdRun =>
      if lines ≠ [] then sendMsg r.hdr opReadData status 0 0 (wireLines r 0 lines) [] s else sendStatus r.hdr status 0 s
    | .atomic => if status = stOk then sendMsg r.hdr opAtomicResult status 0 0 [] [prior.toNat] s else sendStatus r.hdr status 0 s
    | _ => sendStatus r.hdr status 0 s

/-- End a request with a status and nothing else. -/
def refuse (r : Req) (status : Nat) (s : State) : State := deliver r status [] 0 0 s

/-- Group the bursts of a run by the status they meet: (first burst, status, lines). DESIGN CHOICE (log 64). -/
def runGroups : List (Nat × List (Line × Nat)) → List (Nat × Nat × List (Line × Nat))
  | [] => []
  | (i, ls) :: rest =>
    let st := ls.foldl (fun a l => worse a l.2) stOk
    match runGroups rest with
    | (j, st', ls') :: gs => if st = st' then (i, st, ls ++ ls') :: gs else (i, st, ls) :: (j, st', ls') :: gs
    | [] => [(i, st, ls)]

/-- Answer an RD_RUN: READ_DATA, broken by RUN_CONT where the status changes from one burst to the next (R618–R620). DESIGN CHOICE (log 64). -/
def deliverRun (r : Req) (lines : List (Line × Nat)) (s : State) : State :=
  let bursts := (List.range (lines.length / 4)).map (fun i => (i, (lines.drop (4 * i)).take 4))
  (runGroups bursts).foldl (fun s g =>
    sendMsg r.hdr (if g.1 = 0 then opReadData else opRunCont) g.2.1 0 g.1
      (wireLines r (4 * g.1) (g.2.2.map (fun l => (l.1, l.2 != stOk)))) [] s) s

/-! ## Binding (R57–R61, R718) -/

/-- Whether a pool id is one whose mirrored copy the device serves (R712). -/
def heldPool (s : State) (pid : Nat) : Bool := pid == s.twin.held && pid != 0xFFF

/-- Whether a binding entry matches a source and a stream (R58). -/
def bindMatch (v : BitVec 64) (src stream : Nat) : Bool :=
  bit v.toNat 34 && bits v.toNat 20 14 != 0 && bits v.toNat 0 12 == src && bits v.toNat 12 8 == stream

/-- The binding of a request: isle in the model's numbering, and the caching bit. A device binds by the table of the port; for a
taken-over pool id the tables of all ports are joined (R718). None where no isle or more than one fits (R59). -/
def bindOf (s : State) (held : Bool) (port src stream : Nat) : Option (Nat × Bool) :=
  let both := s.twin.also != 0xFFF
  let own := (s.links.binds.filter (fun b => (both || b.1 / 2048 == port) && bindMatch b.2 src stream)).map (·.2.toNat)
  let all := (s.twin.mirror.binds.filter (fun b => bindMatch b.2 src stream)).map (·.2.toNat)
  if held then
    match all with
    | [] => none
    | v :: r =>
      if r.all (fun x => bits x 20 14 == bits v 20 14) then some (twinIsle + bits v 20 14, (v :: r).any (fun x => bit x 35)) else none
  else
    match own with
    | [v] => some (bits v 20 14, bit v 35)
    | v :: r =>
      if both && r.all (fun x => bits x 20 14 == bits v 20 14) then some (bits v 20 14, (v :: r).any (fun x => bit x 35)) else none
    | [] => none

/-- The external agent that a caching request comes from (R816). -/
def agentOf (s : State) (r : Req) : Option (Nat × Agent) :=
  s.heddle.agents.find? (fun a => !a.2.lost && a.2.src == r.hdr.src && a.2.stream == r.hdr.stream && a.2.isle == r.isle &&
    (twinIsle ≤ r.isle || s.twin.also != 0xFFF || a.2.port == r.hdr.port))

/-- The isle that a function's BAR2 reaches (R61, R69): none where every request is refused. -/
def bar2Isle (s : State) (fn : Nat) : Option Nat :=
  if fn = 0 then (if s.harbour.sealed then none else some 0)
  else
    let v := (NMap.getD s.links.vfBinds fn 0).toNat
    if (NMap.get? s.bobbin.fns fn).isSome && bit v 15 then some (bits v 0 14) else none

/-! ## Arrival (R624, R650, R653) -/

/-- Last alive kept for a stream: a taken-over pool id has its own counts (R624). -/
def aliveKey (held : Bool) (src stream : Nat) : Nat := held.toNat * 2 ^ 20 + src * 256 + stream

def updPort (p : Nat) (f : Port → Port) (s : State) : State := { s with links := { s.links with ports := NMap.upd s.links.ports p f } }

/-- Take the alive value of a message: false for a duplicate, which is dropped. DEDUCED (log 68). -/
def takeAlive (port key : Nat) (alive : BitVec 16) (s : State) : Bool × State :=
  let s' := { s with links := { s.links with rxAlive := NMap.set s.links.rxAlive key alive } }
  match NMap.get? s.links.rxAlive key with
  | none => (true, s')
  | some a =>
    let d := (alive - a).toNat
    if d = 0 ∨ 32769 ≤ d then (false, updPort port (fun p => { p with duplicates := p.duplicates + 1 }) s)
    else if d = 1 then (true, s')
    else (true, updPort port (fun p => { p with aliveGap := p.aliveGap + 1 }) s')

/-- A message with a header arrives: false where it is not accepted (port down, fenced device (R715), duplicate). DEDUCED (log 72). -/
def receive (h : Hdr) (held : Bool) (s : State) : Bool × State :=
  if !portUp s h.port || s.twin.state == .fenced then (false, s) else takeAlive h.port (aliveKey held h.src h.stream) h.alive s

/-- Whether a port accepts only management messages from a source: the device is isolated, the partner's HELLO failed, an end runs
its boot ROM, or the source's claim was answered with ID_CONFLICT (R646, R649, R650). -/
def portClosed (s : State) (port src : Nat) : Bool :=
  s.pool.isolated || s.harbour.boot != 3 || s.pool.refusing.contains (port * 4096 + src) ||
    (match NMap.get? s.links.ports port with | some p => p.refusedHello || p.partner.any (fun h => h.fwMajor == 0) | none => true)

/-! ## Waiting (R628, R629) -/

/-- Insert a request in arrival order. -/
def parkIn (r : Req) : List Req → List Req
  | [] => [r]
  | x :: l => if r.id < x.id then r :: x :: l else x :: parkIn r l

/-- A request waits. -/
def park (why : Why) (key : Nat) (r : Req) (s : State) : State :=
  { s with links := { s.links with parked := parkIn { r with why := some why, key := key } s.links.parked } }

def unpark (id : Nat) (s : State) : State :=
  { s with links := { s.links with parked := s.links.parked.filter (fun r => r.id != id) } }

/-- The requests that wait for something may be looked at again. -/
def release (p : Req → Bool) (s : State) : State :=
  { s with links := { s.links with parked := s.links.parked.map (fun r => if p r then { r with why := none } else r) } }

/-- Requests in the Heddle's overflow queue. -/
def overflowing (s : State) : Nat := (s.links.parked.filter (fun r => r.why == some .overflow)).length

/-- Key of a requester's run of refusals (R237). -/
def refusalKey (h : Hdr) : Nat := h.port * 2 ^ 20 + h.src * 256 + h.stream

/-- A request that finds every way of its set pinned: it joins the overflow queue, or where that is full a Strait request is
answered with RETRY, a BAR2 write is held by flow control, and an internal requester backs off (R236–R239). -/
def overflow (set : Nat) (r : Req) (s : State) : State :=
  if overflowing s < 256 || r.kind = .bar2Write then park .overflow set r s
  else
    match r.origin with
    | .bar2 _ => park .backOff set r s
    | .strait =>
      let n := NMap.getD s.heddle.refusals (refusalKey r.hdr) 0
      sendMsg r.hdr opRetry stOk 0 (64 * 2 ^ min n 6) [] []
        { s with heddle := { s.heddle with refusals := NMap.set s.heddle.refusals (refusalKey r.hdr) (n + 1) } }

/-- The Heddle accepts a request of a stream: its run of refusals ends (R237). -/
def accepted (r : Req) (s : State) : State :=
  { s with heddle := { s.heddle with refusals := NMap.del s.heddle.refusals (refusalKey r.hdr) } }

/-- Key of a stream, and of a function's BAR2 accesses, for what waits for earlier ones. -/
def orderKey (r : Req) : Nat :=
  match r.origin with
  | .strait => r.hdr.src * 256 + r.hdr.stream
  | .bar2 fn => 2 ^ 20 + fn

/-- Whether earlier writes of the same stream or function are not yet globally visible: they wait, or their answer waits for the
twin (R163, R174, R190). -/
def earlierPending (s : State) (r : Req) : Bool :=
  s.links.parked.any (fun x => x.id < r.id && x.kind.writes && orderKey x == orderKey r) ||
    s.twin.waits.any (fun w => match w.2 with | .reply x _ _ _ _ => x.id < r.id && x.kind.writes && orderKey x == orderKey r | _ => false)

/-- Whether a request must wait for earlier writes: a release, or any access of a function (R163). -/
def ordered (r : Req) : Bool :=
  match r.origin with
  | .strait => 1 ≤ r.hdr.sync && r.hdr.sync ≤ 3
  | .bar2 _ => true

/-- Whether a way of a set can be had now. -/
def wayFree (s : State) (set : Nat) : Bool :=
  let ways := s.heddle.dir.filter (fun e => !e.2.spilled && dirSetOf e.1 == set)
  ways.length < 16 || ways.any (fun e => !txnOpen s e.1)

/-- The key of the wait for a free place among the 8,192 open transactions (R215). -/
abbrev anyTxn : Nat := 2 ^ 60

/-- Whether what a waiting request waits for has come. -/
def ready (s : State) (r : Req) : Bool :=
  match r.why with
  | none => true
  | some .lineBusy => if r.key = anyTxn then s.heddle.txns.length < 8192 else !txnOpen s r.key
  | some .overflow => wayFree s r.key
  | some .earlierWrites => !earlierPending s r
  | _ => false

/-! ## Where a request goes (R88, R121–R126) -/

/-- The window of a request in its isle's space. -/
def windowOf (s : State) (r : Req) : Option Window :=
  NMap.get? (if r.isle < twinIsle then s.trans.windows else s.twin.mirror.windows) (bits r.hdr.addr.toNat 40 12)

/-- The address that a request reaches with the rights of its window, or the status that ends it (R123 checks 2 and 3, R134,
R125). A write-back of a line that a withdrawal has recalled meets ST_NOT_MAPPED (R142). -/
def target (s : State) (r : Req) : (Nat × Nat) ⊕ Nat :=
  match r.origin with
  | .bar2 _ => .inl (r.va, 15)
  | .strait =>
    match windowOf s r with
    | none =>
      .inr (if r.kind = .wrBack ∧ (agentOf s r).any (fun a => a.2.window.any (fun w => w.1 == bits r.hdr.addr.toNat 40 12))
        then stNotMapped else stPermission)
    | some w =>
      if w.isle ≠ r.isle % twinIsle then .inr stPermission
      else if w.leaving ∨ w.pages * pageSize < r.off + r.size then .inr stNotMapped
      else .inl (w.base + r.off, w.rights)

/-- Whether a map places an embedding shard of an isle over an address of this device (R88). -/
def shardCovers (s : State) (m : CompMap) (isle va : Nat) : Bool :=
  m.tables.any (fun t => t.2.isle == isle && ((t.2.slots.zip (List.range t.2.slots.length)).any (fun x =>
    x.1.pool == s.pool.id && x.1.va ≤ va &&
      va < x.1.va + (((t.2.slots.drop (x.2 + 1)).headD { first := t.2.rows, pool := 0, va := 0 }).first - x.1.first) * rowPitch t.2)))

/-- How a request's map epoch is judged (R87): 0 served, 1 held for the new map, 2 stale, 3 served where both maps permit it. DEDUCED (log 90). -/
def epochVerdict (s : State) (e : BitVec 8) : Nat :=
  let d := (e - s.maps.cur.epoch).toNat
  if d = 0 then 0 else if d = 1 then 1 else if d = 255 ∧ s.maps.grace ∧ s.maps.prev.isSome then 3 else 2

/-- Whether the current and the previous map agree about the object at an address (R87, R88). DEDUCED (log 90). -/
def bothPermit (s : State) (isle va : Nat) : Bool :=
  match s.maps.prev with
  | none => false
  | some p => shardCovers s p isle va == shardCovers s s.maps.cur isle va

/-- The requester of a translation, by its micro-TLB: 0–25 the ports, 26 PCIe. -/
def Req.holder (r : Req) : Nat := match r.origin with | .strait => r.hdr.port | .bar2 _ => 26

/-- What the translation of a request's pages gives. -/
inductive Trans' where
  | ok (l : List (Nat × Nat × Nat))
  | walk (vpage : Nat)
  | stop (status va : Nat)
  deriving DecidableEq, Repr

/-- Translate the pieces of a request in address order: (address, bytes, entry) of each. A miss needs a walk, unless `walked`
names the page whose walk has just ended (R112, R113). -/
def translate (s : State) (r : Req) (walked : Option Nat) : List (Nat × Nat) → Trans'
  | [] => .ok []
  | (va, n) :: rest =>
    let vp := va / pageSize
    if r.isle < twinIsle && !xlatHit s r.holder r.isle vp && walked != some (pageKey r.isle vp) && !withdrawing s r.isle vp then .walk vp
    else
      match xlat s r.isle va 0 with
      | .inr st => .stop st va
      | .inl e =>
        match translate s r walked rest with
        | .ok l => .ok ((va, n, e) :: l)
        | x => x

/-- A translation miss: the walk begins, or waits for one of the 256 places (R112, R113). -/
def startWalk (isle vpage : Nat) (s : State) : State :=
  if s.trans.walks.contains (isle, vpage) || s.trans.walkQueue.contains (isle, vpage) then s
  else if s.trans.walks.length < 256 then { s with trans := { s.trans with walks := s.trans.walks ++ [(isle, vpage)] } }
  else { s with trans := { s.trans with walkQueue := s.trans.walkQueue ++ [(isle, vpage)] } }

/-! ## The directory as the twin is told of it (R216) -/

/-- The words of an entry's external copies: state, then source, stream, window, base and length of each holder. -/
def dirWords (s : State) (off : Nat) : List Nat :=
  match dirGet s off with
  | none => [0]
  | some e =>
    let code := match e.state with | .shared => 1 | .extExcl => 2 | .extDirty => 3 | .intMod => 4 | .extOwned => 5 | .intOwned => 6
    let owner := if e.state.ext then [e.owner] else []
    let hs := owner ++ (extHolders s e).filter (fun i => !owner.contains i)
    code :: hs.flatMap (fun i =>
      match NMap.get? s.heddle.agents i with
      | some a => let w := a.window.getD (0, 0, 0); [a.src, a.stream, w.1, w.2.1, w.2.2]
      | none => [])

/-- A Heddle change of a mirrored line is journaled to the twin. -/
def noteDir (off : Nat) (before : List Nat) (s : State) : State :=
  if mirrorOf s off && dirWords s off != before then twinSend 2 (twinKey s off ++ dirWords s off) [] s else s

/-! ## Performing (R210, R823) -/

/-- What performing a request gives. -/
inductive Perf where
  | wait (why : Why) (key : Nat)
  | over (set : Nat)
  | done (status : Nat) (lines : List (Line × Bool)) (grant : Nat) (prior : BitVec 128)
  | run (lines : List (Line × Nat))
  deriving DecidableEq, Repr

/-- The wait that a line of the Heddle imposes: for its transaction, for a place among the transactions, or for a way. -/
def busyPerf (s : State) (line : Nat) : Perf :=
  if txnOpen s line then .wait .lineBusy line
  else if 8192 ≤ s.heddle.txns.length then .wait .lineBusy anyTxn
  else .over (dirSetOf line)

/-- Read the lines of a request for a requester that keeps no copy. -/
def reqRead (r : Req) : List (Nat × Bool) → State → (List (Line × Nat) ⊕ Perf) × State
  | [], s => (.inl [], s)
  | (off, tracked) :: rest, s =>
    let one : (List (Line × Nat) ⊕ Perf) × State :=
      if !tracked then (.inl [(readLine s off, lineStatus s off)], s)
      else
        let before := dirWords s off
        match hedRead .none (.req r) r.fwd false off s with
        | (.grant _ l st, s') => (.inl [(l, st)], noteDir off before s')
        | (_, s') => (.inr (busyPerf s' off), s')
    match one with
    | (.inr p, s) => (.inr p, s)
    | (.inl l, s) =>
      match reqRead r rest s with
      | (.inl ls, s) => (.inl (l ++ ls), s)
      | x => x

/-- Take the lines of a request out of every cache before a write at memory. -/
def reqClear (r : Req) : List (Nat × Bool) → State → Option Perf × State
  | [], s => (none, s)
  | (off, tracked) :: rest, s =>
    if !tracked then reqClear r rest s
    else
      let before := dirWords s off
      let c := hedClear (.req r) off s
      if c.1 then reqClear r rest (noteDir off before c.2) else (some (busyPerf c.2 off), c.2)

/-- The lines under the pieces of a request: device offset, and whether the Heddle tracks it. -/
def linesUnder (l : List (Nat × Nat × Nat)) : List (Nat × Bool) :=
  l.flatMap (fun (p : Nat × Nat × Nat) =>
    let off := eOff p.2.2
    (linesOf (off + p.1 % pageSize) p.2.1).map (fun x => (x, eCoherent p.2.2 && (inTier .hbm (off / pageSize) || inTier .ddr (off / pageSize)))))

/-- ST_DATA_LOST before ST_POISON before ST_OK, over the lines read. -/
def worstOf (l : List (Line × Nat)) : Nat := l.foldl (fun a x => worse a x.2) stOk

/-- Record the window an agent caches through, at its first line (R824). -/
def noteWindow (idx : Nat) (r : Req) (s : State) : State :=
  match windowOf s r with
  | none => s
  | some w =>
    { s with heddle := { s.heddle with agents := NMap.upd s.heddle.agents idx (fun a =>
      { a with window := some (bits r.hdr.addr.toNat 40 12, w.base, w.pages * pageSize) }) } }

/-- Whether the Heddle records any line as held by an agent (R623). -/
def holdsAny (s : State) (idx : Nat) : Bool := s.heddle.dir.any (fun e => isHolder s idx e.1)

/-- Whether an agent caches through another window than the request's while it holds a line (R623). -/
def secondWindow (s : State) (idx : Nat) (a : Agent) (r : Req) : Bool :=
  match a.window with
  | some w => w.1 != bits r.hdr.addr.toNat 40 12 && holdsAny s idx
  | none => false

/-- A grant of a line to an agent. -/
def grantTo (idx : Nat) (r : Req) (line : Nat) (before : List Nat) (g : Hed) (s : State) : Perf × State :=
  match g with
  | .grant st l status =>
    let s := if st = grantI then s else noteWindow idx r s
    let s := if st = grantM then wake line s else s
    (.done status [(l, status != stOk)] st 0, noteDir line before (accepted r s))
  | .refused status => (.done status [] 0 0, s)
  | _ => (busyPerf s line, s)

/-- RD_SHARED (R210, R823, R828). -/
def doShared (idx : Nat) (r : Req) (line : Nat) (tracked mayE : Bool) (s : State) : Perf × State :=
  if !tracked then (.done (lineStatus s line) [(readLine s line, lineStatus s line != stOk)] grantI 0, s)
  else
    let before := dirWords s line
    let g := hedRead (.ext idx) (.req r) r.fwd mayE line s
    grantTo idx r line before g.1 g.2

/-- RD_OWN and UPGRADE (R210, R213, R243, R828). A GRANT without data carries ST_OK: R670 marks reads. -/
def doOwn (idx : Nat) (r : Req) (line : Nat) (tracked : Bool) (s : State) : Perf × State :=
  if !tracked then (.done stPermission [] 0 0, s)
  else if isWatched s line then (.done stOk [] grantWatched 0, accepted r s)
  else
    let before := dirWords s line
    let keep := r.keep || (r.kind = .upgrade && !txnOpen s line && isHolder s idx line)
    if r.keep && !txnOpen s line then
      -- every other holder has answered: M without data
      let s := dirSet line { freshEntry s with state := .extDirty, owner := idx } s
      (.done stOk [] grantM 0, noteDir line before (accepted r (wake line s)))
    else
      let g := hedOwn idx (.req { r with keep := keep }) r.fwd line s
      let p := grantTo idx r line before g.1 g.2
      match p.1 with
      | .done status _ st _ => if keep then (.done (if st = grantM then stOk else status) [] st 0, p.2) else p
      | _ => p

/-- DIRTY from the holder in EXT_EXCL (R202, R210). -/
def doDirty (idx line : Nat) (s : State) : State :=
  match dirGet s line with
  | some e => if e.state = .extExcl ∧ e.owner = idx then noteDir line (dirWords s line) (dirSet line { e with state := .extDirty } s) else s
  | none => s

/-- Write a whole line at memory with its poison bit, to the twin as well where the line is mirrored. -/
def memLine (line : Nat) (l : Line) (bad : Bool) (s : State) : State :=
  let mir := mirrorOf s line
  let s := if bad then setPoison line (writeLine line l s) else wake line (putLine line l s)
  if mir then twinSend 1 (twinKey s line ++ [bad.toNat]) [] (twinSend 0 (twinKey s line) (readBytes s line 64) s) else s

/-- WR_BACK from the owner (R210, R212, R214, R822): true where it is accepted. -/
def doBack (idx line : Nat) (l : Line) (bad : Bool) (s : State) : Bool × State :=
  let snooped := (txnGet s line).any (fun t => t.pending.any (·.1 == idx))
  match dirGet s line with
  | none =>
    match txnGet s line with
    | some t =>
      if snooped then (true, txnSet line { t with data := some (l, bad) } s) else (false, s)
    | none => (false, s)
  | some e =>
    if e.state.ext ∧ e.owner = idx then
      let before := dirWords s line
      let discard := (txnGet s line).any (·.discard)
      let s := if discard then s else memLine line l bad s
      let s := putOrFree line { (delExt idx e) with state := .shared, owner := 0 } s
      let s := match txnGet s line with
        | some t => if snooped && !discard then txnSet line { t with data := some (l, bad) } s else s
        | none => s
      (true, noteDir line before s)
    else (false, s)

/-- The pieces of a request's data, with the bytes each carries. -/
def dataBytes (r : Req) : List Byte :=
  match r.kind with
  | .bar2Write => r.bytes
  | _ => r.lines.flatMap (fun l => leBytes l.data.toNat 64)

/-- Store the bytes of a write whose lines have been cleared: the worst status of the lines it left as they were. -/
def storePieces (r : Req) : List (Nat × Nat × Nat) → List Byte → Nat → State → Nat × State
  | [], _, st, s => (st, s)
  | (va, n, e) :: rest, bs, st, s =>
    let off := eOff e + va % pageSize
    let before := rangeStatus s off n
    let w := storeBytes (through s r.isle va e) off (bs.take n) s
    storePieces r rest (bs.drop n) (if w.1 then worse st before else st) w.2

/-- WR_LINE, WR_RUN, WR_PARTIAL and BAR2 writes. -/
def doWrite (r : Req) (l : List (Nat × Nat × Nat)) (s : State) : Perf × State :=
  match reqClear r (linesUnder l) s with
  | (some p, s) => (p, s)
  | (none, s) =>
    let s := accepted r s
    match r.kind, l with
    | .wrPartial, [(va, _, e)] =>
      let line := eOff e + va % pageSize
      if r.mask != BitVec.allOnes 64 && lineStatus s line != stOk then (.done (lineStatus s line) [] 0 0, s)
      else
        let new := maskLine (readLine s line) ((r.lines.headD { data := 0, check := 0 }).data) r.mask
        let w := storePieces r l (leBytes new.toNat 64) stOk s
        (.done w.1 [] 0 0, w.2)
    | _, _ =>
      let w := storePieces r l (dataBytes r) stOk s
      (.done w.1 [] 0 0, w.2)

/-- ATOMIC (R220–R225): a resent one whose result the journal holds is not performed again (R719). DEDUCED (log 67). -/
def doAtomic (r : Req) (l : List (Nat × Nat × Nat)) (s : State) : Perf × State :=
  match l with
  | (va, _, e) :: _ =>
    let x := eOff e + va % pageSize
    let tracked := (linesUnder l).any (·.2)
    let mir := through s r.isle va e
    match s.twin.mirror.atomics.find? (fun j => (twinIsle ≤ r.isle || (s.twin.also != 0xFFF && r.pool == s.twin.also)) && j.1 == r.hdr.src && j.2.1 == r.hdr.stream && j.2.2.1 == r.hdr.tag &&
        j.2.2.2.1 == r.hdr.alive) with
    | some j => (.done stOk [] 0 j.2.2.2.2, s)
    | none =>
      match atomicAt (.req r) mir tracked (homeCluster x) r.op x r.a.toNat r.c.toNat s with
      | (none, s) => (busyPerf s (lineOf x), s)
      | (some (old, true), s) =>
        let s := if mir then twinSend 3 (twinKey s (lineOf x) ++ [r.hdr.src, r.hdr.stream, r.hdr.tag, r.hdr.alive.toNat, old]) [] s else s
        (.done stOk [] 0 (BitVec.ofNat 128 old), accepted r s)
      | (some (_, false), s) => (.done (lineStatus s (lineOf x)) [] 0 0, s)
  | [] => (.done stNotMapped [] 0 0, s)

/-- Whether the pages of a request still lie in a region that the twin can serve: ST_REROUTE to the replica, ST_DATA_LOST, or
ST_OK (R721, R731). DEDUCED (log 68). -/
def takenOver (s : State) (r : Req) (l : List (Nat × Nat × Nat)) : Nat × Nat :=
  match (l.map (fun p => tookOver s r.isle p.1 p.2.2)).find? (fun x => x.1 != stOk) with
  | some x => if r.kind = .wrBack then (stDataLost, 0) else x
  | none => (stOk, 0)

/-- Perform a request whose pages are reached. -/
def perform (r : Req) (rights : Nat) (l : List (Nat × Nat × Nat)) (s : State) : Perf × State :=
  let s := l.foldl (fun s p => touchPage (eOff p.2.2 / pageSize) (burstsOf p.1 p.2.1) s) s
  let first := (linesUnder l).headD (0, false)
  if 8192 ≤ s.heddle.txns.length && first.2 then (.wait .lineBusy anyTxn, s)
  else
  match r.kind with
  | .rdShared | .rdOwn | .upgrade =>
    match agentOf s r with
    | none => (.wait .agentIndex 0, s)
    | some (idx, a) =>
      if secondWindow s idx a r then (.done stPermission [] 0 0, s)
      else if r.kind = .rdShared then
        doShared idx r first.1 first.2 (bit rights 1 && l.all (fun p => eWrite p.2.2)) s
      else doOwn idx r first.1 first.2 s
  | .wrLine | .wrPartial | .wrRun | .bar2Write => doWrite r l s
  | .atomic => doAtomic r l s
  | .rdUncached | .rdRun | .bar2Read =>
    match reqRead r (linesUnder l) s with
    | (.inr p, s) => (p, s)
    | (.inl ls, s) =>
      if r.kind = .rdRun then (.run ls, accepted r s)
      else (.done (worstOf ls) (ls.map (fun x => (x.1, x.2 != stOk))) 0 0, accepted r s)
  | .dirty | .wrBack => (.done stOk [] 0 0, s)

/-- How the pages of a request stand: reached, one waited for, or out of reach with a status. -/
inductive Reached where
  | all (l : List (Nat × Nat × Nat))
  | wait (why : Why) (key : Nat)
  | fail (status : Nat)
  deriving DecidableEq, Repr

/-- Reach the pages of a request. -/
def reachAll (r : Req) : List (Nat × Nat × Nat) → State → Reached × State
  | [], s => (.all [], s)
  | (va, n, e) :: rest, s =>
    let wr := r.kind.need != 1
    match reachPage .load r.isle (va / pageSize) e wr false s with
    | (.wait why, s) => (.wait why (pageKey r.isle (va / pageSize)), s)
    | (.fail st, s) => (.fail st, s)
    | (.at off, s) =>
      match reachAll r rest s with
      | (.all l, s) => (.all ((va, n, e - eOff e + off) :: l), s)
      | x => x

/-- Answer, or hold the answer until the twin has acknowledged the items sent since item `id` (R160, R216). -/
def respond (r : Req) (id status : Nat) (lines : List (Line × Bool)) (grant : Nat) (prior : BitVec 128) (s : State) : State :=
  if s.twin.nextItem ≤ id then deliver r status lines grant prior s
  else { s with twin := { s.twin with waits := s.twin.waits ++ [(s.twin.nextItem - 1, .reply r status lines grant prior)] } }

/-- A write-back or a DIRTY: it reports a line that the Heddle granted, and needs no translation to be live (R142, R212, R823). -/
def serveReport (r : Req) (s : State) : State :=
  match agentOf s r with
  | none => refuse r stPermission s
  | some (idx, a) =>
    let wid := bits r.hdr.addr.toNat 40 12
    let va := match a.window with
      | some w => if w.1 = wid then some (w.2.1 + r.off) else none
      | none => none
    match va with
    | none => refuse r (match target s r with | .inr st => st | .inl _ => stPermission) s
    | some va =>
      match entryOf s r.isle (va / pageSize) with
      | none =>
        if r.kind = .wrBack then refuse r stNotMapped (updPort r.hdr.port (fun p => { p with droppedBacks := p.droppedBacks + 1 }) s) else s
      | some e =>
        let line := lineOf (eOff e + va % pageSize)
        if r.kind = .dirty then doDirty idx line s
        else
          let lost := takenOver s r [(va, 64, e)]
          let gone := withdrawing s r.isle (va / pageSize) || s.trans.withdrawals.any (fun w => w.windows.contains wid)
          let snooped := (txnGet s line).any (fun t => t.pending.any (·.1 == idx))
          if lost.1 != stOk then refuse r stDataLost s
          else if gone && !snooped then
            refuse r stNotMapped (updPort r.hdr.port (fun p => { p with droppedBacks := p.droppedBacks + 1 }) s)
          else
            let id := s.twin.nextItem
            let b := doBack idx line ((r.lines.headD { data := 0, check := 0 }).data) r.mismatch s
            if b.1 then respond r id stOk [] 0 0 b.2 else refuse r stPermission b.2

/-- Serve a request from its translation on; it is answered, or it waits. `walked` names the page whose walk has just ended. -/
def serve (walked : Option Nat) (r : Req) (s : State) : State :=
  if !isleActive s r.isle then refuse r stPermission s
  else if r.kind = .dirty ∨ r.kind = .wrBack then serveReport r s
  else
    match target s r with
    | .inr st => refuse r st s
    | .inl (va, rights) =>
      if r.origin = .strait ∧ epochVerdict s r.hdr.epoch = 3 ∧ !bothPermit s (r.isle % twinIsle) va then
        sendStatus r.hdr stStaleEpoch s.maps.cur.epoch.toNat s
      else
        match translate s r walked (pieces va r.size) with
        | .walk vp => park .walk (pageKey r.isle vp) r (startWalk r.isle vp s)
        | .stop st a => refuse r st (faultEvent r.isle a st s)
        | .ok l =>
          if !(hasRights (8 * rights) r.kind.need && l.all (fun p => hasRights p.2.2 r.kind.need)) then refuse r stPermission s
          else if r.kind.caching && !(bit rights 3 && l.all (fun p => eCoherent p.2.2)) then refuse r stPermission s
          else
            match takenOver s r l with
            | (st, hint) =>
              if st != stOk then (if r.origin = .strait then sendStatus r.hdr st hint s else refuse r st s)
              else if ordered r && earlierPending s r then park .earlierWrites (orderKey r) r s
              else
                match reachAll r l s with
                | (.wait why key, s) => park why key r s
                | (.fail st, s) => refuse r st s
                | (.all l, s) =>
                  let id := s.twin.nextItem
                  match perform r rights l s with
                  | (.wait why key, s) => park why key r s
                  | (.over set, s) => overflow set r s
                  | (.run ls, s) => deliverRun r ls s
                  | (.done st lines g p, s) => respond r id st lines g p s

/-- Serve again every waiting request whose wait is over, the earliest first. -/
def pump (s : State) : Nat → State
  | 0 => s
  | fuel + 1 =>
    match s.links.parked.find? (ready s) with
    | none => s
    | some r => pump (serve none { r with why := none } (unpark r.id s)) fuel

/-- Serve what can be served. -/
def pumpAll (s : State) : State := pump s (s.links.parked.length + 1)

end Sys2Proof.Machine
end

