-- ==== Sys2Proof/Machine/Ingress.lean ====
section
/-! DEFINITION. The rows of the data requests, of BAR2, of the agents' snoop answers and losses, of translation walks, and the
fence (chapters 02, 03, 05, 13, 15). -/

namespace Sys2Proof.Machine

/-! ## The fence (R715, R716) -/

/-- A device fences itself: every command and request in flight ends with ST_ABORTED_FENCED, held mirrored writes included. -/
def fenceSelf (cause epochSeen : Nat) (s : State) : State :=
  if s.twin.state = .fenced then s
  else
    let s := s.links.parked.foldl (fun s r => refuse r stAbortedFenced s) s
    let s := s.twin.waits.foldl (fun s w => match w.2 with | .reply r _ _ _ _ => refuse r stAbortedFenced s | _ => s) s
    let s := { s with
      links := { s.links with parked := [], outstanding := [] }
      twin := { s.twin with waits := [], probing := false }
      bobbin := { s.bobbin with cmds := s.bobbin.cmds.map (fun (c : Cmd) =>
        if c.phase = Phase.ended ∧ c.unacked ≠ [] then { c with status := stAbortedFenced, unacked := [] } else { c with unacked := [] }) } }
    let s := s.bobbin.cmds.foldl (fun s (c : Cmd) =>
      match c.lead with
      | some h => if c.phase = Phase.ended then dropCmd c.key (answerSub c h s) else endFree c.key stAbortedFenced s
      | none => endFree c.key stAbortedFenced s) s
    raise (event evFenced 0 s.pool.id cause (epochSeen % 2 ^ 32)) { s with twin := { s.twin with state := .fenced } }

/-- Whether the device can tell its partner that it fences itself: it is paired or resyncing (R716). -/
def hasTwin (s : State) : Bool := s.twin.state == .paired || s.twin.state == .resync

/-- A lasting fault in a structure (1 directory, 2 shared TLB, 3 Bobbin context) (R716). -/
def fenceFault (unit : Nat) (s : State) : State :=
  let s :=
    if hasTwin s then emit (.manage (if portUp s 24 then 24 else 25) s.twin.partner .fenceNotice [s.pool.id]) s
    else raise (event evDeviceFault 0 unit 0 0) s
  fenceSelf 3 s.pool.epoch.toNat s

/-! ## Closing a line's transaction (R210, R212, R254) -/

/-- Whether the data of a transaction's snoops goes to memory: all but what a read or an ownership request takes with it. -/
def toMemory (t : Txn) : Bool :=
  t.inv && (match t.who with | .req r => !(r.kind == .rdOwn || r.kind == .upgrade) | _ => true)

/-- Every agent has answered: the entry settles, the data goes where it is needed, and the request that caused the snoops is
served before those that wait for the line (R211). A request that met a lost owner ends with ST_POISON (R254); a read that keeps no
copy is answered as a read of the poisoned line (R670). -/
def closeTxn (off : Nat) (s : State) : State :=
  match txnGet s off with
  | none => s
  | some t =>
    let before := dirWords s off
    let s := noteDir off before (settleEntry off t (txnDel off s))
    let data := if t.discard then none else t.data
    let s := match data with | some (l, bad) => if toMemory t then memLine off l bad s else s | none => s
    match t.who with
    | .req r0 =>
      match s.links.parked.find? (fun r => r.id == r0.id) with
      | none => match data with | some (l, bad) => if t.inv && !toMemory t then memLine off l bad s else s | none => s
      | some r =>
        let s := unpark r.id s
        if t.lost && !(r.kind == .rdUncached || r.kind == .rdRun || r.kind == .bar2Read) then refuse r stPoison s
        else
          let fwd := match data with | some (l, bad) => if toMemory t then r.fwd else r.fwd ++ [(off, l, bad)] | none => r.fwd
          let s := serve none { r with why := none, keep := r0.keep, fwd := fwd } s
          -- a line that nobody took goes back to memory
          match data with
          | some (l, bad) => if t.inv && !toMemory t && (dirGet s off).isNone && !txnOpen s off then memLine off l bad s else s
          | none => s
    | .cmd k =>
      match data with
      | some (l, bad) => if t.inv then s else updCmd k (fun c => { c with fwd := c.fwd ++ [(off, l, bad)] }) s
      | none => s
    | .recall => s
    | .withdrawal id =>
      { s with trans := { s.trans with withdrawals := s.trans.withdrawals.map (fun w =>
        if w.id = id then { w with recalls := w.recalls.filter (· != off) } else w) } }

/-- An agent's answer to its snoop of a line. -/
def answered (off : Nat) (x : Nat × Nat) (data : Option (Line × Bool)) (s : State) : State :=
  match txnGet s off with
  | none => s
  | some t =>
    let t := { t with pending := t.pending.filter (· != x), data := if data.isSome then data else t.data }
    let s := txnSet off t s
    if t.pending = [] then pumpAll (closeTxn off s) else s

/-- The open snoop that an answer with this source, stream and tag answers: its line, agent and tag. -/
def snoopFor (s : State) (h : Hdr) : Option (Nat × Nat × Nat) :=
  s.heddle.txns.findSome? (fun t =>
    (t.2.pending.find? (fun x => x.2 == h.tag && (NMap.get? s.heddle.agents x.1).any (fun a =>
      a.src == h.src && a.stream == h.stream && (a.port == h.port || twinIsle ≤ a.isle)))).map (fun x => (t.1, x)))

/-- A response of an agent arrives. -/
def snoopAnswer (h : Hdr) (line : Option WireLine) (s : State) : State :=
  let a := receive h false s
  if !a.1 then a.2
  else
    let s := a.2
    match snoopFor s h with
    | none => s
    | some (off, idx, tag) =>
      match line, NMap.get? s.heddle.agents idx with
      | some w, some g => answered off (idx, tag) (some (w.data, wireCheck (snoopAddr s g off) w.data != w.check)) s
      | _, _ => answered off (idx, tag) none s

def execRspAck (h : Hdr) (s : State) : Host.Outcome State Fault Refusal := run (snoopAnswer h none) s

def execRspData (h : Hdr) (line : WireLine) (s : State) : Host.Outcome State Fault Refusal := run (snoopAnswer h (some line)) s

/-! ## Losing an agent (R249–R258, R816) -/

/-- The caching bit of an agent's binding entry cleared (R251). -/
def dropCaching (a : Agent) (s : State) : State :=
  let f := fun (v : BitVec 64) => v &&& ~~~(1 <<< 35 : BitVec 64)
  let key := a.port * 2048 + a.entry
  if a.isle < twinIsle then
    let s := { s with links := { s.links with binds := NMap.upd s.links.binds key f } }
    twinNote 8 [key, (NMap.getD s.links.binds key 0).toNat] [] s
  else { s with twin := { s.twin with mirror := { s.twin.mirror with binds := NMap.upd s.twin.mirror.binds key f } } }

/-- The open snoop of a line to a lost agent ends as R254 states. DEDUCED (log 89). -/
def endSnoop (idx : Nat) (s : State) (off : Nat) : State :=
  match txnGet s off with
  | none => s
  | some t =>
    match t.pending.find? (·.1 == idx) with
    | none => s
    | some x =>
      match dirGet s off with
      | some e =>
        if e.owner = idx ∧ (e.state = .extDirty ∨ e.state = .extOwned) then
          let others := if t.inv then [] else (extHolders s e).filter (· != idx)
          let l := others.map (fun i => (i, snoopTag s i))
          let s := { s with heddle := { s.heddle with agents := NMap.upd s.heddle.agents idx (fun a => { a with poisonedLost := a.poisonedLost + 1 }) } }
          let s := setPoison off (intInvalidate off (dirDel off s)).2
          let s := if mirrorOf s off then twinSend 1 (twinKey s off ++ [1]) [] s else s
          let t := { t with inv := true, lost := true, discard := true, pending := t.pending.filter (· != x) ++ l }
          let s := l.foldl (sendSnoop off true) (txnSet off t s)
          if t.pending = [] then closeTxn off s else s
        else
          let t := { t with pending := t.pending.filter (· != x) }
          let s := txnSet off t s
          if t.pending = [] then closeTxn off s else s
      | none =>
        let t := { t with pending := t.pending.filter (· != x) }
        let s := txnSet off t s
        if t.pending = [] then closeTxn off s else s

/-- The Heddle declares an agent lost; `cmd` is the command that waits for the sweep (R249–R251, R254). -/
def loseAgent (cmd : Option CmdKey) (s : State) (idx : Nat) : State :=
  match NMap.get? s.heddle.agents idx with
  | none => s
  | some a =>
    if a.lost then s
    else
      let s := { s with
        heddle := { s.heddle with agents := NMap.set s.heddle.agents idx { a with lost := true, cmd := cmd } }
        links := { s.links with parked := s.links.parked.filter (fun r =>
          !(r.kind.caching && r.hdr.src == a.src && r.hdr.stream == a.stream && r.isle == a.isle && r.origin == .strait)) } }
      let s := dropCaching a s
      pumpAll ((s.heddle.txns.map (·.1)).foldl (endSnoop idx) s)

/-- Agent indices of the directory mode (R218). -/
def agentLimit (s : State) : Nat := if s.heddle.broadcast then 1024 else 64

/-- Give an agent index to a binding entry that has valid and caching set, while one is free (R218, R816). -/
def attachAgent (space key : Nat) (v : BitVec 64) (s : State) : State :=
  let w := v.toNat
  let isle := space + bits w 20 14
  if !(bit w 34 && bit w 35 && bits w 20 14 != 0) then s
  else if s.heddle.agents.any (fun a => !a.2.lost && a.2.port == key / 2048 && a.2.entry == key % 2048 && a.2.isle / twinIsle == isle / twinIsle) then s
  else
    match lowestFree s.heddle.agents 0 (agentLimit s) with
    | none => s
    | some i =>
      let a : Agent :=
        { port := key / 2048, entry := key % 2048, src := bits w 0 12, stream := bits w 12 8, isle := isle, window := none,
          lost := false, reclaimed := 0, poisonedLost := 0, cmd := none }
      { s with heddle := { s.heddle with agents := NMap.set s.heddle.agents i a } }

/-- Every caching binding entry that has no agent takes a free index. -/
def attachAll (s : State) : State :=
  let s := s.links.binds.foldl (fun s b => attachAgent 0 b.1 b.2 s) s
  if s.twin.held = 0xFFF then s else s.twin.mirror.binds.foldl (fun s b => attachAgent twinIsle b.1 b.2 s) s

/-- The sweep of a lost agent ends: what it still held is reclaimed, the event is posted, its index is free (R255, R257, R816). -/
def execAgentSweepDone (idx : Nat) (s : State) : Host.Outcome State Fault Refusal :=
  run (fun s =>
    match NMap.get? s.heddle.agents idx with
    | none => s
    | some a =>
      if !a.lost then s
      else
        let s := (s.heddle.dir.map (·.1)).foldl (fun s off => reclaim idx s off) s
        let a := NMap.getD s.heddle.agents idx a
        let s := raise (event evAgentLost a.port idx a.reclaimed a.poisonedLost)
          { s with heddle := { s.heddle with agents := NMap.del s.heddle.agents idx } }
        let s := match a.cmd with
        | some k =>
          -- AGENT_EVICT counts the lines; BIND_SET counts nothing (R250, R812)
          if (cmd? s k).any (fun c => c.opcode == 0x0F0A) then endCmd k stOk a.reclaimed a.poisonedLost s else endCmd k stOk 0 0 s
        | none => s
        pumpAll (release (fun r => r.why == some .agentIndex) (attachAll s))) s

/-- Agents that have not answered a snoop of a line within the request timeout are lost (R205, R249). -/
def execSnoopTimeout (off : Nat) (s : State) : Host.Outcome State Fault Refusal :=
  run (fun s =>
    match txnGet s off with
    | none => s
    | some t => (t.pending.map (·.1)).eraseDups.foldl (loseAgent none) s) s

/-! ## Requests arriving -/

/-- A request of a kind with its header, no operands yet. -/
def newReq (kind : ReqKind) (h : Hdr) : Req :=
  { id := 0, kind := kind, origin := .strait, hdr := h, isle := 0, lines := [], bytes := [], mask := 0, op := 0, a := 0, c := 0,
    va := 0, len := 0, pool := bits h.addr.toNat 52 12, why := none, key := 0, fwd := [], keep := false }

/-- A request takes its place in the device. -/
def takeId (s : State) : State := { s with links := { s.links with nextId := s.links.nextId + 1 } }

/-- What a device answers to a request for its partner's pool id, which it has not taken over (R724). -/
def forPartner (r : Req) (s : State) : State :=
  if s.twin.probing then park .takeover r.pool r s
  else if r.kind = .dirty then s else sendStatus r.hdr stReroute s.twin.partner s

/-- Whether a pool id is the partner's, not taken over (R724). -/
def isPartner (s : State) (pid : Nat) : Bool :=
  pid != 0xFFF && pid == s.twin.partner && pid != s.twin.held && pid != s.twin.also && s.twin.state != .unpaired

/-- A bound request: the checks before its service (R60, R666, R825, R827, R87). -/
def admitReq (r : Req) (caching : Bool) (s : State) : State :=
  if r.kind.caching && !caching then refuse r stPermission s
  else if r.malformed then refuse r stBadDescriptor s
  else if r.mismatch && r.kind != .wrBack then
    refuse r stCheckMismatch { s with trust := { s.trust with refusedCount := s.trust.refusedCount + 1 } }
  else if !isMine s r.pool then refuse r stNotMapped s
  else
    match epochVerdict s r.hdr.epoch with
    | 1 => park .epochHold 0 r s
    | 2 => if r.kind = .dirty then s else sendStatus r.hdr stStaleEpoch s.maps.cur.epoch.toNat s
    | _ => serve none r s

/-- A request for a pool id that this device serves is bound and served (R57, R59). -/
def takeIn (r : Req) (s : State) : State :=
  let h := r.hdr
  match bindOf s (heldPool s r.pool) h.port h.src h.stream with
  | none => refuse r stPermission (updPort h.port (fun p => { p with nobind := p.nobind + 1 }) s)
  | some (isle, caching) => pumpAll (admitReq { r with isle := isle } caching s)

/-- A request-class message arrives (R57, R59, R624, R650, R656). -/
def requestIn (r : Req) (s : State) : State :=
  let h := r.hdr
  let held := heldPool s r.pool
  if 24 ≤ h.port then s
  else
    let a := receive h held s
    if !a.1 then a.2
    else
      let s := takeId a.2
      let r := { r with id := a.2.links.nextId }
      if portClosed s h.port h.src then refuse r stPermission s
      else if isPartner s r.pool then forPartner r s
      else takeIn r s

/-- RD_SHARED; a lasting fault that its directory lookup finds fences the device (R716). -/
def execRdShared (h : Hdr) (directory : Media) (s : State) : Host.Outcome State Fault Refusal :=
  run (fun s =>
    if directory == .clean || !portUp s h.port || s.twin.state == .fenced then requestIn (newReq .rdShared h) s
    else if directory == .lasting then fenceFault 1 (refuse (newReq .rdShared h) stAbortedFenced s)
    else requestIn (newReq .rdShared h) (countTransient s)) s

def execRdOwn (h : Hdr) (s : State) : Host.Outcome State Fault Refusal := run (requestIn (newReq .rdOwn h)) s

def execUpgrade (h : Hdr) (s : State) : Host.Outcome State Fault Refusal := run (requestIn (newReq .upgrade h)) s

def execDirty (h : Hdr) (s : State) : Host.Outcome State Fault Refusal := run (requestIn (newReq .dirty h)) s

def execWrBack (h : Hdr) (line : WireLine) (s : State) : Host.Outcome State Fault Refusal :=
  run (requestIn { newReq .wrBack h with lines := [line] }) s

def execRdUncached (h : Hdr) (bad : List LineFault) (s : State) : Host.Outcome State Fault Refusal :=
  run (fun s => requestIn (newReq .rdUncached h) (if portUp s h.port && s.twin.state != .fenced then bad.foldl lineFault s else s)) s

def execWrLine (h : Hdr) (line : WireLine) (s : State) : Host.Outcome State Fault Refusal :=
  run (requestIn { newReq .wrLine h with lines := [line] }) s

def execWrPartial (h : Hdr) (mask : BitVec 64) (line : WireLine) (s : State) : Host.Outcome State Fault Refusal :=
  run (requestIn { newReq .wrPartial h with lines := [line], mask := mask }) s

def execAtomic (h : Hdr) (op : Nat) (a c : BitVec 128) (s : State) : Host.Outcome State Fault Refusal :=
  run (requestIn { newReq .atomic h with op := op, a := a, c := c }) s

def execRdRun (h : Hdr) (s : State) : Host.Outcome State Fault Refusal := run (requestIn (newReq .rdRun h)) s

def execWrRun (h : Hdr) (lines : List WireLine) (s : State) : Host.Outcome State Fault Refusal :=
  run (requestIn { newReq .wrRun h with lines := lines }) s

/-! ## BAR2 (R61, R68–R72) -/

/-- A header for a request that came by PCIe. -/
def noHdr : Hdr := { port := 0, src := 0, stream := 0, tag := 0, sync := 0, epoch := 0, alive := 0, addr := 0, rsv := false }

/-- A BAR2 access: a function without a binding, a sealed PF0 and an offset beyond 256 GiB are answered with Unsupported Request. DEDUCED (log 72). -/
def bar2In (r : Req) (fn off : Nat) (s : State) : State :=
  match bar2Isle s fn with
  | none => if r.kind = .bar2Read then emit (.bar2 fn .refused) s else s
  | some isle =>
    if s.twin.state = .fenced ∨ 2 ^ 38 < off + r.size then (if r.kind = .bar2Read then emit (.bar2 fn .refused) s else s)
    else
      let base := match isle? s isle with | some i => i.bar2Base | none => 0
      let r := { r with id := s.links.nextId, isle := isle, va := base + off, origin := .bar2 fn }
      pumpAll (serve none r (takeId s))

def execBar2Read (fn off len : Nat) (bad : List LineFault) (s : State) : Host.Outcome State Fault Refusal :=
  run (fun s => bar2In { newReq .bar2Read noHdr with len := len, origin := .bar2 fn } fn off
    (if (bar2Isle s fn).isSome && s.twin.state != .fenced then bad.foldl lineFault s else s)) s

def execBar2Write (fn off : Nat) (bytes : List Byte) (s : State) : Host.Outcome State Fault Refusal :=
  run (bar2In { newReq .bar2Write noHdr with bytes := bytes, origin := .bar2 fn } fn off) s

/-! ## Walks, back-offs and PROGRESS -/

/-- A walk ends: the next miss takes its place, the caches of the requesters that wait are filled, and they go on (R112, R113).
A lasting fault of the shared TLB fences the device (R716). -/
def execTlbWalkDone (isle page : Nat) (tlb : Media) (s : State) : Host.Outcome State Fault Refusal :=
  run (fun s =>
    if !s.trans.walks.contains (isle, page) then s
    else if tlb == .lasting then fenceFault 2 s
    else
      let s := if tlb == .transient then countTransient s else s
      let walks := s.trans.walks.filter (· != (isle, page)) ++ s.trans.walkQueue.take 1
      let s := { s with trans := { s.trans with walks := walks, walkQueue := s.trans.walkQueue.drop 1 } }
      let key := pageKey isle page
      let rs := s.links.parked.filter (fun r => r.why == some .walk && r.key == key)
      let s := match walk s isle page with
        | .entry e => (rs.map (·.holder)).eraseDups.foldl (fun s h => tlbFill h isle page e s) s
        | _ => s
      pumpAll (rs.foldl (fun s r => serve (some key) { r with why := none } (unpark r.id s)) s)) s

/-- Half a timeout has passed for something the device still serves: PROGRESS (R629). -/
def execProgressDue (id : Nat) (s : State) : Host.Outcome State Fault Refusal :=
  run (fun s =>
    match s.links.parked.find? (fun r => r.id == id && r.origin == .strait),
          s.twin.waits.findSome? (fun w => match w.2 with | .reply r _ _ _ _ => if r.id == id && r.origin == .strait then some r else none | _ => none),
          s.bobbin.cmds.findSome? (fun c => if c.key.sq == 4096 && c.key.seq.toNat == id % 2 ^ 32 then c.lead else none) with
    | some r, _, _ => if r.kind = .dirty then s else sendMsg r.hdr opProgress stOk 0 0 [] [] s
    | none, some r, _ => sendMsg r.hdr opProgress stOk 0 0 [] [] s
    | none, none, some h => sendMsg h opProgress stOk 0 0 [] [] s
    | none, none, none => s) s

end Sys2Proof.Machine
end

