-- ==== Sys2Proof/Machine/Regions.lean ====
section
/-! DEFINITION. Regions, mappings, windows, withdrawals and tier pins (chapters 02, 03, 06): REGION_ALLOC, REGION_FREE, MAP, UNMAP,
the steps of a withdrawal up to its drain, and PIN_TIER. -/

namespace Sys2Proof.Machine

/-! ## What the twin is told -/

/-- The entries of pages cross to the twin before the command that changed them completes (R707). -/
def noteEntries (k : CmdKey) (isle : Nat) (vps : List Nat) (s : State) : State :=
  vps.foldl (fun s p => twinFor k 6 [isle, p, (entryOf s isle p).getD 0] [] s) s

/-- A region record's words: owner, range, class, type, mirrored, replica plus one. -/
def regionWords (isle id : Nat) (r : Region) : List Nat :=
  [isle, id, r.isle, r.va, r.len, r.coherent.toNat, r.ty, r.mirrored.toNat, match r.replica with | some x => x + 1 | none => 0]

/-- End with a first count, the second being open. -/
def endFirst (k : CmdKey) (status c0 : Nat) (s : State) : State :=
  endCmd k status c0 ((Config.freeWord s.free).toNat % 2 ^ 32) (nextFree s)

/-! ## REGION_ALLOC (R74–R82) -/

def raLen (c : Cmd) : Nat := c.fld 24 0 64
def raType (c : Cmd) : Nat := c.fld 32 1 3
def raMirrored (c : Cmd) : Bool := bit (c.fld 32 0 8) 4
def raHint (c : Cmd) : Nat := c.fld 33 0 2
def raPin (c : Cmd) : Bool := bit (c.fld 33 0 8) 2

def allocFieldsOk (c : Cmd) : Bool :=
  !descArgBlock c.desc && c.rz 16 55 9 && pageRangeOk (c.va 16) (raLen c) && raType c ≤ 3 && c.rz 32 5 3 && c.rz 33 3 5 &&
    c.zero 34 35 && c.rz 36 12 3 && c.zero 38 63 && !(bit (c.fld 32 0 8) 0 && raType c != 0) && !(raPin c && raHint c == 3)

/-- The tiers a page is tried in (R77, R78). -/
def allocOrder (hint : Nat) (pin : Bool) : List Tier :=
  if hint = 1 then (if pin then [.ddr] else [.ddr, .flash])
  else if hint = 2 then [.flash]
  else if pin then [.hbm] else [.hbm, .ddr, .flash]

/-- Whether a page can be placed in a tier: quota, free space, and for flash a channel that accepts placements (R53, R305). -/
def placeable (s : State) (isle : Nat) (t : Tier) : Bool :=
  tierRoom s isle t && (t != .flash || s.flash.chans.any (fun c => c.2.present && !c.2.full && !c.2.failed))

/-- Place the pages of a region one after the other: device pages in order, all or none. -/
def placePages (isle id : Nat) (order : List Tier) : List Nat → State → Option (List Nat × State)
  | [], s => some ([], s)
  | vp :: rest, s =>
    match order.find? (placeable s isle) with
    | none => none
    | some t =>
      match freePage s t with
      | none => none
      | some p =>
        match placePages isle id order rest (allocPage p isle (some vp) id 0 s) with
        | some (ps, s) => some (p :: ps, s)
        | none => none

/-- Whether 32 pages from place `i` of a region form a 2 MiB run (R104–R106): an aligned group of consecutive device pages. -/
def isRun (vp0 : Nat) (ps : List Nat) (i : Nat) : Bool :=
  let j := i - (vp0 + i) % 32
  let g := (ps.drop j).take 32
  (vp0 + i) % 32 ≤ i && g.length == 32 && g.headD 1 % 32 == 0 && (g.zip (List.range 32)).all (fun x => x.1 == g.headD 0 + x.2)

/-- Write the entries of placed pages. DESIGN CHOICE (log 21). -/
def mapPlaced (isle : Nat) (rights vp0 : Nat) (pin coherent mirrored : Bool) (ty : Nat) (ps : List Nat) (s : State) : State :=
  (ps.zip (List.range ps.length)).foldl (fun s x =>
    putEntry isle (vp0 + x.2) (mkEntry rights false pin coherent mirrored (isRun vp0 ps x.2) ty (x.1 * pageSize)) s) s

/-- Rights of a new region's pages: read, write and atomic; Lagoon and Atoll pages are read only to software (R458, R568). -/
def typeRights (ty : Nat) : Nat := if ty = 1 ∨ ty = 3 then 1 else 7

def execRegionAlloc (k : CmdKey) (s : State) : Host.Outcome State Fault Refusal :=
  run (withCmd k 0x0400 (fun c s =>
    let vp0 := c.va 16 / pageSize
    let vps := (List.range (raLen c / pageSize)).map (fun i => vp0 + i)
    if !allocFieldsOk c || vps.any (mapped s c.isle) then badDesc k s
    else if raMirrored c && s.twin.state != .paired then endFree k stDegraded s
    else
      match lowestFree (regionsOf s c.isle) 1 1048576, ensureTables c.isle vps s with
      | some id, some s1 =>
        match placePages c.isle id (allocOrder (raHint c) (raPin c)) vps s1 with
        | none => endFree k stQuota s
        | some (ps, s) =>
          let coherent := bit (c.fld 32 0 8) 0
          let s := mapPlaced c.isle (typeRights (raType c)) vp0 (raPin c) coherent (raMirrored c) (raType c) ps s
          let r : Region :=
            { isle := c.isle % twinIsle, va := c.va 16, len := raLen c, coherent := coherent, ty := raType c, mirrored := raMirrored c,
              replica := if c.fld 36 15 1 = 1 then some (c.fld 36 0 12) else none, cursor := none }
          let s := noteEntries k c.isle vps (twinFor k 4 (regionWords c.isle id r) [] (setRegion c.isle id (some r) s))
          let hinted : Tier := if raHint c = 1 then .ddr else if raHint c = 2 then .flash else .hbm
          endCmd k stOk id (ps.filter (inTier hinted)).length s
      | _, _ => endFree k stQuota s)) s

/-- The twin could not take a mirrored region: it is undone, and its command ends with ST_QUOTA (R79). -/
def undoRegion (k : CmdKey) (s : State) : State :=
  match cmd? s k with
  | none => s
  | some c =>
    if c.opcode = 0x0400 ∧ c.status = stOk then
      let vps := pagesOf (c.va 16) (raLen c)
      let s := vps.foldl (fun s vp =>
        match entryOf s c.isle vp with
        | some e => clearEntry c.isle (dropPage (eOff e / pageSize) s) vp
        | none => s) s
      let s := vps.foldl (releaseTable c.isle) (setRegion c.isle c.count0 none s)
      updCmd k (fun c => { c with status := stQuota }) (twinNote 4 [c.isle, c.count0] [] s)
    else s

/-! ## MAP (R127–R130) -/

def mapFieldsOk (c : Cmd) : Bool :=
  let form := c.fld 16 0 2
  !descArgBlock c.desc && c.rz 16 2 6 && c.rz 17 1 7 && c.rz 18 12 4 && c.rz 20 14 2 && c.rz 22 4 4 && c.zero 23 23 && c.rz 24 0 16 &&
    c.rz 24 55 9 && c.zero 40 63 &&
    (if form = 0 then
       c.rz 17 0 1 && c.fld 18 0 12 ≤ 63 && c.fld 20 0 14 == 0 && c.rz 22 3 1 && c.va 24 % 0x200000 == 0 && c.zero 32 39 &&
         c.va 24 + 0x200000 ≤ 2 ^ 55
     else if form = 1 then c.rz 17 0 1 && pageRangeOk (c.va 24) (c.fld 32 0 64) && c.fld 32 0 64 ≤ 2 ^ 40
     else form == 2 && c.zero 18 19 && c.fld 20 0 14 == 0 && c.rz 22 0 4 && pageRangeOk (c.va 24) (c.fld 32 0 64))

/-- MAP form 0: the scratchpad window of a cluster (R66, R67, R128). -/
def mapScratch (k : CmdKey) (c : Cmd) (s : State) : State :=
  let cl := c.fld 18 0 12
  let vp0 := c.va 24 / pageSize
  let vps := (List.range 32).map (fun i => vp0 + i)
  if vps.any (mapped s c.isle) then badDesc k s
  else if c.isle != 0 && dedicatedTo s cl != some c.isle then endFree k stPermission s
  else
    match ensureTables c.isle vps s with
    | none => endFree k stQuota s
    | some s =>
      let base := scratchBase + cl * 0x200000
      let s := (List.range 32).foldl (fun s i =>
        putEntry c.isle (vp0 + i) (mkEntry (c.fld 22 0 3) false false false false true 0 (base + i * pageSize)) s) s
      endFree k stOk (noteEntries k c.isle vps s)

/-- MAP form 1: a window (R129). -/
def mapWindow (k : CmdKey) (c : Cmd) (s : State) : State :=
  let wid := c.fld 18 0 12
  if !onManagement s k || (NMap.get? s.trans.windows wid).isSome then endFree k stPermission s
  else
    let w : Window := { isle := c.fld 20 0 14, rights := c.fld 22 0 4, pages := c.fld 32 0 64 / pageSize, base := c.va 24, leaving := false }
    let s := { s with trans := { s.trans with windows := NMap.set s.trans.windows wid w } }
    endFree k stOk (twinFor k 7 [wid, w.isle, w.rights, w.pages, w.base] [] s)

/-- MAP form 2: pins and unpins (R115–R119, R130). -/
def mapPin (k : CmdKey) (c : Cmd) (s : State) : State :=
  let vps := pagesOf (c.va 24) (c.fld 32 0 64)
  if vps.any (fun p => match walk s c.isle p with | .entry _ => false | _ => true) then endFree k stNotMapped s
  else if c.fld 17 0 1 = 1 then
    if vps.any (planUses s c.isle) then endFree k stPermission s
    else endFree k stOk (noteEntries k c.isle vps (vps.foldl (unpinPage c.isle) s))
  else
    match pinPages c.isle vps s with
    | none => endFree k stQuota s
    | some s => endFree k stOk (noteEntries k c.isle vps s)

def execMap (k : CmdKey) (s : State) : Host.Outcome State Fault Refusal :=
  run (withCmd k 0x0402 (fun c s =>
    if !mapFieldsOk c then badDesc k s
    else if c.fld 16 0 2 = 0 then mapScratch k c s
    else if c.fld 16 0 2 = 1 then mapWindow k c s
    else mapPin k c s)) s

/-! ## Withdrawals (R132–R144) -/

/-- Withdrawals that hold one of the 16 comparators. -/
def activeWds (s : State) : Nat := (s.trans.withdrawals.filter (fun w => 1 ≤ w.phase && w.phase ≤ 4)).length

/-- A withdrawal that passed its checks: it takes a comparator, or waits for one (R144). -/
def startWd (cmd : Option CmdKey) (kind isle : Nat) (vpages windows : List Nat) (obj : Nat) (s : State) : State :=
  let w : Withdrawal :=
    { id := s.trans.nextWd, cmd := cmd, kind := kind, isle := isle, vpages := vpages, windows := windows,
      phase := if activeWds s < 16 ∧ !s.trans.withdrawals.any (·.phase == 0) then 1 else 0, cut := 0, recalls := [], obj := obj }
  let wins := s.trans.windows.map (fun x => if windows.contains x.1 then (x.1, { x.2 with leaving := true }) else x)
  { s with trans := { s.trans with withdrawals := s.trans.withdrawals ++ [w], nextWd := s.trans.nextWd + 1, windows := wins } }

def updWd (id : Nat) (f : Withdrawal → Withdrawal) (s : State) : State :=
  { s with trans := { s.trans with withdrawals := s.trans.withdrawals.map (fun w => if w.id = id then f w else w) } }

def wd? (s : State) (id : Nat) : Option Withdrawal := s.trans.withdrawals.find? (·.id == id)

def unmapFieldsOk (c : Cmd) : Bool :=
  !descArgBlock c.desc && c.rz 16 1 7 && c.zero 17 17 && c.rz 18 12 4 && c.zero 20 23 && c.rz 24 0 16 && c.rz 24 55 9 && c.zero 40 63 &&
    (if c.fld 16 0 1 = 0 then c.zero 18 19 && pageRangeOk (c.va 24) (c.fld 32 0 64) else c.zero 24 39)

/-- Whether a page's translation is pinned. -/
def pinnedPage (s : State) (isle vp : Nat) : Bool := (entryOf s isle vp).any eTlbPin

def execUnmap (k : CmdKey) (s : State) : Host.Outcome State Fault Refusal :=
  run (withCmd k 0x0403 (fun c s =>
    if c.phase == .running then s
    else if !unmapFieldsOk c then badDesc k s
    else if c.fld 16 0 1 = 1 then
      let wid := c.fld 18 0 12
      if !onManagement s k then endFree k stPermission s
      else
        match NMap.get? s.trans.windows wid with
        | some w => if w.leaving then endFree k stNotMapped s else startWd (some k) 1 w.isle [] [wid] 0 (startCmd k s)
        | none => endFree k stNotMapped s
    else
      let vps := pagesOf (c.va 24) (c.fld 32 0 64)
      if vps.any (fun p => !mapped s c.isle p || withdrawing s c.isle p) then endFree k stNotMapped s
      else if vps.any (pinnedPage s c.isle) then endFree k stPermission s
      else startWd (some k) 0 c.isle vps [] 0 (startCmd k s))) s

/-- The mapped pages of a region that no withdrawal is removing (R84). -/
def regionPages (s : State) (isle id : Nat) (r : Region) : List Nat :=
  (pagesOf r.va r.len).filter (fun p => !withdrawing s isle p &&
    (match entryOf s isle p with
     | some e => (getPage s (eOff e / pageSize)).any (fun g => g.region == id) || (twinIsle ≤ isle && !eMirrored e)
     | none => false))

def execRegionFree (k : CmdKey) (s : State) : Host.Outcome State Fault Refusal :=
  run (withCmd k 0x0401 (fun c s =>
    if c.phase == .running then s
    else if descArgBlock c.desc || !c.zero 20 63 then badDesc k s
    else
      let id := c.fld 16 0 32
      match NMap.get? (regionsOf s c.isle) id with
      | none => endFree k stPermission s
      | some r =>
        if r.isle ≠ c.isle % twinIsle then endFree k stPermission s
        else
          let vps := regionPages s c.isle id r
          if vps.any (pinnedPage s c.isle) then endFree k stPermission s
          else startWd (some k) 2 c.isle vps [] id (startCmd k s))) s

/-- The waiting withdrawal dispatched first takes a comparator (R144). -/
def execWithdrawalStart (s : State) : Host.Outcome State Fault Refusal :=
  run (fun s =>
    match s.trans.withdrawals.find? (·.phase == 0) with
    | some w => if activeWds s < 16 then updWd w.id (fun w => { w with phase := 1 }) s else s
    | none => s) s

/-- The ranges that a DMA command has still to reach; none for a command whose issued pages tell. -/
def remaining (c : Cmd) : Option (List (Nat × Nat)) :=
  let len := c.fld 32 0 64
  if c.opcode = 0x0010 then some [(c.va 16 + c.done, len - c.done), (c.va 24 + c.done, len - c.done)]
  else if c.opcode = 0x0011 then some [(c.va 16 + c.done, len - c.done)]
  else if c.opcode = 0x0018 then some [(c.va 24 + c.done, len - c.done)]
  else none

/-- Whether a withdrawal stops a command: it has issued bursts, and its remainder needs a withdrawn page (R138, R139). -/
def stops (w : Withdrawal) (c : Cmd) : Bool :=
  c.phase == .running && c.isle == w.isle && c.pages != [] &&
    (match remaining c with
     | some l => l.any (fun r => (pagesOf r.1 r.2).any w.vpages.contains) && c.pages.any (fun p => w.vpages.contains p)
     | none => c.pages.any w.vpages.contains)

/-- Whether a command still waits for flash reads that it issued under the range (R141). DEDUCED (log 98). -/
def flashOpen (s : State) (w : Withdrawal) (c : Cmd) : Bool :=
  s.flash.reads.any (fun r => r.1 == c.key && (getPage s r.2).any (fun g => g.isle == w.isle && g.vpage.any w.vpages.contains))

/-- Tell the home of a KV_APPEND that ends before its time that it is over (R468): a home elsewhere is told by a sub-command of
phase 5 that nothing waits for (log 18). -/
def dropMutation (k : CmdKey) (s : State) : State :=
  match cmd? s k with
  | none => s
  | some c =>
    let home := hPool (kvHandle c)
    if c.opcode ≠ 0x0200 ∨ c.lead.isSome ∨ c.aux = [] ∨ c.phase = .ended then s
    else if isMine s home then endMutation k (spaceOf s home c.isle) s.pool.id (kvHandle c) none s
    else
      let stream := Config.freeChoice s.free % 256
      match portFor s home stream with
      | some port =>
        countSent home stream (emit (.subcmd port home stream (freeTag s stream 512 0) s.maps.cur.epoch c.desc
          { words := [0, 5], bytes := [] }) (nextFree s))
      | none => nextFree s

/-- Cut a command: its unissued remainder ends with ST_TRANSLATION_WITHDRAWN, with the counts its chapter gives it (R139, R154). -/
def cutCmd (id : Nat) (s : State) (c : Cmd) : State :=
  let s := dropMutation c.key (updWd id (fun w => { w with cut := w.cut + 1 }) s)
  if (remaining c).isSome ∨ c.opcode = 0x0012 then endCmd64 c.key stWithdrawn c.done s
  else if c.opcode = 0x0040 then endCmd c.key stWithdrawn 0 0 s
  else endFree c.key stWithdrawn s

/-- The address a waiting request reaches, for a withdrawal's range. -/
def reqTouches (s : State) (w : Withdrawal) (r : Req) : Bool :=
  match target { s with trans := { s.trans with windows := s.trans.windows.map (fun x => (x.1, { x.2 with leaving := false })) } } r with
  | .inl (va, _) => (pagesOf va r.size).any w.vpages.contains
  | .inr _ => false

/-- Answer the waiting requests that a withdrawal stops. -/
def cutRequests (w : Withdrawal) (s : State) : State :=
  let translated := fun (r : Req) => match r.why with
    | some .promotion | some .warmup | some .lineBusy | some .overflow | some .backOff | some .earlierWrites => true
    | _ => false
  let rs := s.links.parked.filter (fun r => translated r && r.isle == w.isle &&
    ((r.origin == .strait && w.windows.contains (bits r.hdr.addr.toNat 40 12)) || reqTouches s w r))
  rs.foldl (fun s r => refuse r stWithdrawn (unpark r.id s)) s

/-- The tracked lines that a withdrawal recalls (R142, R824). -/
def wdLines (s : State) (w : Withdrawal) : List Nat :=
  (s.heddle.dir.filter (fun e =>
    (match ownerOf s e.1 with | some (i, va) => i == w.isle && w.vpages.contains (va / pageSize) | none => false) ||
      (w.windows != [] && s.heddle.agents.any (fun a => a.2.window.any (fun x => w.windows.contains x.1) && isHolder s a.1 e.1)))).map (·.1)

/-- Recall the lines of a withdrawal; a line whose transaction is open is recalled when that has closed. -/
def recallAll (id : Nat) (lines : List Nat) (s : State) : State :=
  lines.foldl (fun s off => if txnOpen s off then s else recallLine off (.withdrawal id) s) s

/-- The sweep ends: cached translations go, no more bursts are issued, and the recall of coherent lines begins (R138–R142). -/
def execWithdrawalSweepDone (id : Nat) (s : State) : Host.Outcome State Fault Refusal :=
  run (fun s =>
    match wd? s id with
    | none => s
    | some w =>
      if w.phase ≠ 1 then s
      else
        let s := w.vpages.foldl (fun s p => tlbDrop (fun t => t.covers w.isle p) s) (updWd id (fun w => { w with phase := 2 }) s)
        let s := (s.bobbin.cmds.filter (fun c => stops w c && !flashOpen s w c)).foldl (cutCmd id) s
        let s := cutRequests w s
        let lines := wdLines s w
        let s := recallAll id lines s
        updWd id (fun w => { w with recalls := lines.filter (txnOpen s) }) s) s

/-- The drain of a withdrawal has ended: commands it stopped and that had waited for their issued bursts are cut. -/
def endDrain (w : Withdrawal) (s : State) : State :=
  updWd w.id (fun w => { w with phase := 3 }) ((s.bobbin.cmds.filter (stops w)).foldl (cutCmd w.id) s)

/-- The last burst and the last recall of a withdrawal are done (R140, R142). -/
def execDrainEnd (id : Nat) (s : State) : Host.Outcome State Fault Refusal :=
  run (fun s =>
    match wd? s id with
    | none => s
    | some w =>
      if w.phase ≠ 2 then s
      else
        let lines := wdLines s w
        let s := recallAll id lines s
        let left := lines.filter (fun l => txnOpen s l || (dirGet s l).isSome)
        if left ≠ [] then updWd id (fun w => { w with recalls := left }) s
        else if s.bobbin.cmds.any (fun c => stops w c && flashOpen s w c) then s
        else endDrain w s) s

/-- The drain bound expires: outstanding flash reads are discarded and their commands cut, and modified data that has not returned
is discarded (R140–R142). -/
def execDrainBoundExpiry (id : Nat) (s : State) : Host.Outcome State Fault Refusal :=
  run (fun s =>
    match wd? s id with
    | none => s
    | some w =>
      if w.phase ≠ 2 then s
      else
        let under := fun (r : CmdKey × Nat) => (getPage s r.2).any (fun g => g.isle == w.isle && g.vpage.any w.vpages.contains)
        let ks := (s.flash.reads.filter under).map (·.1)
        let s := { s with flash := { s.flash with reads := s.flash.reads.filter (fun r => !under r) } }
        let s := (s.bobbin.cmds.filter (fun c => ks.contains c.key && c.phase != .ended)).foldl (cutCmd id) s
        let lines := wdLines s w
        let s := lines.foldl (fun s l =>
          let s := match txnGet s l with | some t => txnSet l { t with discard := true, who := .recall } s | none => s
          dirDel l (intInvalidate l s).2) s
        endDrain { w with cut := 0 } (updWd id (fun w => { w with recalls := [] }) s)) s

/-- Clear the entries of a withdrawal and release what they backed (R102, R135): emptied table pages go too. -/
def clearRange (isle : Nat) (vps : List Nat) (s : State) : State :=
  let s := vps.foldl (fun s vp =>
    match entryOf s isle vp with
    | some e =>
      let p := eOff e / pageSize
      let s := clearEntry isle s vp
      if inTier .scratch p || (twinIsle ≤ isle && !eMirrored e) then s else dropPage p s
    | none => s) s
  vps.foldl (releaseTable isle) s

/-! ## PIN_TIER (R294–R299) -/

def ptTier (c : Cmd) : Tier := if c.fld 16 0 2 = 0 then .hbm else if c.fld 16 0 2 = 1 then .ddr else .flash
def ptUnpin (c : Cmd) : Bool := bit (c.fld 16 0 8) 2

def pinFieldsOk (c : Cmd) : Bool :=
  !descArgBlock c.desc && (if ptUnpin c then c.fld 16 0 2 == 0 else c.fld 16 0 2 != 3) && c.rz 16 3 5 && c.zero 17 23 && c.rz 24 0 16 &&
    c.rz 24 55 9 && c.zero 40 63 && pageRangeOk (c.va 24) (c.fld 32 0 64)

/-- Set or clear the tier_pin of a page (R107). -/
def setTierPin (isle vp : Nat) (b : Bool) (s : State) : State :=
  let s := splitRun isle vp s
  match entryOf s isle vp with
  | some e => putEntry isle vp (eSet e 7 b) s
  | none => s

/-- The status of the checks of one page (R295). -/
def pinCheck (s : State) (isle : Nat) (t : Tier) (vp : Nat) : Nat :=
  match walk s isle vp with
  | .entry e =>
    if inTier .scratch (eOff e / pageSize) then stBadDescriptor
    else if eMirrored e && !inTier t (eOff e / pageSize) then stPermission else stOk
  | _ => stNotMapped

/-- Reserve a page of the named tier for every page that lies elsewhere: its device page plus one, 0 where none is needed. -/
def reservePages (isle : Nat) (t : Tier) : List Nat → State → Option (List Nat × State)
  | [], s => some ([], s)
  | vp :: rest, s =>
    if (entryOf s isle vp).any (fun e => inTier t (eOff e / pageSize)) then
      (reservePages isle t rest s).map (fun x => (0 :: x.1, x.2))
    else if !placeable s isle t then none
    else
      match freePage s t with
      | none => none
      | some p => (reservePages isle t rest (allocPage p isle none 0 0 s)).map (fun x => ((p + 1) :: x.1, x.2))

/-- Release the reservations of a PIN_TIER from page number `i` of its range on. -/
def releaseReserved (c : Cmd) (i : Nat) (s : State) : State :=
  ((c.aux.drop (4 + i)).filter (· != 0)).foldl (fun s x => dropPage (x - 1) s) s

/-- Lines of a device page that the Heddle tracks. -/
def trackedOn (s : State) (p : Nat) : List Nat := (s.heddle.dir.filter (fun e => e.1 / pageSize == p)).map (·.1)

/-- Go on with a pinning PIN_TIER. Progress numbers: page reached, pages moved, pages found in the tier, pages skipped, then the
reservation of each page. DEDUCED (log 73). -/
def pinGo (k : CmdKey) : Nat → State → State
  | 0, s => s
  | fuel + 1, s =>
    match cmd? s k with
    | none => s
    | some c =>
      let vps := pagesOf (c.va 24) (c.fld 32 0 64)
      let i := c.aux.getD 0 0
      let moved := c.aux.getD 1 0
      let found := c.aux.getD 2 0
      let skipped := c.aux.getD 3 0
      let resv := c.aux.getD (4 + i) 0
      let next := fun (m f z : Nat) (s : State) =>
        updCmd k (fun c => { c with aux := [i + 1, moved + m, found + f, skipped + z] ++ c.aux.drop 4 })
          (if resv = 0 then s else if m = 0 then dropPage (resv - 1) s else s)
      match vps[i]? with
      | none => endCmd k (if skipped = 0 then stOk else stNotMapped) moved found s
      | some vp =>
        match walk s c.isle vp with
        | .entry e =>
          let p := eOff e / pageSize
          match getPage s p with
          | none => pinGo k fuel (next 0 0 1 s)
          | some pg =>
            if inTier (ptTier c) p then pinGo k fuel (next 0 1 0 (setTierPin c.isle vp true s))
            else if pg.move.isSome ∨ resv = 0 then s
            else
              let s := (trackedOn s p).foldl (fun s l => if txnOpen s l then s else recallLine l .recall s) s
              if trackedOn s p ≠ [] then s
              else
                let s := dropPage (resv - 1) (splitRun c.isle vp s)
                updPage p (fun g => { g with move := some { dest := (resv - 1) * pageSize, why := 2, marked := 0, readDone := false } }) s
        | _ => pinGo k fuel (next 0 0 1 s)

def execPinTier (k : CmdKey) (s : State) : Host.Outcome State Fault Refusal :=
  run (withCmd k 0x0404 (fun c s =>
    let vps := pagesOf (c.va 24) (c.fld 32 0 64)
    if c.aux ≠ [] then pinGo k (vps.length + 1) s
    else if !pinFieldsOk c then badDesc k s
    else
      match vps.find? (fun p => pinCheck s c.isle (ptTier c) p != stOk && !(ptUnpin c && pinCheck s c.isle (ptTier c) p == stPermission)) with
      | some p => endFree k (pinCheck s c.isle (ptTier c) p) s
      | none =>
        if ptUnpin c then
          if vps.any (planUses s c.isle) then endFree k stPermission s
          else
            let n := (vps.filter (fun p => (entryOf s c.isle p).any eTierPin)).length
            endCmd k stOk n 0 (noteEntries k c.isle vps (vps.foldl (fun s p => setTierPin c.isle p false s) s))
        else
          match reservePages c.isle (ptTier c) vps s with
          | none => endFree k stQuota s
          | some (resv, s) =>
            let s := vps.foldl (fun s p =>
              if (entryOf s c.isle p).any (fun e => inTier (ptTier c) (eOff e / pageSize)) then setTierPin c.isle p true s else s) s
            pinGo k (vps.length + 1) (updCmd k (fun c => { c with aux := [0, 0, 0, 0] ++ resv }) (startCmd k s)))) s

/-- Nothing refers to a command any more that leaves flight before its time: what it started goes on without it. -/
def forget (k : CmdKey) (s : State) : State :=
  let drop := fun (o : Option CmdKey) => if o = some k then none else o
  { s with
    trans := { s.trans with withdrawals := s.trans.withdrawals.map (fun w => { w with cmd := drop w.cmd }) }
    heddle := { s.heddle with agents := s.heddle.agents.map (fun a => (a.1, { a.2 with cmd := drop a.2.cmd })) }
    links := { s.links with ports := s.links.ports.map (fun p => (p.1, { p.2 with cmd := drop p.2.cmd }))
                            outstanding := s.links.outstanding.filter (fun o => o.2.cmd != k) }
    bobbin := { s.bobbin with sqs := s.bobbin.sqs.map (fun q => (q.1, { q.2 with destroyCmd := drop q.2.destroyCmd })) }
    twin := { s.twin with pairCmd := drop s.twin.pairCmd } }

/-- What a command that is aborted gives back: the mutation it holds at a home, the merge it runs, the pages it has reserved; its
migration rolls back (R554). -/
def abandon (k : CmdKey) (s : State) : State :=
  match cmd? s k with
  | none => s
  | some c =>
    let s := forget k (dropMutation k s)
    let s := if s.emb.migration.any (fun m => m.cmd == k) then rollBack stAbortedReset s else s
    let s := { s with atolls := { s.atolls with shards := s.atolls.shards.map (fun x =>
      (x.1, { x.2 with merge := x.2.merge.map (fun m => if m.cmd = some k then { m with cmd := none } else m) })) } }
    if c.opcode = 0x0404 ∧ c.aux ≠ [] ∧ c.phase ≠ .ended ∧ !ptUnpin c then releaseReserved c (c.aux.getD 0 0) s else s

end Sys2Proof.Machine
end

