-- ==== Sys2Proof/Machine/Tide.lean ====
section
/-! DEFINITION. Tide, promotions and moves, flash media outcomes, and the background tasks on memory (chapters 06 and 15). -/

namespace Sys2Proof.Machine

/-! ## Committing a move (R286, R289, R290) -/

/-- Poison and lost marks of a page carried to another page. -/
def shiftMarks (p d : Nat) (l : List Nat) : List Nat :=
  (l.filter (fun x => x / pageSize == p)).foldl (fun acc x => insertNat (d * pageSize + x % pageSize) acc)
    (l.filter (fun x => x / pageSize != p && x / pageSize != d))

/-- The cells of a page carried to another page. -/
def shiftCells (p d : Nat) (m : List Host.Cell) : List Host.Cell :=
  (m.filter (fun c => c.1 / pageSize == p)).foldl (fun acc c => Memory.write acc (d * pageSize + c.1 % pageSize) c.2)
    (m.filter (fun c => c.1 / pageSize != p && c.1 / pageSize != d))

/-- Commit the move of a page to its destination: contents and marks move, the entry is rewritten, the source is released. A page
that comes to DRAM starts with the seed (R277). -/
def commitMove (isle vpage e p d : Nat) (s : State) : State :=
  match getPage s p with
  | none => s
  | some g =>
    let s := { s with store := { s.store with
      cells := shiftCells p d s.store.cells, poison := shiftMarks p d s.store.poison, lost := shiftMarks p d s.store.lost,
      pages := NMap.set (NMap.del s.store.pages p) d
        { g with counter := BitVec.ofNat 16 s.tide.seed, idle := 0, chan := if inTier .flash d then pickChannel s else 0, move := none } } }
    let s := if inTier .flash d then nextFree s else s
    putEntry isle vpage (e - eOff e + d * pageSize) (splitRun isle vpage s)

/-- The move of a mapped page: its entry, its device page and the move. -/
def moveOf (s : State) (isle vpage : Nat) : Option (Nat × Nat × Move) :=
  match entryOf s isle vpage with
  | none => none
  | some e =>
    match getPage s (eOff e / pageSize) with
    | some g => g.move.map (fun m => (e, eOff e / pageSize, m))
    | none => none

/-- Start the promotions that wait for a place, in arrival order (R270). -/
def startWaiting (s : State) : State :=
  let l := s.tide.waiting
  l.foldl (fun s x =>
    match entryOf s x.1 x.2 with
    | none => s
    | some e =>
      match promoTier s x.1 with
      | some t =>
        if (getPage s (eOff e / pageSize)).any (fun g => g.move.isNone) && inTier .flash (eOff e / pageSize) then
          startPromotion x.1 x.2 (eOff e / pageSize) t s
        else s
      | none => s) { s with tide := { s.tide with waiting := [] } }

/-- The requests that wait for a page are served again. -/
def wakePage (isle vpage : Nat) (s : State) : State :=
  pumpAll (release (fun r => (r.why == some .promotion || r.why == some .warmup) && r.key == pageKey isle vpage) s)

/-- A promotion's copy has ended: it commits, the loads that joined it are served, and waiting promotions start (R270, R271). -/
def execPromotionCommit (isle page : Nat) (s : State) : Host.Outcome State Fault Refusal :=
  run (fun s =>
    match moveOf s isle page with
    | some (e, p, m) =>
      if m.why = 1 ∧ m.readDone then startWaiting (wakePage isle page (commitMove isle page e p (m.dest / pageSize) s)) else s
    | none => s) s

/-- The PIN_TIER that moves a page goes on after its move. DEDUCED (log 73). -/
def pinMoved (isle page : Nat) (s : State) : State :=
  match s.bobbin.cmds.find? (fun c => c.opcode == 0x0404 && c.phase == .running && c.isle == isle && !ptUnpin c &&
      (pagesOf (c.va 24) (c.fld 32 0 64))[c.aux.getD 0 0]? == some page) with
  | none => s
  | some c =>
    let a := c.aux
    let s := setTierPin isle page true s
    pinGo c.key ((pagesOf (c.va 24) (c.fld 32 0 64)).length + 1)
      (updCmd c.key (fun c => { c with aux := [a.getD 0 0 + 1, a.getD 1 0 + 1, a.getD 2 0, a.getD 3 0] ++ a.drop 4 }) s)

/-- A Tide or PIN_TIER move commits (R286, R296). A move out of flash needs its read. -/
def execMoveCommit (isle page : Nat) (s : State) : Host.Outcome State Fault Refusal :=
  run (fun s =>
    match moveOf s isle page with
    | some (e, p, m) =>
      if m.why = 1 ∨ (inTier .flash p ∧ !m.readDone) then s
      else
        let s := wakePage isle page (commitMove isle page e p (m.dest / pageSize) s)
        if m.why = 2 then pinMoved isle page s else s
    | none => s) s

/-! ## The tiering epoch (R274–R283, R291) -/

/-- Insert in a list ordered by a key; equal keys keep their order. -/
def insertBy (key : Nat × Page → Nat) (x : Nat × Page) : List (Nat × Page) → List (Nat × Page)
  | [] => [x]
  | y :: r => if key x < key y then x :: y :: r else y :: insertBy key x r

def sortBy (key : Nat × Page → Nat) (l : List (Nat × Page)) : List (Nat × Page) := l.foldl (fun acc x => insertBy key x acc) []

/-- The progress of one evaluation: free pages of HBM and DDR as the evaluation counts them, and what is left of the budget. -/
structure Eval where
  hbm  : Nat
  ddr  : Nat
  left : Nat
  deriving DecidableEq, Repr

/-- Whether Tide may move a page at all (R278). -/
def tideMay (s : State) (g : Page) : Bool :=
  match g.vpage with
  | none => false
  | some vp =>
    match walk s g.isle vp with
    | .entry e => (eType e == 0 || eType e == 2) && !eTierPin e && !eMirrored e && g.move.isNone
    | _ => false

/-- Whether a flash channel accepts a demotion (R305). -/
def demotable (s : State) : Bool := s.flash.chans.any (fun c => c.2.present && !c.2.full && !c.2.wearLow && !c.2.failed)

/-- move() of R280 and R281: true where the move is started. -/
def tideMove (p : Nat) (t : Tier) (s : State) : Bool × State :=
  match getPage s p with
  | none => (false, s)
  | some g =>
    if !tideMay s g then (false, s)
    else if trackedOn s p ≠ [] then (false, { s with tide := { s.tide with skipped := s.tide.skipped + 1 } })
    else if !tierRoom s g.isle t || (t == .flash && !demotable s) then (false, s)
    else
      match freePage s t with
      | none => (false, s)
      | some d => (true, updPage p (fun g => { g with move := some { dest := d * pageSize, why := 0, marked := 0, readDone := false } }) s)

/-- Try the candidates of one step in order, while `go` holds; `eff` is a started move's effect on the free pages. -/
def tideStep (t : Tier) (go : Eval → Bool) (eff : Eval → Eval) (l : List (Nat × Page)) (v : Eval) (s : State) : Eval × State :=
  l.foldl (fun (r : Eval × State) x =>
    if go r.1 then
      let m := tideMove x.1 t r.2
      if m.1 then ({ eff r.1 with left := r.1.left - 1 }, m.2) else (r.1, m.2)
    else r) (v, s)

/-- A percentage of a number of pages. -/
def percent (pct n : Nat) : Nat := n * pct / 100

/-- The evaluation of R280. -/
def tideEval (s : State) : State :=
  let t := s.tide
  let hbmLow := percent t.hbmLow hbmPages
  let hbmTarget := percent t.hbmTarget hbmPages
  let ddrLow := percent t.ddrLow (ddrPages s)
  let ddrTarget := percent t.ddrTarget (ddrPages s)
  let cnt := fun (x : Nat × Page) => x.2.counter.toNat
  let v : Eval := { hbm := freePages s .hbm, ddr := freePages s .ddr, left := t.maxMoves }
  let cold := sortBy cnt (s.store.pages.filter (fun x => inTier .hbm x.1 && cnt x < t.ddrThreshold))
  let r := if v.hbm < hbmLow then
      tideStep .ddr (fun v => v.hbm < hbmTarget && v.left != 0) (fun v => { v with hbm := v.hbm + 1, ddr := v.ddr - 1 }) cold v s
    else (v, s)
  let hot := sortBy (fun x => 0xFFFF - cnt x) (r.2.store.pages.filter (fun x => inTier .ddr x.1 && t.hbmThreshold ≤ cnt x))
  let r := tideStep .hbm (fun v => hbmLow < v.hbm && v.left != 0) (fun v => { v with hbm := v.hbm - 1, ddr := v.ddr + 1 }) hot r.1 r.2
  let idle := sortBy (fun x => 255 - x.2.idle.toNat) (r.2.store.pages.filter (fun x => inTier .ddr x.1 && t.flashIdle ≤ x.2.idle.toNat))
  if r.1.ddr < ddrLow then
    (tideStep .flash (fun v => v.ddr < ddrTarget && v.left != 0) (fun v => { v with ddr := v.ddr + 1 }) idle
      { r.1 with left := t.maxDemotes } r.2).2
  else r.2

/-- A tiering-epoch boundary: the evaluation, unless the hold, the enable or unfinished moves keep it back (R282, R284, R291), then
every counter is halved and every idle count grows (R276). -/
def execTieringEpoch (s : State) : Host.Outcome State Fault Refusal :=
  run (fun s =>
    let s := { s with emb := { s.emb with epochs := s.emb.epochs + 1 } }
    let moving := s.store.pages.any (fun x => x.2.move.any (fun m => m.why == 0))
    let s := if s.tide.enable && !s.tide.warmup && !moving then tideEval s else s
    { s with store := { s.store with pages := s.store.pages.map (fun x =>
      (x.1, { x.2 with counter := x.2.counter >>> 1, idle := if x.2.idle = 255 then 255 else x.2.idle + 1 })) } }) s

/-- The warm-up hold has lasted warmup_epochs epochs: what waited for its end is served (R291, R292). -/
def execWarmupEnd (s : State) : Host.Outcome State Fault Refusal :=
  run (fun s =>
    if s.tide.warmup ∧ s.tide.warmupEpochs ≤ s.emb.epochs then
      pumpAll (release (fun r => r.why == some .warmup) { s with tide := { s.tide with warmup := false } })
    else s) s

/-! ## Flash media (R273, R304–R306, R732, R734) -/

def updChan (n : Nat) (f : Chan → Chan) (s : State) : State := { s with flash := { s.flash with chans := NMap.upd s.flash.chans n f } }

/-- The channel that holds a flash page. -/
def chanOf (s : State) (off : Nat) : Nat := match getPage s (off / pageSize) with | some g => g.chan | none => 0

/-- The 256 lines of the NAND page under an offset are lost (R734). -/
def loseNand (off : Nat) (s : State) : State :=
  if !inTier .flash (off / pageSize) || (getPage s (off / pageSize)).isNone then s
  else
    let base := off / 16384 * 16384
    lineEvent evFlashDataLost (chanOf s off) base ((List.range 256).foldl (fun s i => setLost (base + 64 * i) s) s)

/-- A spare block of a channel is used up (R305). DEDUCED (log 71). -/
def useSpare (n : Nat) (s : State) : State :=
  match NMap.get? s.flash.chans n with
  | none => s
  | some c =>
    let spare := c.spare - 1
    let low := decide (100 * spare < 2 * Config.flashBlocks c.capacity)
    let s := updChan n (fun c => { c with spare := spare, retired := c.retired + 1, wearLow := c.wearLow || low, full := c.full || spare == 0 }) s
    if low && !c.wearLow then raise (event evFlashWear n 0 (spare % 2 ^ 32) 0) s else s

/-- The read of a flash page for a move or a DMA command ends (R264, R273, R732). A move is abandoned where the page cannot be read
or holds lines already lost (R297; log 23). -/
def execFlashReadDone (off : Nat) (outcome : Media) (restored : Bool) (s : State) : Host.Outcome State Fault Refusal :=
  run (fun s =>
    let p := off / pageSize
    let readers := (s.flash.reads.filter (fun r => r.2 == p)).map (·.1)
    match getPage s p with
    | none => s
    | some g =>
      if !inTier .flash p || (readers = [] && g.move.isNone) then s
      else
        let s := if outcome = .transient then { s with flash := { s.flash with readTransient := s.flash.readTransient + 1 } } else s
        let s := { s with flash := { s.flash with reads := s.flash.reads.filter (fun r => r.2 != p) } }
        let s := readers.foldl (fun s k => updCmd k (fun c => { c with flashRead := c.flashRead ++ [p] }) s) s
        if (outcome ≠ .lasting ∨ restored) ∧ (!pageLost s p || g.move.isNone) then updPage p (fun g => { g with move := g.move.map (fun m => { m with readDone := true }) }) s
        else
          -- the promotion or move is abandoned, and what joined it ends with ST_DATA_LOST
          let s := updPage p (fun g => { g with move := none }) (if outcome = .lasting ∧ !restored then loseNand off s else s)
          match g.vpage with
          | none => s
          | some vp =>
            let waiting := s.links.parked.filter (fun r => r.why == some .promotion && r.key == pageKey g.isle vp)
            let s := waiting.foldl (fun s r => refuse r stDataLost (unpark r.id s)) s
            let s :=
              if g.move.any (·.why == 2) then
                match s.bobbin.cmds.find? (fun c => c.opcode == 0x0404 && c.phase == .running && c.isle == g.isle && !ptUnpin c &&
                    (pagesOf (c.va 24) (c.fld 32 0 64))[c.aux.getD 0 0]? == some vp) with
                | some c => endFree c.key stDataLost (releaseReserved c (c.aux.getD 0 0 + 1) s)
                | none => s
              else s
            startWaiting s) s

def execFlashProgramDone (off : Nat) (outcome : Media) (s : State) : Host.Outcome State Fault Refusal :=
  run (fun s =>
    match outcome with
    | .clean => s
    | .transient => { s with flash := { s.flash with progTransient := s.flash.progTransient + 1 } }
    | .lasting => useSpare (chanOf s off) s) s

def execFlashEraseDone (chan : Nat) (outcome : Media) (s : State) : Host.Outcome State Fault Refusal :=
  run (fun s =>
    match outcome with
    | .clean => s
    | .transient => { s with flash := { s.flash with eraseTransient := s.flash.eraseTransient + 1 } }
    | .lasting => useSpare chan s) s

/-- A flash channel fails: its reads are rebuilt from parity, with the same contents (R306). -/
def execChannelFailed (chan : Nat) (s : State) : Host.Outcome State Fault Refusal :=
  run (fun s =>
    match NMap.get? s.flash.chans chan with
    | some c => if c.failed then s else raise (event evChannelFailed chan 0 0 0) (updChan chan (fun c => { c with failed := true }) s)
    | none => s) s

/-- Garbage collection and wear levelling leave a channel with a number of spare blocks (R304, R305); they move no contents that a
reader can see. DEDUCED (log 71). -/
def execGarbageCollection (chan spare : Nat) (s : State) : Host.Outcome State Fault Refusal :=
  run (fun s =>
    match NMap.get? s.flash.chans chan with
    | none => s
    | some c =>
      let low := decide (100 * spare < 2 * Config.flashBlocks c.capacity)
      let s := updChan chan (fun c => { c with spare := spare, wearLow := c.wearLow || low, full := spare == 0 }) s
      if low && !c.wearLow then raise (event evFlashWear chan 0 (spare % 2 ^ 32) 0) s else s) s

/-- A scrub of a NAND page (R735). -/
def execFlashScrub (off : Nat) (outcome : Media) (restored : Bool) (s : State) : Host.Outcome State Fault Refusal :=
  run (fun s =>
    match outcome with
    | .clean => s
    | .transient => { s with flash := { s.flash with readTransient := s.flash.readTransient + 1 } }
    | .lasting => if restored then s else loseNand off s) s

/-! ## DRAM scrub (R261, R732, R733, R736) -/

/-- Patrol scrub reads a DRAM line: a corrected one is rewritten as it was, a poisoned one is left (R736). -/
def execPatrolScrub (off : Nat) (corrected : Bool) (outcome : Media) (s : State) : Host.Outcome State Fault Refusal :=
  run (fun s =>
    let line := lineOf off
    if !(inTier .hbm (off / pageSize) || inTier .ddr (off / pageSize)) || isPoisoned s line || corrected then s
    else
      match outcome with
      | .clean => s
      | .transient => { s with store := { s.store with eccTransient := s.store.eccTransient + 1 } }
      | .lasting => dramFault line s) s

/-- Harbour firmware samples its sensors (R735): the readings themselves come with THERMAL_SAMPLE, and nothing else changes. -/
def execTelemetrySample (s : State) : Host.Outcome State Fault Refusal := run id s

end Sys2Proof.Machine
end

