-- ==== Sys2Proof/Machine/Serve.lean ====
section
/-! DEFINITION. Sub-commands at a peer and their answers at the lead (chapters 01 and 13), the answers to what the device sent, and
the composition map: its installation, a migration's commit notice, the epoch hold and the grace (chapters 02 and 11). -/

namespace Sys2Proof.Machine

/-! ## Serving a sub-command -/

/-- A home's share of a sub-command's command, by its opcode. -/
def homeShare (k : CmdKey) (c : Cmd) (s : State) : Home × State :=
  match c.opcode with
  | 0x0100 => homeGather k c.isle (gaTable c) (subWords c.data) s
  | 0x0101 => homeUpdate k c.isle (leadOf s c) c c.data s
  | 0x0102 => homeClose k c.isle (leadOf s c) c c.data s
  | 0x0200 => homeKv k c.isle (leadOf s c) c c.data s
  | 0x0201 => homeAttn k c.isle c c.data s
  | 0x0204 => homeFork k c.isle c c.data s
  | 0x0205 => homePublish c.isle c (subWords c.data) s
  | 0x0206 => homeOffer c.isle ((subWords c.data).headD 0) c s
  | 0x0207 => homeAccept c.isle ((subWords c.data).headD 0) c s
  | 0x0208 => homeSeqRelease c.isle c c.data s
  | 0x0209 => homeQuery c.isle c s
  | 0x0300 => homeSearch k c.isle c c.data s
  | 0x0301 => homeInsert c.isle c c.data s
  | 0x0302 => homeDelete c.isle c c.data s
  | 0x0F20 => homeMigrate k c c.data s
  | _ => (.st stBadDescriptor, s)

/-- Serve a sub-command as far as it goes now. -/
def serveSub (k : CmdKey) (s : State) : State :=
  match cmd? s k with
  | none => s
  | some c =>
    if !runnable s c then s
    else
      let s := startCmd k s
      if c.opcode = 0x0201 ∧ subPhase c.data ≠ 0 then
        withClusters k (fun st s => endServed k (.st st) s)
          (fun s => let r := homeShare k (cmdNow s c) s; endServed k r.1 r.2) s
      else let r := homeShare k c s; endServed k r.1 r.2

/-- Go on with a lead's command once answers have come. -/
def advance (k : CmdKey) (s : State) : State :=
  match cmd? s k with
  | none => s
  | some c =>
    if c.lead.isSome ∨ c.aux = [] ∨ c.phase ≠ .running then s
    else
      match c.opcode with
      | 0x0100 => gatherGo k s
      | 0x0101 => updateGo k 3 s
      | 0x0102 => closeGo k 3 s
      | 0x0200 => appendGo k 7 s
      | 0x0201 => attnGo k 4 s
      | 0x0204 => forkGo k 4 s
      | 0x0205 => homeOnlyGo k (fun c isle d s => homePublish isle c (subWords d) s) s
      | 0x0206 => homeOnlyGo k (fun c isle d s => homeOffer isle ((subWords d).headD 0) c s) s
      | 0x0207 => homeOnlyGo k (fun c isle d s => homeAccept isle ((subWords d).headD 0) c s) s
      | 0x0208 => releaseSeqGo k 3 s
      | 0x0209 => queryGo k s
      | 0x0300 => searchGo k 3 s
      | 0x0301 => insertGo k 3 s
      | 0x0302 => deleteGo k s
      | 0x0F20 => migrateGo k s
      | _ => s

/-! ## Judging a sub-command (R87, R88, R552, R553) -/

/-- The rows that a sub-command of an embedding table names. -/
def subRows (op : Nat) (d : SubData) : List Nat :=
  if op = 0x0100 then subWords d else if op = 0x0101 ∧ subPhase d = 1 then (pairsOf (subWords d)).map (·.1) else []

/-- The home, other than this pool id, that a map names for the object of a sub-command; none where this pool id is its home or
the object is in no map. -/
def otherHome (m : CompMap) (pool isle desc : Nat) (d : SubData) : Option Nat :=
  let op := bits desc 0 16
  if op = 0x0100 ∨ op = 0x0101 ∨ op = 0x0102 then
    match NMap.get? m.tables (if op = 0x0102 then bits desc 128 16 else bits desc 256 16) with
    | none => some 0xFFF
    | some t =>
      if t.isle ≠ isle % twinIsle then some 0xFFF
      else
        match (subRows op d).find? (fun r => rowHome t r != pool) with
        | some r => some (rowHome t r)
        | none => if (tableHomes t).any (fun h => h.1 == pool) then none else some ((tableHomes t).headD (0xFFF, 0)).1
  else if op = 0x0300 ∨ op = 0x0301 ∨ op = 0x0302 then
    match NMap.get? m.atolls (bits desc 256 16) with
    | none => some 0xFFF
    | some a => if a.isle = isle % twinIsle ∧ a.homes.contains pool then none else some (a.homes.headD 0xFFF)
  else none

/-- The new home of a FORWARDED slot that a sub-command stamped with its epoch names (R552). -/
def forwardedTo (s : State) (e : BitVec 8) (desc : Nat) (d : SubData) : Option Nat :=
  let op := bits desc 0 16
  match NMap.get? s.maps.cur.tables (bits desc 256 16) with
  | none => none
  | some t =>
    (s.emb.forwarded.find? (fun f => f.2.2.2 == e && f.1 == bits desc 256 16 && (op == 0x0100 || op == 0x0101) &&
      (subRows op d).any (fun r => slotIndex t r == f.2.1))).map (·.2.2.1)

/-- End a sub-command that is not served; its counts are open (log 8). DEDUCED (log 75). -/
def refuseSub (h : Hdr) (status detail : Nat) (s : State) : State :=
  let v := (Config.freeWord s.free).toNat
  emitReply h (fun p => .subDone p h.src h.stream h.tag status detail (v % 2 ^ 32) (v / 2 ^ 32) noData) (nextFree s)

/-- The key under which a sub-command served here is held. -/
def subKey (id : Nat) : CmdKey := { sq := 4096, seq := BitVec.ofNat 32 id }

/-- Hold a sub-command: for a new map, or, with its pool id in `aux`, for a takeover (R87, R724). -/
def holdSub (h : Hdr) (id desc : Nat) (d : SubData) (aux : List Nat) (s : State) : State :=
  let c : Cmd := { freshCmd (subKey id) 0 desc .held with lead := some h, data := d, aux := aux }
  { s with bobbin := { s.bobbin with cmds := s.bobbin.cmds ++ [c] } }

/-- A sub-command is forwarded to the slot's new home, which gives up a reservation made here (R552). -/
def forwardSub (h : Hdr) (isle dst desc : Nat) (d : SubData) (s : State) : State :=
  let c := freshCmd (subKey 0) isle desc .held
  let s := if bits desc 0 16 = 0x0101 then (homeRelease isle (gaTable c) h.src (upSeq c) (upStep c) s).2 else s
  match portFor s dst h.stream with
  | some p => countSent dst h.stream (emit (.forward p dst h desc { d with words := 1 :: d.words.drop 1 }) s)
  | none => s

/-- A sub-command with its place: bound, judged by its epoch, and served (R22, R29, R57, R87, R552, R553, R827). DEDUCED (log 75). -/
def judgeSub (h : Hdr) (id desc : Nat) (d : SubData) (s : State) : State :=
  let pool := bits h.addr.toNat 52 12
  let held := heldPool s pool
  match bindOf s held h.port h.src h.stream with
  | none => refuseSub h stPermission 0 (updPort h.port (fun p => { p with nobind := p.nobind + 1 }) s)
  | some (isle, _) =>
    if h.rsv || h.sync != 0 then refuseSub h stBadDescriptor 0 s
    else if !isMine s pool then refuseSub h stNotMapped 0 s
    else if !isleActive s isle then refuseSub h stPermission 0 s
    else if 16384 ≤ s.bobbin.cmds.length then refuseSub h stQuota 0 s
    else
      let go := fun (s : State) =>
        let c : Cmd := { freshCmd (subKey id) isle desc .ready with lead := some h, data := d, epoch := h.epoch }
        serveSub c.key { s with bobbin := { s.bobbin with cmds := s.bobbin.cmds ++ [c] } }
      let stale := refuseSub h stStaleEpoch s.maps.cur.epoch.toNat
      if subFlag d = 1 then
        match otherHome s.maps.cur pool isle desc d with
        | none => go s
        | some p => refuseSub h stReroute p s
      else
        match forwardedTo s h.epoch desc d with
        | some p => if s.maps.grace then forwardSub h isle p desc d s else refuseSub h stReroute p s
        | none =>
          match epochVerdict s h.epoch with
          | 0 => go s
          | 1 => holdSub h id desc d [] s
          | 3 =>
            let both := (otherHome s.maps.cur pool isle desc d).isNone && s.maps.prev.any (fun m => (otherHome m pool isle desc d).isNone)
            if both then go s else stale s
          | _ => stale s

/-- A SUBCMD arrives. It is taken only from a joined member (R622); a partner's pool id is answered as R724 states. -/
def execSubcmd (h : Hdr) (desc : Nat) (data : SubData) (s : State) : Host.Outcome State Fault Refusal :=
  run (fun s =>
    let pool := bits h.addr.toNat 52 12
    if 24 ≤ h.port then s
    else
      let a := receive h (heldPool s pool) s
      if !a.1 then a.2
      else
        let id := a.2.links.nextId
        let s := takeId a.2
        if portClosed s h.port h.src || !s.pool.members.contains h.src then refuseSub h stPermission 0 s
        else if isPartner s pool then
          if s.twin.probing then holdSub h id desc data [pool] s else refuseSub h stReroute s.twin.partner s
        else pumpAll (judgeSub h id desc data s)) s

/-- Look again at the held sub-commands: those held for a new map, or those held for a takeover. -/
def rejudge (takeover : Bool) (s : State) : State :=
  (s.bobbin.cmds.filter (fun (c : Cmd) => c.key.sq == 4096 && c.phase == Phase.held && (c.aux != []) == takeover)).foldl (fun s (c : Cmd) =>
    match c.lead with
    | some h => judgeSub h c.key.seq.toNat c.desc c.data (dropCmd c.key s)
    | none => s) s

/-! ## Answers to what the device sent (R23–R27, R630, R724) -/

/-- The outstanding request that a message answers: a pair of stream and tag is outstanding once (R630). A forwarded sub-command is
answered by the new home itself (R552). -/
def outstandingOf (s : State) (h : Hdr) : Option (Nat × Outstanding) :=
  s.links.outstanding.find? (fun o => o.2.stream == h.stream && o.2.tag == h.tag)

def dropOutstanding (id : Nat) (s : State) : State :=
  { s with links := { s.links with outstanding := NMap.del s.links.outstanding id } }

def updRoute (pid : Nat) (f : Route → Route) (s : State) : State :=
  { s with links := { s.links with routes := NMap.set s.links.routes pid (f (routeOf s pid)) } }

/-- A sub-command is answered: a reroute is followed once (R25), and the lead goes on. -/
def subAnswered (id : Nat) (o : Outstanding) (status hint c0 c1 : Nat) (d : SubData) (s : State) : State :=
  let s := dropOutstanding id s
  let s := if o.direct then updRoute o.dest (fun r => { r with redirected := false }) s else s
  match (cmd? s o.cmd).bind (fun c => c.subs[o.shard]?) with
  | none => s
  | some x =>
    if status = stReroute ∧ !x.resent then
      let again := fun (x : Sub) =>
        let d : SubData := { words := 1 :: x.data.words.drop 1, bytes := x.data.bytes }
        { x with peer := hint, resent := true, tag := none, data := d }
      let s := updSub o.cmd o.shard again s
      advance o.cmd (if isMine s hint then s else sendSub o.cmd o.shard hint true (routeOf s hint).redirected s)
    else
      let done := fun (x : Sub) =>
        { x with status := some status, answer := d, tag := none, counts := (if status = stReroute then hint else c0, c1) }
      advance o.cmd (updSub o.cmd o.shard done s)

/-- Take a message that answers the device, and act on the outstanding request it names. -/
def answerIn (h : Hdr) (f : Nat → Outstanding → State → State) (s : State) : State :=
  let a := receive h false s
  if !a.1 then a.2
  else
    match outstandingOf a.2 h with
    | none => a.2
    | some (id, o) => f id o a.2

/-- SUBCMD_DONE: the hint of a reroute stands in the detail. -/
def execSubcmdDone (h : Hdr) (code : Nat) (detail : BitVec 32) (count0 count1 : Nat) (data : SubData) (s : State) :
    Host.Outcome State Fault Refusal :=
  run (answerIn h (fun id o s => pumpAll (subAnswered id o code (detail.toNat % 4096) count0 count1 data s))) s

/-- STATUS ends a request that the device sent: a sub-command with that status and no result. -/
def execStatus (h : Hdr) (code : Nat) (detail : BitVec 32) (s : State) : Host.Outcome State Fault Refusal :=
  run (answerIn h (fun id o s => pumpAll (subAnswered id o code (detail.toNat % 4096) 0 0 noData s))) s

/-- PROGRESS restarts the timeout of a request; the model keeps no time, and the timeout is an event of its own (R630). -/
def execProgress (h : Hdr) (s : State) : Host.Outcome State Fault Refusal := run (answerIn h (fun _ _ s => s)) s

/-- RETRY: the request is resent when its back-off ends (R238). -/
def execRetry (h : Hdr) (_backoff : Nat) (s : State) : Host.Outcome State Fault Refusal :=
  run (answerIn h (fun id _ s =>
    { s with links := { s.links with outstanding := NMap.upd s.links.outstanding id (fun o => { o with backOff := true }) } })) s

/-- The device sends no data request, so that data arriving for one answers nothing (log 24). -/
def execReadData (h : Hdr) (_code _first : Nat) (_lines : List WireLine) (s : State) : Host.Outcome State Fault Refusal :=
  run (answerIn h (fun _ _ s => s)) s

def execRunCont (h : Hdr) (_first : Nat) (_lines : List WireLine) (s : State) : Host.Outcome State Fault Refusal :=
  run (answerIn h (fun _ _ s => s)) s

def execAtomicResult (h : Hdr) (_code : Nat) (_prior : BitVec 128) (s : State) : Host.Outcome State Fault Refusal :=
  run (answerIn h (fun _ _ s => s)) s

/-- A back-off ends: an internal requester tries again (R239), and a request refused with RETRY is resent (R238). -/
def execBackOffExpiry (id : Nat) (s : State) : Host.Outcome State Fault Refusal :=
  run (fun s =>
    match NMap.get? s.links.outstanding id with
    | some o =>
      if o.backOff then sendSub o.cmd o.shard o.dest false o.direct (dropOutstanding id s) else s
    | none => pumpAll (release (fun r => r.id == id && r.why == some .backOff) s)) s

/-- Resend an outstanding request once (R26, R654); one that was resent before fails with ST_TIMEOUT. -/
def resendOnce (s : State) (id : Nat) : State :=
  match NMap.get? s.links.outstanding id with
  | none => s
  | some o =>
    match (cmd? s o.cmd).bind (fun c => c.subs[o.shard]?) with
    | none => dropOutstanding id s
    | some x =>
      if x.resent then subAnswered id o stTimeout 0 0 0 noData s
      else sendSub o.cmd o.shard o.dest false false (updSub o.cmd o.shard (fun x => { x with resent := true }) (dropOutstanding id s))

/-- Redirect a pool id to its twin alias and resend what is outstanding to it (R654). Cause 1 is a loss of signal, 2 a timeout. DEDUCED (log 91). -/
def redirect (pid cause : Nat) (s : State) : State :=
  let r := routeOf s pid
  match r.twinAlias with
  | none => s
  | some a =>
    if r.redirected then s
    else
      let s := raise (event evPeerRedirected 0 pid a cause) (updRoute pid (fun r => { r with redirected := true }) s)
      ((s.links.outstanding.filter (fun o => o.2.dest == pid)).map (·.1)).foldl resendOnce s

/-- A request times out: its pool id is redirected, or it is resent to the alias in force, or it fails (R26, R27, R630, R631). -/
def timeOut (id : Nat) (s : State) : State :=
  match NMap.get? s.links.outstanding id with
  | none => s
  | some o =>
    let r := routeOf s o.dest
    if r.twinAlias.isSome && !r.redirected then redirect o.dest 2 s
    else if r.twinAlias.isSome then resendOnce s id
    else subAnswered id o stTimeout 0 0 0 noData s

def execRequestTimeout (id : Nat) (s : State) : Host.Outcome State Fault Refusal :=
  run (fun s =>
    match NMap.get? s.links.outstanding id with
    | none => s
    | some o => if (NMap.get? s.links.ports o.port).any (·.suspended) then s else pumpAll (timeOut id s)) s

/-! ## Composition maps (R87–R95, R511, R512, R515, R558) -/

/-- The slots of a table block (R512). -/
def slotsOf (bs : List Byte) (n : Nat) : List Slot :=
  (List.range n).map (fun i =>
    let w := field bs (16 * i) 8
    { first := bits w 0 40, pool := bits w 40 12, va := field bs (16 * i + 8) 8 })

/-- Whether first rows begin at 0, rise, and stay below `rows`; shard addresses are 64-byte aligned isle virtual addresses. -/
def slotsOk (bs : List Byte) (n rows : Nat) : Bool :=
  let l := slotsOf bs n
  (l.map (·.first)).headD 1 == 0 && (l.zip (l.drop 1)).all (fun p => p.1.first < p.2.first) && l.all (fun x => x.first < rows) &&
    l.all (fun x => x.va % 64 == 0 && x.va < 2 ^ 55) && (List.range n).all (fun i => field bs (16 * i) 8 < 2 ^ 52)

/-- A table record and its slots, with the bytes after them (R511). -/
def parseTable (bs : List Byte) : Option (Nat × Table × List Byte) :=
  let f := fun (o n : Nat) => field bs o n
  let id := f 0 2
  let fmt := bits (f 4 1) 0 4
  let sr := bit (f 4 1) 5
  let opt := bits (f 4 1) 6 2
  let n := bits (f 16 2) 0 13
  let size := 64 + ceilDiv (16 * n) 64 * 64
  let ok := size ≤ bs.length && id != 0 && bits (f 2 2) 0 14 != 0 && bits (f 2 2) 14 2 == 0 && [0, 1, 2, 3, 4, 10].contains fmt &&
    (!sr || fmt == 1) && f 5 1 == 0 && 1 ≤ bits (f 6 2) 0 13 && bits (f 6 2) 0 13 ≤ 4096 && bits (f 6 2) 13 3 == 0 &&
    1 ≤ f 8 8 && f 8 8 < 2 ^ 40 && 1 ≤ n && n ≤ 4096 && bits (f 16 2) 13 3 == 0 && f 18 2 == 0 && (opt == 2 || f 24 4 == 0) &&
    (sr || f 28 4 == 0) && f 32 8 % 65536 == 0 && f 32 8 < 2 ^ 55 &&
    (if opt = 3 then f 40 8 == 0 else f 40 8 != 0 && f 40 8 % 65536 == 0) && zeros bs 48 16 &&
    slotsOk (bs.drop 64) n (f 8 8) && zeros bs (64 + 16 * n) (size - 64 - 16 * n)
  if ok then
    let t : Table :=
      { isle := bits (f 2 2) 0 14, fmt := fmt, sat := bit (f 4 1) 4, sr := sr, opt := opt, width := bits (f 6 2) 0 13, rows := f 8 8,
        firstStep := BitVec.ofNat 32 (f 20 4), eps := f 24 4, srSeed := f 28 4, stagingVa := f 32 8, stagingLen := f 40 8,
        slots := slotsOf (bs.drop 64) n }
    some (id, t, bs.drop size)
  else none

/-- An Atoll block with the bytes after it (R558). -/
def parseAtoll (bs : List Byte) : Option (Nat × AtollRec × List Byte) :=
  let f := fun (o n : Nat) => field bs o n
  let n := bits (f 4 2) 0 10
  let size := 64 + ceilDiv (2 * n) 64 * 64
  let homes := (List.range n).map (fun i => f (64 + 2 * i) 2)
  let ok := size ≤ bs.length && f 0 2 != 0 && bits (f 2 2) 0 14 != 0 && bits (f 2 2) 14 2 == 0 && 1 ≤ n && n ≤ 512 &&
    bits (f 4 2) 10 6 == 0 && zeros bs 6 58 && homes.all (· < 4096) && homes.eraseDups.length == n &&
    zeros bs (64 + 2 * n) (size - 64 - 2 * n)
  if ok then some (f 0 2, { isle := bits (f 2 2) 0 14, homes := homes }, bs.drop size) else none

/-- `n` blocks in ascending id, with the bytes after them (R94). -/
def parseBlocks {α : Type} (one : List Byte → Option (Nat × α × List Byte)) : Nat → Nat → List Byte → Option (NMap α × List Byte)
  | 0, _, bs => some ([], bs)
  | n + 1, last, bs =>
    match one bs with
    | none => none
    | some (id, x, rest) =>
      if id ≤ last then none
      else
        match parseBlocks one n id rest with
        | none => none
        | some (l, r) => some ((id, x) :: l, r)

/-- A composition map (R94). -/
def parseMap (bs : List Byte) : Option CompMap :=
  let f := fun (o n : Nat) => field bs o n
  let nt := bits (f 4 2) 0 11
  let na := bits (f 6 2) 0 9
  if !(f 0 2 == 1 && f 3 1 == 0 && nt ≤ 1024 && bits (f 4 2) 11 5 == 0 && na ≤ 256 && bits (f 6 2) 9 7 == 0 && f 8 4 == bs.length &&
      zeros bs 12 52) then none
  else
    match parseBlocks parseTable nt 0 (bs.drop 64) with
    | none => none
    | some (ts, rest) =>
      match parseBlocks parseAtoll na 0 rest with
      | some (l, []) => some { epoch := BitVec.ofNat 8 (f 2 1), tables := ts, atolls := l }
      | _ => none

/-- Whether every table and Atoll of both maps keeps the fields that may not change (R95). -/
def mapKeeps (old new : CompMap) : Bool :=
  new.tables.all (fun t => match NMap.get? old.tables t.1 with
    | some o => { t.2 with rows := o.rows, slots := o.slots } == o
    | none => true) &&
    new.atolls.all (fun a => match NMap.get? old.atolls a.1 with | some o => a.2.isle == o.isle | none => true)

/-- Open steps of the tables that a map first gives the device (R515), in its own space and in its partner's. -/
def openSteps (m : CompMap) (s : State) : State :=
  let hold := fun (pid base : Nat) (s : State) => m.tables.foldl (fun s t =>
    if pid != 0xFFF && t.2.slots.any (fun x => x.pool == pid) && (NMap.get? s.emb.openStep (base + t.1)).isNone then
      { s with emb := { s.emb with openStep := NMap.set s.emb.openStep (base + t.1) t.2.firstStep } }
    else s) s
  hold s.twin.partner 65536 (hold s.pool.id 0 s)

/-- A map becomes current; with `keep` the old one becomes the previous map and its grace begins (R89, R92, R95). What waits for the
new map is judged again (R87). -/
def installMap (keep : Bool) (m : CompMap) (s : State) : State :=
  let s := { s with
    maps := { cur := m, prev := if keep then some s.maps.cur else none, grace := keep }
    emb := { s.emb with forwarded := [] } }
  let s := openSteps m s
  let held := s.links.parked.filter (fun r => r.why == some .epochHold)
  let s := held.foldl (fun s r =>
    let s := unpark r.id s
    match epochVerdict s r.hdr.epoch with
    | 1 => park .epochHold 0 r s
    | 2 => if r.kind = .dirty then s else sendStatus r.hdr stStaleEpoch s.maps.cur.epoch.toNat s
    | _ => serve none { r with why := none } s) s
  pumpAll (rejudge false s)

def installFieldsOk (c : Cmd) : Bool :=
  !descArgBlock c.desc && c.rz 16 0 6 && c.rz 16 55 9 && c.fld 24 0 32 % 64 == 0 && 64 ≤ c.fld 24 0 32 && c.fld 24 0 32 ≤ 67108864 &&
    c.rz 32 1 7 && c.zero 33 63

def execMapInstall (k : CmdKey) (s : State) : Host.Outcome State Fault Refusal :=
  run (withCmd k 0x0F08 (fun c s =>
    let len := c.fld 24 0 32
    if !installFieldsOk c then badDesc k s
    else if c.phase = .ready ∧ s.emb.migration.isSome then endFree k stPermission s
    else
      whenReady { c with isle := 0 } [⟨.load, false, c.va 16, len⟩] (fun s =>
        let c := { cmdNow s c with isle := 0 }
        if vstatus s c (c.va 16) len != stOk then endFree k (vstatus s c (c.va 16) len) s
        else
          let bs := vread s c (c.va 16) len
          if crc crc32c bs ≠ c.fld 28 0 32 then endFree k stCheckMismatch s
          else
            match parseMap bs with
            | none => badDesc k s
            | some m =>
              let d := (m.epoch - s.maps.cur.epoch).toNat
              let force := bit (c.fld 32 0 8) 0
              if !mapKeeps s.maps.cur m then badDesc k s
              else if !(if force then 1 ≤ d && d ≤ 127 else d == 1) then endStale k s
              else installMap (!force) m (endCmd k stOk m.epoch.toNat 0 s)) s)) s

/-! ## A migration's commit (R550, R551) -/

/-- The current map with one slot at its new home, at the next epoch. -/
def movedMap (m : CompMap) (tid slot newHome va : Nat) : CompMap :=
  { m with epoch := m.epoch + 1, tables := NMap.upd m.tables tid (fun t =>
    { t with slots := (t.slots.zip (List.range t.slots.length)).map (fun x =>
      if x.2 = slot then { x.1 with pool := newHome, va := va } else x.1) }) }

/-- A commit notice: a member at the epoch before installs the moved map, and the new home acknowledges; another member reports the
mismatch. -/
def execCommitNotice (port src tid slot newHome va : Nat) (epoch : BitVec 8) (step : BitVec 32) (s : State) :
    Host.Outcome State Fault Refusal :=
  run (fun s =>
    if !portUp s port || s.twin.state == .fenced || !s.pool.members.contains src then s
    else if epoch ≠ s.maps.cur.epoch + 1 then
      raise (event evMapNoticeMismatch 0 tid s.maps.cur.epoch.toNat epoch.toNat) s
    else
      let m := movedMap s.maps.cur tid slot newHome va
      if newHome = s.pool.id then
        let had := (NMap.get? s.maps.cur.tables tid).any (fun t => t.slots.any (fun x => x.pool == s.pool.id))
        let s := if had then s else { s with emb := { s.emb with openStep := NMap.set s.emb.openStep tid (step + 1) } }
        sendManage src .commitNoticeAck [tid, slot] (installMap true m s)
      else installMap true m s) s

/-- The new home has acknowledged: the slot is FORWARDED, the old home installs the map, tells the other members and completes the
ROW_MIGRATE, and the closes that waited for the commit end. -/
def execCommitNoticeAck (port src tid slot : Nat) (s : State) : Host.Outcome State Fault Refusal :=
  run (fun s =>
    match s.emb.migration with
    | none => s
    | some m =>
      if !portUp s port || m.phase ≠ 4 || m.table ≠ tid || m.slot ≠ slot || m.pool ≠ src then s
      else
        let e := s.maps.cur.epoch
        let words := commitWords s m
        let s := { s with emb := { s.emb with migration := none } }
        let s := installMap true (movedMap s.maps.cur tid slot m.pool m.va) s
        let s := { s with emb := { s.emb with forwarded := [(tid, slot, m.pool, e)] } }
        let s := (s.pool.members.filter (fun p => p != s.pool.id && p != m.pool)).foldl (fun s p => sendManage p .commitNotice words s) s
        let s := raise (event evMigrationCommitted 0 tid (slot + m.pool * 4096) (e + 1).toNat) (endCmd m.cmd stOk m.cursor m.again s)
        (s.bobbin.cmds.filter (fun (c : Cmd) => c.opcode == 0x0102 && c.phase == Phase.running)).foldl (fun s (c : Cmd) =>
          if c.lead.isSome then serveSub c.key s else advance c.key s) s) s

/-! ## The hold and the grace (R87, R92) -/

/-- 50 µs have passed for a request or sub-command held for a new map: ST_STALE_EPOCH. -/
def execEpochHoldExpiry (id : Nat) (s : State) : Host.Outcome State Fault Refusal :=
  run (fun s =>
    match s.links.parked.find? (fun r => r.id == id && r.why == some .epochHold) with
    | some r =>
      let s := unpark id s
      pumpAll (if r.kind = .dirty then s else sendStatus r.hdr stStaleEpoch s.maps.cur.epoch.toNat s)
    | none =>
      match cmd? s (subKey id) with
      | some c =>
        match c.lead with
        | some h => if c.phase = .held ∧ c.aux = [] then refuseSub h stStaleEpoch s.maps.cur.epoch.toNat (dropCmd c.key s) else s
        | none => s
      | none => s) s

/-- The composition grace ends (R92). -/
def execGraceExpiry (s : State) : Host.Outcome State Fault Refusal :=
  run (fun s => { s with maps := { s.maps with grace := false } }) s

end Sys2Proof.Machine
end

