-- ==== Sys2Proof/Machine/Plans.lean ====
section
/-! DEFINITION. The beat, plans and admission (chapter 08). -/

namespace Sys2Proof.Machine

/-! ## Refusal reasons (R397) -/

abbrev reBandwidth : Nat := 1
abbrev reDeadline : Nat := 2
abbrev reTranslation : Nat := 3
abbrev reTier : Nat := 4
abbrev reScope : Nat := 5
abbrev reMember : Nat := 6
abbrev reUnsynced : Nat := 7
abbrev reQuota : Nat := 8

/-- A plan passes. -/
def planYes : PrepAnswer := { yes := true, reason := 0, pick := 0, resource := 0, beat := 0 }

/-- A refusal (R389). -/
def planNo (reason pick resource beat : Nat) : PrepAnswer :=
  { yes := false, reason := reason, pick := pick, resource := resource, beat := beat }

/-- The first refusal of a list of checks. DESIGN CHOICE (log 79). -/
def firstNo (l : List (Option PrepAnswer)) : PrepAnswer := (l.findSome? id).getD planYes

/-! ## The plan's byte string (R379–R383, R405; check 1 of R397) -/

/-- `n` rounded up to whole 64-byte units. -/
def up64 (n : Nat) : Nat := ceilDiv n 64 * 64

/-- Resources of each class (R377). -/
def classSize (cls : Nat) : Nat := [48, 4, 2, 1, 1, 64, 1].getD cls 0

/-- A pick record; none where it breaks check 1. -/
def parsePick (bs : List Byte) (members picks ranges cycle : Nat) : Option Pick :=
  let demand := (List.range 6).map (fun i => (field bs (16 + 8 * i) 2, field bs (18 + 8 * i) 4))
  let used := demand.filter (fun d => d.2 != 0)
  let p : Pick :=
    { member := field bs 0 2, sq := field bs 2 2, opcode := field bs 4 2, pred := field bs 6 2, start := field bs 8 2,
      span := field bs 10 2 + 1, first := field bs 12 2, ranges := field bs 14 2, demand := used }
  if p.member < members && p.sq < 4096 && p.pred ≤ picks && p.start + p.span ≤ cycle && p.first + p.ranges ≤ ranges &&
      p.first < 16384 && (List.range 6).all (fun i => zeros bs (22 + 8 * i) 2) &&
      used.all (fun d => d.1 % 4096 < classSize (d.1 / 4096)) then some p
  else none

/-- A range record: isle virtual address, member, pages. -/
def parseRange (bs : List Byte) (members : Nat) : Option (Nat × Nat × Nat) :=
  let va := field bs 0 8
  let m := field bs 8 2
  let n := field bs 12 4
  if va % pageSize == 0 && va < 2 ^ 55 && m < members && zeros bs 10 2 && n != 0 then some (va, m, n) else none

/-- A sync record. -/
def parseSync (bs : List Byte) (picks ranges : Nat) : Option SyncRec :=
  let r : SyncRec :=
    { relPick := field bs 0 2, acqPick := field bs 2 2, relScope := bits (field bs 4 1) 0 2, acqScope := bits (field bs 4 1) 2 2,
      flagRange := field bs 6 2, dataFirst := field bs 8 2, dataCount := field bs 10 2 }
  if r.relPick < picks && r.acqPick < picks && r.relScope != 3 && r.acqScope != 3 && field bs 4 1 < 16 && zeros bs 5 1 &&
      r.flagRange < ranges && r.dataFirst + r.dataCount ≤ ranges && zeros bs 12 4 then some r
  else none

/-- The records of a table of `n` records of `size` bytes. -/
def parseAll {α : Type} (f : List Byte → Option α) (bs : List Byte) (size : Nat) : Nat → Option (List α)
  | 0 => some []
  | n + 1 =>
    match f (bs.take size), parseAll f (bs.drop size) size n with
    | some x, some l => some (x :: l)
    | _, _ => none

/-- The sum of the part sizes that a plan's header states (R387). -/
def planLength (bs : List Byte) : Nat :=
  64 + up64 (4 * field bs 14 2) + 64 * field bs 8 2 + up64 (16 * field bs 10 2) + up64 (16 * field bs 12 2)

/-- The plan that a byte string holds; none where it breaks check 1. -/
def parsePlan (bs : List Byte) : Option PlanText :=
  let cycle := field bs 4 4
  let np := field bs 8 2
  let nr := field bs 10 2
  let ns := field bs 12 2
  let nm := field bs 14 2
  let oPick := 64 + up64 (4 * nm)
  let oRange := oPick + 64 * np
  let oSync := oRange + up64 (16 * nr)
  if field bs 0 2 == 1 && zeros bs 2 2 && (List.range 17).any (fun i => cycle == 2 ^ i) && 1 ≤ np && np ≤ 16384 && nr ≤ 16384 &&
      ns ≤ 4096 && 1 ≤ nm && nm ≤ 512 && zeros bs 48 16 && bs.length == planLength bs &&
      zeros bs (64 + 4 * nm) (oPick - 64 - 4 * nm) && zeros bs (oRange + 16 * nr) (oSync - oRange - 16 * nr) &&
      zeros bs (oSync + 16 * ns) (bs.length - oSync - 16 * ns) then
    match parseAll (fun b => let m := field b 0 4; if m < 4096 then some m else none) (bs.drop 64) 4 nm,
        parseAll (fun b => parsePick b nm np nr cycle) (bs.drop oPick) 64 np,
        parseAll (fun b => parseRange b nm) (bs.drop oRange) 16 nr,
        parseAll (fun b => parseSync b np nr) (bs.drop oSync) 16 ns with
    | some members, some picks, some ranges, some syncs =>
      some { cycle := cycle, digest := field bs 16 32, members := members, picks := picks, ranges := ranges, syncs := syncs }
    | _, _, _, _ => none
  else none

/-! ## Resources (R377, R378, R394–R396) -/

/-- Beat period in ns (R362). -/
def beatNs (s : State) : Nat := 500 * 2 ^ s.treadle.period

/-- DDR transfers per µs by the ddr_speed code of MEM_STATUS. -/
def ddrRate (code : Nat) : Nat := [0, 4800, 5200, 5600, 6400].getD code 0

/-- Whether a port runs at ×4. -/
def atX4 (s : State) (port : Nat) : Bool := (NMap.get? s.links.ports port).any (fun p => p.state == 3)

/-- Worst-corner capacity C of a resource in one beat (R377, R378). -/
def capacity (s : State) (rid : Nat) : Nat :=
  let ns := beatNs s
  let port := fun (n : Nat) => if atX4 s n then 113 * ns / 512 else 113 * ns / 256
  match rid / 4096 with
  | 0 => port (rid % 4096 / 2)
  | 1 => port (24 + rid % 4096 / 2)
  | 2 => 110 * ns / 256
  | 3 => 28800 * ns / 1000
  | 4 => ddrRate s.store.ddrSpeed * ns / 5000
  | 5 => 16 * ns / 10
  | 6 => 12000 * ns / 256
  | _ => 0

/-- Admissible capacity A (R394). -/
def admissible (s : State) (rid : Nat) : Nat := capacity s rid * (1000 - s.treadle.bg - s.treadle.us) / 1000

/-- What a pick reserves of a resource in each beat of its span (R395). -/
def Pick.perBeat (k : Pick) (rid : Nat) : Nat := ((k.demand.filter (fun d => d.1 == rid)).map (fun d => ceilDiv d.2 k.span)).sum

/-- The reservation of a pick at a beat of the cycle. -/
def Pick.res (k : Pick) (rid x : Nat) : Nat := if k.start ≤ x ∧ x < k.start + k.span then k.perBeat rid else 0

/-- The reservations of a plan's picks on member `me` at beat `b` of the window. -/
def PlanText.load (t : PlanText) (me rid b : Nat) : Nat :=
  ((t.picks.filter (fun k => k.member == me)).map (fun k => k.res rid (b % t.cycle))).sum

/-- The reservations that every plan of a list holds at a beat. -/
def loadOf (l : List (PlanText × Nat)) (rid b : Nat) : Nat := (l.map (fun p => p.1.load p.2 rid b)).sum

/-- The plans that the device holds, tentative ones and those being prepared among them (R401). -/
def heldTexts (s : State) : List (PlanText × Nat) := s.treadle.plans.map (fun p => (p.2.text, p.2.me))

/-- Insert a number in a rising list. -/
def ridsOf (l : List (PlanText × Nat)) : List Nat :=
  (l.flatMap (fun p => (p.1.picks.filter (fun k => k.member == p.2)).flatMap (fun k => k.demand.map (·.1)))).foldl (fun a x => insertNat x a) []

/-- The first beat of the window, then the lowest resource, where plans ask for more than a resource admits (R396). -/
def overload (s : State) (l : List (PlanText × Nat)) (rids : List Nat) : Option (Nat × Nat) :=
  let window := (l.map (·.1.cycle)).foldl max 1
  (List.range window).findSome? (fun b => (rids.find? (fun r => decide (admissible s r < loadOf l r b))).map (fun r => (b, r)))

/-! ## Checks 2 to 9 of R397 -/

/-- The opcodes that a pick may name (R385). -/
def pickOps : List Nat := [0x0001, 0x0010, 0x0011, 0x0012, 0x0018, 0x0020, 0x0030, 0x0031, 0x0032, 0x0040, 0x0200, 0x0201, 0x0202]

/-- Picks of member `me`, with their indices. -/
def PlanText.mine (t : PlanText) (me : Nat) : List (Nat × Pick) := ((List.range t.picks.length).zip t.picks).filter (fun k => k.2.member == me)

/-- Check 2: the digest, the members, and the places of the devices that ask and that answer. -/
def checkMembers (s : State) (t : PlanText) (lead me : Nat) : Option PrepAnswer :=
  let joined := fun (m : Nat) => if m = s.pool.id then s.pool.joined else s.pool.members.contains m
  if t.digest == s.harbour.digest && t.members.all joined && t.members.eraseDups.length == t.members.length &&
      t.members.head? == some lead && t.members[me]? == some s.pool.id then none
  else some (planNo reMember 0 0 0)

/-- Check 3. -/
def checkLocked (s : State) : Option PrepAnswer :=
  if s.treadle.locked || s.treadle.root then none else some (planNo reUnsynced 0 0 0)

/-- The clusters a pick demands. -/
def Pick.clusters (k : Pick) : List Nat := (k.demand.filter (fun d => d.1 / 4096 == 5)).map (fun d => d.1 % 4096)

/-- Check 4: slots (R386), dedicated clusters (R65), pick rings. -/
def checkSlots (s : State) (t : PlanText) (me isle : Nat) : Option PrepAnswer :=
  let held := (s.treadle.plans.map (fun p => p.2.text.picks.length)).sum
  if 64 ≤ s.treadle.plans.length || 65536 < held + t.picks.length then some (planNo reQuota 0 0 0)
  else
    let bad := fun (k : Nat × Pick) =>
      !((NMap.get? s.bobbin.sqs k.2.sq).any (fun q => q.isle == isle)) || !(k.2.clusters.all (fun c => dedicatedTo s c == some isle)) ||
        s.treadle.plans.any (fun p => p.2.text.picks.any (fun x => x.member == p.2.me && planRing p.1 x.sq == k.2.sq))
    ((t.mine me).find? bad).map (fun k => planNo reQuota k.1 0 0)

/-- The first pick of member `me` that names a range record; the failing pick of checks 5 and 6. -/
def pickOfRange (t : PlanText) (me j : Nat) : Nat :=
  (((t.mine me).find? (fun k => k.2.first ≤ j && j < k.2.first + k.2.ranges)).map (·.1)).getD 0

/-- The first range of member `me` with a page that fails a test. -/
def badRange (t : PlanText) (me : Nat) (ok : Nat → Bool) : Option Nat :=
  (((List.range t.ranges.length).zip t.ranges).find? (fun r => r.2.2.1 == me &&
    !((List.range r.2.2.2).all (fun i => ok (r.2.1 / pageSize + i))))).map (·.1)

/-- Check 5 (R117). -/
def checkTlbPins (s : State) (t : PlanText) (me isle : Nat) : Option PrepAnswer :=
  (badRange t me (fun vp => (entryOf s isle vp).any eTlbPin)).map (fun j => planNo reTranslation (pickOfRange t me j) 0 0)

/-- Check 6 (R300). -/
def checkTierPins (s : State) (t : PlanText) (me isle : Nat) : Option PrepAnswer :=
  let ok := fun (vp : Nat) => (entryOf s isle vp).any (fun e =>
    inTier .scratch (eOff e / pageSize) || (eTierPin e && !inTier .flash (eOff e / pageSize)))
  (badRange t me ok).map (fun j => planNo reTier (pickOfRange t me j) 0 0)

/-- The engine of a pick (R384): a ring, or a cluster; an engine of another kind is like no other pick's. -/
def engineOf (i : Nat) (k : Pick) : Nat × Nat × Nat :=
  if k.opcode = 0x0031 ∨ k.opcode = 0x0032 then (1, k.member, k.sq)
  else if k.opcode = 0x0040 then (2, k.member, k.clusters.headD 64)
  else (3, i, 0)

/-- Whether a sync record passes R176, R178 and R384. -/
def pairOk (t : PlanText) (y : SyncRec) : Bool :=
  match t.picks[y.relPick]?, t.picks[y.acqPick]? with
  | some r, some a =>
    let same := engineOf y.relPick r == engineOf y.acqPick a
    let flag := (t.ranges.getD y.flagRange (0, 0, 0)).2.1
    let away := ((t.ranges.drop y.dataFirst).take y.dataCount).any (fun d => d.2.1 != flag)
    !(r.opcode == 0x0040 && r.clusters.length != 1) && !(a.opcode == 0x0040 && a.clusters.length != 1) &&
      (y.relScope != 0 || same) && (y.acqScope != 0 || same) && !((y.relScope == 1 || y.acqScope == 1) && away)
  | _, _ => false

/-- Check 7. -/
def checkSyncs (t : PlanText) : Option PrepAnswer := (t.syncs.find? (fun y => !pairOk t y)).map (fun y => planNo reScope y.relPick 0 0)

/-- Check 8: demands, predecessor and opcode of each pick. -/
def checkDeadlines (s : State) (t : PlanText) (me : Nat) : Option PrepAnswer :=
  (t.mine me).findSome? (fun k =>
    match k.2.demand.find? (fun d => decide (admissible s d.1 < ceilDiv d.2 k.2.span)) with
    | some d => some (planNo reDeadline k.1 d.1 k.2.start)
    | none =>
      let late := k.2.pred != 0 && (t.picks[k.2.pred - 1]?).any (fun q => k.2.start < q.start + q.span)
      if late || !pickOps.contains k.2.opcode then some (planNo reDeadline k.1 0 k.2.start) else none)

/-- Check 9 (R396). -/
def checkBandwidth (s : State) (t : PlanText) (me : Nat) : Option PrepAnswer :=
  let l := heldTexts s ++ [(t, me)]
  (overload s l (ridsOf l)).map (fun x =>
    let b := x.1 % t.cycle
    let k := (t.mine me).find? (fun k => k.2.start ≤ b && b < k.2.start + k.2.span && 0 < k.2.perBeat x.2)
    planNo reBandwidth ((k.map (·.1)).getD 0) x.2 b)

/-- Checks 2 to 9 on member `me`, for an isle. DESIGN CHOICE (log 79). -/
def planChecks (s : State) (t : PlanText) (lead me isle : Nat) : PrepAnswer :=
  firstNo [checkMembers s t lead me, checkLocked s, checkSlots s t me isle, checkTlbPins s t me isle, checkTierPins s t me isle,
    checkSyncs t, checkDeadlines s t me, checkBandwidth s t me]

/-! ## Plans held -/

def updPlan (h : Nat) (f : Plan → Plan) (s : State) : State :=
  { s with treadle := { s.treadle with plans := NMap.upd s.treadle.plans h f } }

def plan? (s : State) (h : Nat) : Option Plan := NMap.get? s.treadle.plans h

/-- The key of a handle: a plan of this pool id's, or one inherited from the partner. -/
def planKey (s : State) (h : Nat) : Nat := if (plan? s h).isSome then h else h + 2 ^ 32

def planStateCode : PlanState → Nat
  | .preparing => 0
  | .tentative => 1
  | .admitted => 2
  | .started => 3
  | .paused => 4

/-- The text of a plan as words. -/
def textWords (t : PlanText) : List Nat :=
  [t.cycle, t.digest, t.members.length, t.picks.length, t.ranges.length, t.syncs.length] ++ t.members ++
    t.picks.flatMap (fun k => [k.member, k.sq, k.opcode, k.pred, k.start, k.span, k.first, k.ranges] ++
      (List.range 6).flatMap (fun i => let d := k.demand.getD i (0, 0); [d.1, d.2])) ++
    t.ranges.flatMap (fun r => [r.1, r.2.1, r.2.2]) ++
    t.syncs.flatMap (fun y => [y.relPick, y.acqPick, y.relScope, y.acqScope, y.flagRange, y.dataFirst, y.dataCount])

/-- A list cut in groups of `n`. -/
def groups (n : Nat) (l : List Nat) : Nat → List (List Nat)
  | 0 => []
  | k + 1 => l.take n :: groups n (l.drop n) k

/-- The text that words hold. -/
def wordsText (w : List Nat) : PlanText :=
  let g := fun (i : Nat) => w.getD i 0
  let nm := g 2
  let np := g 3
  let nr := g 4
  let b := w.drop 6
  { cycle := g 0, digest := g 1, members := b.take nm,
    picks := (groups 20 (b.drop nm) np).map (fun p =>
      let h := fun (i : Nat) => p.getD i 0
      { member := h 0, sq := h 1, opcode := h 2, pred := h 3, start := h 4, span := h 5, first := h 6, ranges := h 7,
        demand := ((List.range 6).map (fun i => (h (8 + 2 * i), h (9 + 2 * i)))).filter (fun d => d.2 != 0) }),
    ranges := (groups 3 (b.drop (nm + 20 * np)) nr).map (fun r => (r.getD 0 0, r.getD 1 0, r.getD 2 0)),
    syncs := (groups 7 (b.drop (nm + 20 * np + 3 * nr)) (g 5)).map (fun y =>
      let h := fun (i : Nat) => y.getD i 0
      { relPick := h 0, acqPick := h 1, relScope := h 2, acqScope := h 3, flagRange := h 4, dataFirst := h 5, dataCount := h 6 }) }

/-- The words of a plan's item of twin state (R707). -/
def planWords (h : Nat) (p : Plan) : List Nat :=
  [h, p.isle, p.me, planStateCode p.state, p.startBeat.toNat] ++ textWords p.text

/-- A plan of this device's own pool id changes: its item goes to the twin. -/
def notePlan (h : Nat) (s : State) : State :=
  if 2 ^ 32 ≤ h then s
  else match plan? s h with | some p => twinNote 10 (planWords h p) [] s | none => twinNote 10 [h] [] s

/-- A plan leaves the device. -/
def dropPlan (h : Nat) (s : State) : State :=
  notePlan h { s with treadle := { s.treadle with plans := NMap.del s.treadle.plans h } }

/-- A plan as it enters the device. -/
def newPlan (t : PlanText) (st : PlanState) (isle me order : Nat) (cmd : Option CmdKey) (waiting : List Nat) : Plan :=
  { text := t, state := st, isle := isle, me := me, order := order, startBeat := 0, cmd := cmd, waiting := waiting, refusals := [],
    stopping := 0, pausing := none, owes := [] }

/-- Put a plan among those held, as the next admission. -/
def putPlan (h : Nat) (p : Plan) (s : State) : State :=
  notePlan h { s with treadle := { s.treadle with plans := NMap.set s.treadle.plans h { p with order := s.treadle.admissions },
                                                  admissions := s.treadle.admissions + 1 } }

/-- Indices of the members other than this device. -/
def Plan.others (p : Plan) : List Nat := (List.range p.text.members.length).filter (· != p.me)

/-- Send a plan's message to members. -/
def tellMembers (p : Plan) (l : List Nat) (op : Mgmt) (words : List Nat) (s : State) : State :=
  l.foldl (fun s i => sendManage (p.text.members.getD i 0xFFF) op words s) s

/-- The handle that a key stands for. -/
def planHandle (h : Nat) : Nat := h % 2 ^ 32

/-- End a command with ST_ADMIT_REFUSED (R389). -/
def admitRefused (k : CmdKey) (reason pick resource beat : Nat) (s : State) : State :=
  endCmd k stAdmitRefused (reason + 256 * pick) (resource + 65536 * beat) s

/-- While a plan is STARTED, the VDD_LOOM setpoint stays at or above 0.735 V (R374). -/
def holdVoltage (s : State) : State :=
  if s.treadle.plans.any (fun p => p.2.state == .started) && s.clocks.vloom < 735 then { s with clocks := { s.clocks with vloom := 735 } } else s

/-- A plan is armed for a start beat. -/
def armPlan (h : Nat) (start : BitVec 48) (s : State) : State :=
  notePlan h (holdVoltage (updPlan h (fun p => { p with state := .started, startBeat := start, pausing := none, cmd := none }) s))

/-- Pause a plan that is admitted or started (R370, R372), with its event. DEDUCED (log 80). -/
def pausePlan (reason cause h : Nat) (s : State) : State :=
  match plan? s h with
  | none => s
  | some p =>
    let s := updPlan h (fun p => { p with pausing := none }) s
    if p.state == .admitted || p.state == .started then
      let e := event evPlanPaused 0 (planHandle h % 65536) reason cause
      notePlan h (raise { e with tagHigh := planHandle h / 65536 } (updPlan h (fun p => { p with state := .paused }) s))
    else s

/-! ## Stopping a plan (R393, R404) -/

/-- Whether a pick of a plan has been released and has not written its record. -/
def picksOut (s : State) (h : Nat) : Bool := s.bobbin.cmds.any (fun (c : Cmd) => c.pick.any (fun x => x.1 == h))

/-- The rings of a plan on this device. -/
def planRings (h : Nat) (p : Plan) : List Nat := ((p.text.picks.filter (fun k => k.member == p.me)).map (fun k => planRing h k.sq)).eraseDups

/-- A plan that releases nothing more, and whose picks have all written their records here, acknowledges those who ordered it
stopped; it goes once every other member has acknowledged too. DEDUCED (log 81). -/
def settlePlan (h : Nat) (s : State) : State :=
  match plan? s h with
  | none => s
  | some p =>
    if p.stopping != 3 || picksOut s h then s
    else
      let s := p.owes.foldl (fun s d => sendManage d .planAck [planHandle h, 0] s) (updPlan h (fun p => { p with owes := [] }) s)
      if p.waiting != [] then s
      else
        let held := s.bobbin.cmds.filter (fun (c : Cmd) => c.phase == Phase.held && c.lead.isNone && descScheduled c.desc && (planRings h p).contains c.key.sq)
        let s := held.foldl (fun s c => endFree c.key stAdmitRefused s) (dropPlan h s)
        match p.cmd with
        | none => s
        | some k =>
          match (cmd? s k).map (·.opcode) with
          | some 0x0500 => admitRefused k reMember 0 0 0 s
          | some 0x0501 => badDesc k s
          | _ => endFree k stOk s

def settlePlans (s : State) : State := (s.treadle.plans.map (·.1)).foldl (fun s h => settlePlan h s) s

/-- Stop a plan, on this device and on every other member: 1 at the next boundary, 2 at the end of its cycle, 3 at once. -/
def stopPlan (h mode : Nat) (s : State) : State :=
  match plan? s h with
  | none => s
  | some p =>
    if p.state == .preparing then
      let s := dropPlan h (tellMembers p p.others .planAbort [planHandle h] s)
      match p.cmd with | some k => admitRefused k reMember 0 0 0 s | none => s
    else
    let s := updPlan h (fun p => { p with stopping := max p.stopping mode, waiting := p.others, refusals := [] }) s
    settlePlan h (tellMembers p p.others .planStop [planHandle h, if mode = 2 then 1 else 0] s)

/-- The plans that name one of a list of rings, or belong to an isle, are stopped at once (R765, R766). -/
def stopPlansOf (f : Nat → Plan → Bool) (s : State) : State :=
  ((s.treadle.plans.filter (fun p => f p.1 p.2 && p.2.stopping == 0)).map (·.1)).foldl (fun s h => stopPlan h 3 s) s

/-! ## PLAN_ADMIT (R387–R389, R397–R405) -/

def paLen (c : Cmd) : Nat := c.fld 24 0 32

def admitFieldsOk (c : Cmd) : Bool :=
  !descArgBlock c.desc && c.rz 16 0 6 && c.rz 16 55 9 && c.zero 32 63 && 0 < paLen c && paLen c ≤ 2 ^ 21

/-- Whether a PLAN_ADMIT is the first in dispatch order that has not ended (R398). -/
def admitTurn (s : State) (k : CmdKey) : Bool :=
  match s.treadle.admitQueue.find? (fun q => (cmd? s q).any (fun c => c.phase != .ended)) with
  | some q => q == k
  | none => true

/-- The next sequence number that no plan held here has (R388). DESIGN CHOICE (log 69). -/
def planSeq (s : State) : Nat :=
  ((List.range 65).map (fun i => (s.treadle.nextPlan.toNat + i) % 65536)).find? (fun q => (plan? s (s.pool.id + 65536 * q)).isNone)
    |>.getD s.treadle.nextPlan.toNat

/-- Take a handle. -/
def takeHandle (s : State) : Nat × State :=
  let q := planSeq s
  (s.pool.id + 65536 * q, { s with treadle := { s.treadle with nextPlan := BitVec.ofNat 16 (q + 1) } })

/-- A plan that passed check 1 is checked here, held, and sent to its other members where it has any. The admitting device holds
its own reservations before it asks the others (R400, R402; log 26). -/
def admitPlan (k : CmdKey) (c : Cmd) (t : PlanText) (bytes : List Byte) (s : State) : State :=
  let a := planChecks s t s.pool.id 0 c.isle
  if !a.yes then admitRefused k a.reason a.pick a.resource a.beat s
  else
    let r := takeHandle s
    let h := r.1
    if t.members.length = 1 then
      endCmd k stOk h 0 (putPlan h (newPlan t .admitted c.isle 0 0 none []) r.2)
    else
      let p := newPlan t .preparing c.isle 0 0 (some k) (List.range' 1 (t.members.length - 1))
      tellMembers p p.others .planPrepare (h :: c.isle :: bytes.map (·.toNat)) (putPlan h p r.2)

def execPlanAdmit (k : CmdKey) (s : State) : Host.Outcome State Fault Refusal :=
  run (withCmd k 0x0500 (fun c s =>
    if !admitFieldsOk c then badDesc k s
    else if !admitTurn s k || s.treadle.plans.any (fun p => p.2.cmd == some k) then startCmd k s
    else
      whenReady c [⟨.load, false, c.va 16, paLen c⟩] (fun s =>
        let c := cmdNow s c
        let st := vstatus s c (c.va 16) (paLen c)
        let bs := vread s c (c.va 16) (paLen c)
        if st != stOk then endFree k st s
        else if bs.length ≠ planLength bs then badDesc k s
        else if crc crc32c bs ≠ c.fld 28 0 32 then endFree k stCheckMismatch s
        else
          match parsePlan bs with
          | none => badDesc k s
          | some t => admitPlan k c t bs s) s)) s

/-- The answers to PREPARE are all in: the plan is admitted and committed, or given up with the refusal of the lowest member
(R402, R403). -/
def decidePlan (h : Nat) (s : State) : State :=
  match plan? s h with
  | none => s
  | some p =>
    if p.state != .preparing || p.waiting != [] then s
    else
      match p.refusals.foldl (fun (a : Option (Nat × Nat × Nat × Nat × Nat)) r =>
          match a with | some x => if r.1 < x.1 then some r else some x | none => some r) none with
      | none =>
        let s := updPlan h (fun p => { p with state := .admitted, waiting := p.others }) s
        notePlan h (tellMembers p p.others .planCommit [planHandle h] s)
      | some (_, reason, pick, resource, beat) =>
        let s := dropPlan h (tellMembers p p.others .planAbort [planHandle h] s)
        match p.cmd with
        | some k => admitRefused k reason pick resource beat s
        | none => s

/-- Member of a plan by its pool id. -/
def Plan.memberOf (p : Plan) (pid : Nat) : Nat := p.text.members.idxOf pid

def execPlanPrepareAnswer (_port src handle : Nat) (answer : PrepAnswer) (s : State) : Host.Outcome State Fault Refusal :=
  run (fun s =>
    let h := planKey s handle
    match plan? s h with
    | none => s
    | some p =>
      let i := p.memberOf src
      if p.state != .preparing || !p.waiting.contains i then s
      else
        let r := if answer.yes then [] else [(i, answer.reason, answer.pick, answer.resource, answer.beat)]
        decidePlan h (updPlan h (fun p => { p with waiting := p.waiting.filter (· != i), refusals := p.refusals ++ r }) s)) s

/-- A member that has not answered counts as one that refuses with MEMBER_MISMATCH and its own index (R403). DEDUCED (log 83). -/
def execPrepareTimeout (handle : Nat) (s : State) : Host.Outcome State Fault Refusal :=
  run (fun s =>
    let h := planKey s handle
    match plan? s h with
    | none => s
    | some p =>
      if p.state != .preparing then s
      else decidePlan h (updPlan h (fun p => { p with waiting := [], refusals := p.refusals ++ p.waiting.map (fun i => (i, reMember, i, 0, 0)) }) s)) s

/-! ## A member's part (R400–R404) -/

/-- A member checks its own part of a plan and holds it as tentative, or refuses it. DEDUCED (log 83). -/
def execPlanPrepare (_port src handle : Nat) (plan : List Byte) (isle : Nat) (s : State) : Host.Outcome State Fault Refusal :=
  run (fun s =>
    let answer := fun (a : PrepAnswer) (s : State) =>
      sendManage src .planAnswer [handle, a.yes.toNat, a.reason, a.pick, a.resource, a.beat] s
    match plan? s handle, parsePlan plan with
    | some _, _ => answer planYes s
    | none, none => answer (planNo reMember 0 0 0) s
    | none, some t =>
      let me := t.members.idxOf s.pool.id
      let a := planChecks s t src me isle
      if a.yes then answer a (putPlan handle (newPlan t .tentative isle me 0 none []) s) else answer a s) s

/-- COMMIT: a tentative plan is admitted; a plan that is gone is refused (R402, R404). -/
def execPlanCommit (_port src handle : Nat) (s : State) : Host.Outcome State Fault Refusal :=
  run (fun s =>
    let h := planKey s handle
    match plan? s h with
    | none => sendManage src .planAck [handle, reMember] s
    | some p =>
      let s := if p.state == .tentative then notePlan h (updPlan h (fun p => { p with state := .admitted }) s) else s
      sendManage src .planAck [handle, 0] s) s

/-- A tentative plan is given up: on ABORT, and after twice the prepare timeout. -/
def releaseTentative (handle : Nat) (s : State) : State :=
  let h := planKey s handle
  if (plan? s h).any (fun p => p.state == .tentative) then dropPlan h s else s

def execPlanAbort (_port _src handle : Nat) (s : State) : Host.Outcome State Fault Refusal := run (releaseTentative handle) s

def execTentativeExpiry (handle : Nat) (s : State) : Host.Outcome State Fault Refusal := run (releaseTentative handle) s

/-- A member is ordered to arm a plan: it refuses while it is unsynced or holds no such plan (R391). -/
def execPlanArm (_port src handle : Nat) (start : BitVec 48) (s : State) : Host.Outcome State Fault Refusal :=
  run (fun s =>
    let h := planKey s handle
    match plan? s h with
    | none => sendManage src .planAck [handle, reMember] s
    | some p =>
      if p.state == .tentative || p.state == .preparing || p.stopping != 0 then sendManage src .planAck [handle, reMember] s
      else if !(s.treadle.locked || s.treadle.root) then sendManage src .planAck [handle, reUnsynced] s
      else sendManage src .planAck [handle, 0] (armPlan h start s)) s

/-- A member is ordered to stop a plan; one that holds no such plan has stopped it. -/
def execPlanStopNotice (_port src handle : Nat) (atCycleEnd : Bool) (s : State) : Host.Outcome State Fault Refusal :=
  run (fun s =>
    let h := planKey s handle
    match plan? s h with
    | none => sendManage src .planAck [handle, 0] s
    | some p =>
      let mode := if p.stopping != 0 then p.stopping else if atCycleEnd then 2 else 1
      settlePlan h (updPlan h (fun p => { p with stopping := mode, owes := p.owes ++ [src] }) s)) s

/-! ## PLAN_START and PLAN_STOP (R390–R393) -/

/-- The plan that a command names, or the status that ends it: only the admitting device and isle may start or stop a plan. -/
def planNamed (s : State) (c : Cmd) : Nat ⊕ Nat :=
  let handle := c.fld 16 0 32
  let own := if c.isle < twinIsle then s.pool.id else s.twin.held
  let h := if c.isle < twinIsle then handle else handle + 2 ^ 32
  if handle % 4096 ≠ own then .inl stPermission
  else
    match plan? s h with
    | none => .inl stBadDescriptor
    | some p => if p.isle ≠ c.isle || p.me != 0 then .inl stPermission else if p.state == .preparing || p.stopping != 0 then .inl stBadDescriptor else .inr h

/-- Beats from `b` to `a`, modulo 2^48. -/
def beatDist (a b : BitVec 48) : Nat := (a - b).toNat

/-- Whether a start beat is a multiple of the cycle and at least 1,024 beats ahead. -/
def startOk (s : State) (p : Plan) (start : BitVec 48) : Bool :=
  start.toNat % p.text.cycle == 0 && 1024 ≤ beatDist start s.treadle.beat && beatDist start s.treadle.beat < 2 ^ 47

def execPlanStart (k : CmdKey) (s : State) : Host.Outcome State Fault Refusal :=
  run (withCmd k 0x0501 (fun c s =>
    if descArgBlock c.desc || !c.zero 20 23 || !c.rz 24 48 16 || !c.zero 32 63 then badDesc k s
    else if s.treadle.plans.any (fun p => p.2.cmd == some k) then s
    else
      match planNamed s c with
      | .inl st => endFree k st s
      | .inr h =>
        match plan? s h with
        | none => s
        | some p =>
          let start := BitVec.ofNat 48 (c.fld 24 0 48)
          if p.cmd.isSome then startCmd k s
          else if !(p.state == .admitted || p.state == .paused) || !startOk s p start then badDesc k s
          else if !(s.treadle.locked || s.treadle.root) then admitRefused k reUnsynced 0 0 0 s
          else if p.others = [] then endFree k stOk (armPlan h start s)
          else
            let s := updPlan h (fun p => { p with cmd := some k, waiting := p.others, refusals := [] }) (startCmd k s)
            tellMembers p p.others .planArm [planHandle h, start.toNat] s)) s

def execPlanStop (k : CmdKey) (s : State) : Host.Outcome State Fault Refusal :=
  run (withCmd k 0x0502 (fun c s =>
    if descArgBlock c.desc || !c.rz 20 1 7 || !c.zero 21 63 then badDesc k s
    else if s.treadle.plans.any (fun p => p.2.cmd == some k) then s
    else
      match planNamed s c with
      | .inl st => endFree k st s
      | .inr h =>
        if (plan? s h).any (fun p => p.cmd.isSome) then startCmd k s
        else stopPlan h (if c.fld 20 0 1 = 1 then 2 else 1) (updPlan h (fun p => { p with cmd := some k }) (startCmd k s)))) s

/-- Every member has acknowledged: a commit ends PLAN_ADMIT, or stops the plan where a member refused it; an arming starts the plan
here; a stop ends the plan (R391, R393, R402, R404). DEDUCED (log 81). -/
def acksIn (h : Nat) (s : State) : State :=
  match plan? s h with
  | none => s
  | some p =>
    if p.waiting != [] then s
    else if p.stopping != 0 then settlePlan h s
    else
      match p.cmd with
      | none => s
      | some k =>
        match cmd? s k with
        | none => s
        | some c =>
          if c.opcode = 0x0500 then
            if p.refusals = [] then endCmd k stOk (planHandle h) 0 (updPlan h (fun p => { p with cmd := none }) s) else stopPlan h 1 s
          else if p.refusals = [] && (s.treadle.locked || s.treadle.root) then endFree k stOk (armPlan h (BitVec.ofNat 48 (c.fld 24 0 48)) s)
          else admitRefused k reUnsynced 0 0 0 (updPlan h (fun p => { p with cmd := none, refusals := [] }) s)

/-- A member's acknowledgement of COMMIT, arming or stop. -/
def execPlanMemberAck (_port src handle : Nat) (code : Nat) (s : State) : Host.Outcome State Fault Refusal :=
  run (fun s =>
    let h := planKey s handle
    match plan? s h with
    | none => s
    | some p =>
      let i := p.memberOf src
      if p.state == .preparing || !p.waiting.contains i then s
      else
        let r := if code = 0 then [] else [(i, code, 0, 0, 0)]
        acksIn h (updPlan h (fun p => { p with waiting := p.waiting.filter (· != i), refusals := p.refusals ++ r }) s)) s

/-! ## Pauses (R369, R370, R411, R722) -/

/-- A pause notice: every plan shared with its sender pauses at the next beat boundary (R370). -/
def execPauseNotice (_port src : Nat) (s : State) : Host.Outcome State Fault Refusal :=
  run (fun s =>
    { s with treadle := { s.treadle with plans := s.treadle.plans.map (fun p =>
        if p.2.text.members.contains src && (p.2.state == .admitted || p.2.state == .started) && p.2.pausing.isNone then
          (p.1, { p.2 with pausing := some (reUnsynced, src) })
        else p) } }) s

/-- The device declares itself unsynced (R368, R369): its started plans enter PAUSED, and every member of a multi-device plan is
told. -/
def declareUnsynced (s : State) : State :=
  let port := if s.treadle.onAlternate then s.treadle.alternate else s.treadle.primary
  let s := raise (event evBeatUnsynced port 0 (s.treadle.phaseErr % 2 ^ 32).toNat (s.treadle.sinceMarker % 2 ^ 32))
    { s with treadle := { s.treadle with locked := false, unsynced := true, run := 0 } }
  (s.treadle.plans.filter (fun p => p.2.state != .preparing && p.2.state != .tentative)).foldl (fun s p => tellMembers p.2 p.2.others .pauseNotice [] s) s

/-- The capacity of a port has fallen: plans that reserve on it are paused, the most recently admitted first, until the rest fit
(R411). -/
def fitPort (port : Nat) : Nat → State → State
  | 0, s => s
  | fuel + 1, s =>
    let rid := if port < 24 then port * 2 else 4096 + (port - 24) * 2
    let live := s.treadle.plans.filter (fun p => p.2.state == .admitted || p.2.state == .started)
    let l := live.map (fun p => (p.2.text, p.2.me))
    if (overload s l [rid, rid + 1]).isNone then s
    else
      let on := live.filter (fun p => p.2.text.picks.any (fun k => k.member == p.2.me && k.demand.any (fun d => d.1 == rid || d.1 == rid + 1)))
      match on.foldl (fun (a : Option (Nat × Plan)) p => match a with | some x => if x.2.order < p.2.order then some p else some x | none => some p) none with
      | some p => fitPort port fuel (pausePlan reBandwidth s.pool.id p.1 s)
      | none => s

/-! ## The beat (R362–R371, R643) -/

/-- A beat marker arrives on the input in use; a marker on the primary input ends the use of the alternate (R366, R364, R368). DEDUCED (log 82). -/
def execBeat (port : Nat) (number : BitVec 48) (root hops : Nat) (phaseErr : Int) (s : State) : Host.Outcome State Fault Refusal :=
  run (fun s =>
    let t := s.treadle
    if t.root || !portUp s port || !(port == t.primary || (t.onAlternate && port == t.alternate)) then s
    else
      let close := decide (phaseErr.natAbs ≤ 64)
      let s := { s with treadle := { t with
        phaseErr := phaseErr, hops := hops % 16, rootId := root % 4096, onAlternate := t.onAlternate && port != t.primary,
        run := if close then min (t.run + 1) 64 else 0 } }
      let done := fun (s : State) => { s with treadle := { s.treadle with sinceMarker := 0 } }
      if !close then done (if t.unsynced then s else declareUnsynced s)
      else if !t.locked && s.treadle.run = 64 then
        done (raise (event evBeatLocked port 0 (phaseErr % 2 ^ 32).toNat 0)
          { s with treadle := { s.treadle with locked := true, unsynced := false, beat := number } })
      else done s) s

/-- The primary input has been silent for 4 beats: markers are taken from the alternate (R366). DEDUCED (log 82). -/
def execBeatInputFailover (s : State) : Host.Outcome State Fault Refusal :=
  run (fun s =>
    if !s.treadle.root && !s.treadle.onAlternate && s.treadle.alternate < 26 && 4 ≤ s.treadle.sinceMarker then
      { s with treadle := { s.treadle with onAlternate := true } }
    else s) s

/-- Markers stop for 16 beats (R368). A marker that shows excess error declares the device unsynced when it arrives. -/
def execBeatUnsynced (_cause : Nat) (s : State) : Host.Outcome State Fault Refusal :=
  run (fun s => if !s.treadle.root && !s.treadle.unsynced && 16 ≤ s.treadle.sinceMarker then declareUnsynced s else s) s

/-! ## A beat boundary (R363, R369, R370, R393, R406–R408, R375, R641, R657) -/

/-- Stops and pauses that take effect at the boundary: no pick of an unsynced device is released, and its started plans are
paused without an event of their own (R369). -/
def turnPlan (s : State) (h : Nat) : State :=
  match plan? s h with
  | none => s
  | some p =>
    let run := p.state == .started && beatDist s.treadle.beat p.startBeat < 2 ^ 47
    let s :=
      if p.stopping = 1 || (p.stopping = 2 && (!run || s.treadle.beat.toNat % p.text.cycle = 0)) then updPlan h (fun p => { p with stopping := 3 }) s else s
    let s := match p.pausing with | some (r, c) => pausePlan r c h s | none => s
    if s.treadle.unsynced && p.state == .started then notePlan h (updPlan h (fun p => { p with state := .paused }) s) else s

/-- The scope that the sync records of a plan declare for its RELEASE or ACQUIRE pick `i`. -/
def declaredScope (t : PlanText) (i op : Nat) : Option Nat :=
  if op = 0x0031 then (t.syncs.find? (fun y => y.relPick == i)).map (·.relScope)
  else if op = 0x0032 then (t.syncs.find? (fun y => y.acqPick == i)).map (·.acqScope)
  else none

/-- A pick at its start beat: the ring's next held descriptor is released, or the pick is missed (R406–R408). -/
def releasePick (h : Nat) (p : Plan) (s : State) (k : Nat × Pick) : State :=
  match s.bobbin.cmds.find? (fun (c : Cmd) => c.key.sq == planRing h k.2.sq && c.lead.isNone && c.phase == Phase.held && descScheduled c.desc) with
  | none => { s with treadle := { s.treadle with missed := s.treadle.missed + 1 } }
  | some c =>
    if c.opcode ≠ k.2.opcode || (declaredScope p.text k.1 c.opcode).any (fun x => x != c.fld 16 0 2) then badDesc c.key s
    else
      updCmd c.key (fun c => { c with phase := .ready, pick := some (h, k.1),
                                      due := s.treadle.beat + BitVec.ofNat 48 k.2.span }) s

/-- The picks of a running plan that start at this beat. -/
def releasePicks (s : State) (h : Nat) : State :=
  match plan? s h with
  | none => s
  | some p =>
    if p.state != .started || p.stopping = 3 || 2 ^ 47 ≤ beatDist s.treadle.beat p.startBeat || s.treadle.unsynced then s
    else
      let x := s.treadle.beat.toNat % p.text.cycle
      ((p.text.mine p.me).filter (fun k => k.2.start == x)).foldl (releasePick h p) s

/-- The budget counters of every released pick are reloaded with its per-beat reservations (R375). -/
def reloadBudgets (s : State) : State :=
  let l := s.bobbin.cmds.flatMap (fun (c : Cmd) =>
    match c.pick with
    | none => []
    | some (h, i) =>
      if c.phase == Phase.ended then []
      else
        match (plan? s h).bind (fun p => p.text.picks[i]?) with
        | none => []
        | some k => (k.demand.map (·.1)).eraseDups.map (fun r => (h, i, r, k.perBeat r)))
  { s with treadle := { s.treadle with budgets := l } }

/-- Markers and heartbeats leave (R363, R367, R641, R657): the root and every member in step send markers on their beat-output
ports, and so does the twin of a silent root, which holds its beat. -/
def sendMarkers (s : State) : State :=
  let t := s.treadle
  let hops := if t.root then 0 else t.hops + 1
  let twinOfRoot := hasTwin s && t.rootId == s.twin.partner && t.rootId != 0xFFF
  let root := if t.root then s.pool.id else t.rootId
  let s :=
    if t.root || t.locked || twinOfRoot then
      (s.links.ports.filter (fun p => p.2.beatOut && portUp s p.1)).foldl (fun s p => emit (.marker p.1 t.beat root hops) s) s
    else s
  ([24, 25].filter (fun p => portUp s p && s.harbour.boot == 3)).foldl (fun s p =>
    emit (.manage p s.twin.partner .heartbeat [s.treadle.beat.toNat, s.pool.epoch.toNat]) s) s

def execBeatBoundary (slack : Int) (s : State) : Host.Outcome State Fault Refusal :=
  run (fun s =>
    let s := { s with
      treadle := { s.treadle with beat := s.treadle.beat + 1, slack := BitVec.ofInt 16 slack,
                                  sinceMarker := if s.treadle.root then 0 else s.treadle.sinceMarker + 1 },
      twin := { s.twin with silent := s.twin.silent + 1 } }
    let keys := s.treadle.plans.map (·.1)
    let s := keys.foldl turnPlan s
    let s := keys.foldl releasePicks s
    sendMarkers (settlePlans (reloadBudgets s))) s

/-! ## Overruns (R410) -/

/-- Beats by which a pick's record is late: it is due by the end of its due beat. -/
def beatsLate (s : State) (c : Cmd) : Nat :=
  let d := beatDist s.treadle.beat c.due
  if c.pick.isSome && d < 2 ^ 47 then d else 0

/-- A pick's beat has ended without its record. -/
def overrunPick (k : CmdKey) (s : State) : State :=
  match cmd? s k with
  | none => s
  | some c =>
    if beatsLate s c = 0 || c.overrun then s
    else updCmd k (fun c => { c with overrun := true }) { s with treadle := { s.treadle with overruns := s.treadle.overruns + 1 } }

def execPickOverrun (k : CmdKey) (s : State) : Host.Outcome State Fault Refusal := run (overrunPick k) s

/-- The record of a pick has been written: a late one is counted, if its beat's end has not counted it, and its PLAN_OVERRUN event
says by how much. -/
def pickWritten (k : CmdKey) (s : State) : State :=
  let s := overrunPick k s
  match cmd? s k with
  | none => s
  | some c =>
    match c.pick with
    | some (h, i) =>
      if beatsLate s c = 0 then s
      else
        let e := event evPlanOverrun 0 (planHandle h % 65536) i (beatsLate s c % 2 ^ 32)
        raise { e with tagHigh := planHandle h / 65536 } s
    | none => s

end Sys2Proof.Machine
end

