-- ==== Sys2Proof/Machine/Rings.lean ====
section
/-! DEFINITION. Rings (chapter 07): setup records, creation and destruction, doorbells, descriptor fetch and its checks, ring
errors, completion records, interrupts and events. -/

namespace Sys2Proof.Machine

/-! ## What a ring pair is -/

/-- Whether a ring is fetched from: not in error, not being destroyed, and its function may use the bus (R342, R764). -/
def Sq.active (q : Sq) : Bool := q.err.isNone && !q.destroying

/-- The commands of a ring in flight, in fetch order. -/
def ringCmds (s : State) (sq : Nat) : List Cmd := s.bobbin.cmds.filter (fun c => c.key.sq == sq && c.lead.isNone)

/-- The lowest sequence number whose record is not yet written (R335). -/
def baseOf (s : State) (sq : Nat) : BitVec 32 :=
  match ringCmds s sq, NMap.get? s.bobbin.sqs sq with
  | c :: _, _ => c.key.seq
  | [], some q => q.fetched
  | [], none => 0

/-- Whether a started plan names a ring of this device as a pick ring (R349). DEDUCED (log 80). -/
def pickRing (s : State) (sq : Nat) : Bool :=
  s.treadle.plans.any (fun p => p.2.state == .started && p.2.text.picks.any (fun x => x.member == p.2.me && planRing p.1 x.sq == sq))

/-- Whether the page under an address is mirrored. -/
def onMirrored (s : State) (isle va : Nat) : Bool := (entryOf s isle (va / pageSize)).any eMirrored

/-- A store ring whose SQ, CQ and doorbell line all lie in mirrored regions (R707). -/
def mirroredRing (s : State) (q : Sq) : Bool :=
  match NMap.get? s.bobbin.cqs q.cq with
  | some c =>
    !q.host && (pagesOf q.base.toNat (2 ^ q.log2 * 64)).all (fun p => onMirrored s q.isle (p * pageSize)) &&
      (pagesOf c.base.toNat (2 ^ c.log2 * 32)).all (fun p => onMirrored s q.isle (p * pageSize)) && onMirrored s q.isle q.dbLine.toNat
  | none => false

/-- The words of a mirrored ring's state. -/
def ringWords (s : State) (sq : Nat) (q : Sq) (c : Cq) : List Nat :=
  [sq, q.isle, q.log2, q.base.toNat, q.dbLine.toNat, q.dbSlot, q.inflightMax, q.alive.toNat, q.accepted.toNat, q.fetched.toNat,
   (match q.err with | some e => e + 1 | none => 0), q.cq, c.log2, c.base.toNat, c.dbLine.toNat, c.dbSlot, c.alive.toNat, c.written.toNat,
   c.consumed.toNat] ++ (ringCmds s sq).map (·.key.seq.toNat)

/-- A change of a mirrored ring goes to the twin. -/
def noteRing (sq : Nat) (s : State) : State :=
  match NMap.get? s.bobbin.sqs sq with
  | none => s
  | some q =>
    match NMap.get? s.bobbin.cqs q.cq with
    | some c => if mirroredRing s q then twinNote 9 (ringWords s sq q c) [] s else s
    | none => s

/-- The rings that complete into a CQ. -/
def sqsOfCq (s : State) (cq : Nat) : List Nat := (s.bobbin.sqs.filter (fun q => q.2.cq == cq)).map (·.1)

/-- A change of a CQ goes to the twin for every mirrored ring that uses it. -/
def noteCq (cq : Nat) (s : State) : State := (sqsOfCq s cq).foldl (fun s sq => noteRing sq s) s

/-! ## Writing for the device itself -/

/-- Make the lines of one piece ready for a write: every copy outside is taken back first. -/
def devLines : List Nat → State → Bool × State
  | [], s => (true, s)
  | l :: ls, s =>
    let a := hedClear .recall l s
    let b := devLines ls a.2
    (a.1 && b.1, b.2)

/-- Make ranges of an isle ready for the device's own writes (rings and doorbell slots). -/
def devReady (isle : Nat) : List (Nat × Nat) → State → Got × State
  | [], s => (.ok, s)
  | (va, n) :: rest, s =>
    match xlat s isle va 2 with
    | .inr st => (.fail st, faultEvent isle va st s)
    | .inl e =>
      match reachPage .load isle (va / pageSize) e true false s with
      | (.wait _, s) => (match devReady isle rest s with | (.fail st, s) => (.fail st, s) | (_, s) => (.wait, s))
      | (.fail st, s) => (.fail st, s)
      | (.at off, s) =>
        let a := if eCoherent e && (inTier .hbm (off / pageSize) || inTier .ddr (off / pageSize)) then
            devLines (linesOf (off + va % pageSize) n) s
          else (true, s)
        match devReady isle rest a.2 with
        | (.ok, s) => (if a.1 then .ok else .wait, s)
        | r => r

/-- Write bytes for the device itself, its ranges made ready before. -/
def devWrite (isle va : Nat) (bs : List Byte) (s : State) : Bool × State := vstore isle va bs s

/-! ## Ring errors (R350, R351) -/

/-- A ring enters the error state; the first cause stands. DEDUCED (log 76). -/
def sqError (sq cause : Nat) (s : State) : State :=
  noteRing sq (updSq sq (fun q => if q.err.isSome then q else { q with err := some cause, errRecord := true }) s)

/-- The RING_ERROR event of a ring. -/
def ringErrorEvent (sq : Nat) (s : State) : State :=
  match NMap.get? s.bobbin.sqs sq with
  | none => s
  | some q =>
    let e := event evRingError 0 (sq % 4096) (baseOf s sq).toNat 0
    raise { e with status := q.err.getD stOk } s

/-- A CQ cannot be written: every ring that completes into it is in error, its reservations are released, and no ring-error record
follows. -/
def cqBroken (cq cause : Nat) (s : State) : State :=
  let s := updCq cq (fun c => { c with broken := true, reserved := 0 }) s
  (sqsOfCq s cq).foldl (fun s sq =>
    match NMap.get? s.bobbin.sqs sq with
    | none => s
    | some q =>
      if q.err.isSome && !q.errRecord then s
      else ringErrorEvent sq (updSq sq (fun q => { q with errRecord := false }) (sqError sq cause s))) s

/-! ## Completion records (R352–R355) -/

/-- What writing one record comes to. -/
inductive Wrote where
  | ok
  | wait
  | fail (cause : Nat)
  deriving DecidableEq, Repr

/-- Write the next record of a CQ with one indivisible write: `bytes` gives the record for its sequence number. Whether a host CQ
can be written is the command's own word. -/
def putRecord (cq : Nat) (bytes : Nat → List Byte) (ok : Bool) (s : State) : Wrote × State :=
  match NMap.get? s.bobbin.cqs cq with
  | none => (.wait, s)
  | some c =>
    let m := c.written.toNat
    let a := c.base + BitVec.ofNat 64 (m % 2 ^ c.log2 * 32)
    let count := fun (s : State) => updCq cq (fun c => { c with written := c.written + 1 }) s
    if c.host then
      if ok then (.ok, count (emit (.hostWrite c.fn a (bytes m)) s))
      else (.fail ((Config.freeWord s.free).toNat % 65536), nextFree s)
    else
      match devReady c.isle [(a.toNat, 32)] s with
      | (.fail st, s) => (.fail st, s)
      | (.wait, s) => (.wait, s)
      | (.ok, s) =>
        let w := devWrite c.isle a.toNat (bytes m) s
        if w.1 then (.fail stPoison, w.2) else (.ok, count w.2)

/-- The record of a command (R353). -/
def cmdRecord (s : State) (c : Cmd) (q : Cq) (m : Nat) : List Byte :=
  recordBytes (bits c.desc 32 32) c.status (m % 65536) (recordFlags (recordPhase m q.log2) c.short false) 0 (c.key.sq % 4096) c.count0
    c.count1 s.treadle.beat.toNat

/-- A slot reserved for a command is given back. -/
def giveSlot (cq : Nat) (s : State) : State := updCq cq (fun c => { c with reserved := c.reserved - 1 }) s

/-! ## Destruction (R322–R324, R327) -/

/-- An ISLE_RESET ends once its isle owns no ring and no command of it is in flight: the isle is ACTIVE again (R766). -/
def finishReset (s : State) (k : CmdKey) : State :=
  match cmd? s k with
  | none => s
  | some c =>
    let i := c.fld 16 0 14
    if c.phase != .running || s.bobbin.sqs.any (fun q => q.2.isle == i) || s.bobbin.cmds.any (fun (x : Cmd) => x.isle == i) then s
    else
      match NMap.get? s.isles i with
      | some r => endFirst k stOk (c.aux.headD 0) (setIsle (some k) i (some { r with state := .active }) s)
      | none => s

def finishResets (s : State) : State :=
  ((s.bobbin.cmds.filter (fun (c : Cmd) => c.opcode == 0x0F06 && c.phase == Phase.running)).map (·.key)).foldl finishReset s

/-- A ring goes: its CQ with the last ring that uses it, and its homes are told (R323, R507). -/
def removeRing (sq : Nat) (s : State) : State :=
  match NMap.get? s.bobbin.sqs sq with
  | none => s
  | some q =>
    let mir := mirroredRing s q
    let s := { s with bobbin := { s.bobbin with sqs := NMap.del s.bobbin.sqs sq } }
    let s := if sqsOfCq s q.cq = [] then { s with bobbin := { s.bobbin with cqs := NMap.del s.bobbin.cqs q.cq } } else s
    let s := if mir then twinNote 9 [sq] [] s else s
    let s := ringGone sq s
    let s := match q.destroyCmd with | some k => endFree k stOk s | none => s
    finishResets (match q.destroyFn with
      | some f => updFn f (fun f => { f with busy := false, status := stOk }) s
      | none => s)

/-- A destroyed ring goes once its last command has written its record. -/
def tryRemove (sq : Nat) (s : State) : State :=
  match NMap.get? s.bobbin.sqs sq with
  | some q => if q.destroying && ringCmds s sq == [] then removeRing sq s else s
  | none => s

/-- A destroy begins: fetching stops, and the ring's ACQUIREs end with ST_TIMEOUT. -/
def beginDestroy (sq : Nat) (cmd : Option CmdKey) (fn : Option Nat) (s : State) : State :=
  let s := updSq sq (fun q => { q with destroying := true, destroyCmd := cmd, destroyFn := fn }) s
  let s := ((ringCmds s sq).filter (fun (c : Cmd) => c.opcode == 0x0032 && c.phase != Phase.ended)).foldl (fun s c => endFree c.key stTimeout s) s
  tryRemove sq s

/-- The status that refuses a destroy (R324, R327): `fn` names the function of a register path. -/
def destroyRefusal (s : State) (sq : Nat) (from' : Option Nat) (fn : Option Nat) : Option Nat :=
  match NMap.get? s.bobbin.sqs sq with
  | none => some stBadDescriptor
  | some q =>
    if 4096 ≤ sq || q.destroying then some stBadDescriptor
    else if from' == some sq then some stPermission
    else if q.management && s.harbour.sealed && !s.bobbin.sqs.any (fun x => x.1 != sq && x.2.management && x.2.active) then some stPermission
    else
      match fn with
      | some f => if f != 0 && (!q.host || q.fn != f) then some stPermission else none
      | none => none

/-! ## Creation (R315–R321, R826) -/

/-- A setup record: the 64 bytes as one number. -/
abbrev Rec := Nat

def rf (r : Rec) (byte lo len : Nat) : Nat := bits r (8 * byte + lo) len
def rSqHost (r : Rec) : Bool := bit (rf r 2 0 8) 0
def rCqHost (r : Rec) : Bool := bit (rf r 2 0 8) 1
def rDbHost (r : Rec) : Bool := bit (rf r 2 0 8) 2
def rShare (r : Rec) : Bool := bit (rf r 2 0 8) 3
def rManagement (r : Rec) : Bool := bit (rf r 2 0 8) 4
def rEvents (r : Rec) : Bool := bit (rf r 2 0 8) 5
def rSqLog2 (r : Rec) : Nat := rf r 3 0 5
def rCqLog2 (r : Rec) : Nat := rf r 4 0 5
def rCq (r : Rec) : Nat := rf r 8 0 12
def rMsixEn (r : Rec) : Bool := bit (rf r 10 0 16) 15
def rVector (r : Rec) : Nat := rf r 10 0 11
def rSqBase (r : Rec) : Nat := rf r 16 0 64
def rCqBase (r : Rec) : Nat := rf r 24 0 64
def rSqLine (r : Rec) : Nat := rf r 32 0 64
def rCqLine (r : Rec) : Nat := rf r 40 0 64
def rSqSlot (r : Rec) : Nat := rf r 12 0 3
def rCqSlot (r : Rec) : Nat := rf r 12 3 3

/-- Whether a host address, or an isle virtual address, is in range and aligned. -/
def rAddrOk (host : Bool) (a align : Nat) : Bool := a % align == 0 && (host || a < 2 ^ 55)

/-- R316 but for its two doorbell rules. -/
def setupFieldsOk (s : State) (fn : Nat) (viaReg : Bool) (r : Rec) : Bool :=
  let sh := rShare r
  rf r 0 14 2 == 0 && rf r 2 6 2 == 0 && rf r 3 5 3 == 0 && rf r 4 5 3 == 0 && rf r 6 11 5 == 0 && rf r 8 12 4 == 0 && rf r 10 11 4 == 0 &&
    rf r 12 6 2 == 0 && rf r 48 0 128 == 0 && (!viaReg || rf r 0 0 14 == 0) && 6 ≤ rSqLog2 r && rSqLog2 r ≤ 16 &&
    (rDbHost r || rf r 5 0 8 == 0) && 1 ≤ rf r 6 0 11 && rf r 6 0 11 ≤ 1024 && rAddrOk (rSqHost r) (rSqBase r) 4096 &&
    rAddrOk (rDbHost r) (rSqLine r) 64 &&
    !(!rSqHost r && (rCqHost r || rDbHost r || rMsixEn r)) && !(rSqHost r && !rCqHost r && !sh) &&
    (if sh then
      rCqLog2 r == 0 && !rCqHost r && !rMsixEn r && rVector r == 0 && rf r 13 0 8 == 0 && rf r 14 0 16 == 0 && rCqBase r == 0 &&
        rCqLine r == 0 && rCqSlot r == 0 && (NMap.get? s.bobbin.cqs (rCq r)).isSome
    else
      6 ≤ rCqLog2 r && rCqLog2 r ≤ 16 && rCq r == 0 && rAddrOk (rCqHost r) (rCqBase r) 4096 && rAddrOk (rDbHost r) (rCqLine r) 64 &&
        (!rMsixEn r || (NMap.get? s.bobbin.fns fn).any (fun f => rVector r < f.vectors)))

/-- R317. -/
def setupAllowed (s : State) (fn isle : Nat) (bound viaReg : Bool) (r : Rec) : Bool :=
  !((rManagement r || rEvents r) && !(fn == 0 && rSqHost r)) && !(rEvents r && s.bobbin.sqs.any (fun q => q.2.events)) &&
    (!rShare r || (NMap.get? s.bobbin.cqs (rCq r)).any (fun c => c.isle == isle && c.fn == fn && c.host == rSqHost r)) &&
    isleActive s isle && bound && !(viaReg && !rSqHost r)

/-- Store ranges that a setup record names, with the rights each needs (R319): SQ, CQ, doorbell lines. -/
def setupRanges (r : Rec) : List (Nat × Nat × Nat) :=
  (if rSqHost r then [] else [(rSqBase r, 2 ^ rSqLog2 r * 64, 1)]) ++
    (if rSqHost r || rShare r then [] else [(rCqBase r, 2 ^ rCqLog2 r * 32, 2)]) ++
    (if rDbHost r then [] else (rSqLine r, 64, 3) :: (if rShare r then [] else [(rCqLine r, 64, 3)]))

/-- The status of the mappings that a setup record needs: unmapped before a missing right. -/
def setupMapped (s : State) (isle : Nat) (r : Rec) : Nat :=
  let l := (setupRanges r).map (fun x => xlatRange s isle x.1 x.2.1 x.2.2)
  let l := l ++ (setupRanges r).map (fun x => xlatRange s isle x.1 x.2.1 0)
  if l.contains stNotMapped then stNotMapped else (l.find? (· != stOk)).getD stOk

/-- The place of a doorbell: host function and line, or device offset of the line; and its slot. -/
def dbPlace (s : State) (host : Bool) (fn isle line slot : Nat) : Nat × Nat × Nat :=
  if host then (fn, line, slot) else (256, (offOf s isle line).getD 0, slot)

/-- The doorbells in use. -/
def dbsInUse (s : State) : List (Nat × Nat × Nat) :=
  s.bobbin.sqs.map (fun q => dbPlace s q.2.dbHost q.2.fn q.2.isle q.2.dbLine.toNat q.2.dbSlot) ++
    s.bobbin.cqs.map (fun q => dbPlace s q.2.dbHost q.2.fn q.2.isle q.2.dbLine.toNat q.2.dbSlot)

/-- The doorbells of a setup record. -/
def setupDbs (s : State) (fn isle : Nat) (r : Rec) : List (Nat × Nat × Nat) :=
  dbPlace s (rDbHost r) fn isle (rSqLine r) (rSqSlot r) ::
    (if rShare r then [] else [dbPlace s (rDbHost r) fn isle (rCqLine r) (rCqSlot r)])

/-- The two doorbell rules of R316. -/
def setupDbsOk (s : State) (fn isle : Nat) (r : Rec) : Bool :=
  let l := setupDbs s fn isle r
  l.all (fun d => !(dbsInUse s).contains d) && l.eraseDups.length == l.length &&
    (rDbHost r || ([rSqLine r] ++ (if rShare r then [] else [rCqLine r])).all (fun a => (entryOf s isle (a / pageSize)).any eCoherent))

/-- R318. -/
def setupRoom (s : State) (fn isle : Nat) (r : Rec) : Bool :=
  (s.bobbin.sqs.filter (fun q => q.2.isle == isle)).length < (match isle? s isle with | some i => i.ringQuota | none => 0) &&
    (lowestFree s.bobbin.sqs 0 4096).isSome && (rShare r || (lowestFree s.bobbin.cqs 0 4096).isSome) &&
    !(rManagement r && 16 ≤ (s.bobbin.sqs.filter (fun q => q.2.management)).length) &&
    (let new := ((setupDbs s fn isle r).filter (fun d => d.1 == 256)).map (·.2.1)
     (watchedLines s ++ new).eraseDups.length ≤ 4096 || new.all (watchedLines s).contains)

/-- The status of a setup record's checks, in the order of R826. -/
def setupStatus (s : State) (fn isle : Nat) (bound viaReg : Bool) (r : Rec) : Nat :=
  if !setupFieldsOk s fn viaReg r then stBadDescriptor
  else if !setupAllowed s fn isle bound viaReg r then stPermission
  else if setupMapped s isle r != stOk then setupMapped s isle r
  else if !setupDbsOk s fn isle r then stBadDescriptor
  else if !setupRoom s fn isle r then stQuota
  else stOk

/-- The bytes that the device writes before a creation completes: a store CQ's slots and the store doorbell slots (R320, R333). -/
def setupWrites (r : Rec) : List (Nat × Nat) :=
  (if rSqHost r || rShare r then [] else [(rCqBase r, 2 ^ rCqLog2 r * 32)]) ++
    (if rDbHost r then [] else (rSqLine r + 8 * rSqSlot r, 8) :: (if rShare r then [] else [(rCqLine r + 8 * rCqSlot r, 8)]))

/-- Create the ring pair of a checked setup record: its SQ and CQ ids. -/
def createRing (fn isle : Nat) (r : Rec) (s : State) : Nat × Nat × State :=
  let sq := (lowestFree s.bobbin.sqs 0 4096).getD 0
  let cq := if rShare r then rCq r else (lowestFree s.bobbin.cqs 0 4096).getD 0
  let c : Cq :=
    { isle := isle, fn := fn, host := rCqHost r, log2 := rCqLog2 r, base := BitVec.ofNat 64 (rCqBase r), dbHost := rDbHost r,
      dbLine := BitVec.ofNat 64 (rCqLine r), dbSlot := rCqSlot r, alive := 0xFFFF, written := 0, consumed := 0, reserved := 0,
      msixEn := rMsixEn r, msixVector := rVector r, modCount := rf r 13 0 8, modTime := rf r 14 0 16, counted := 0, ignored := 0,
      broken := false }
  let q : Sq :=
    { isle := isle, fn := fn, host := rSqHost r, dbHost := rDbHost r, management := rManagement r, events := rEvents r,
      log2 := rSqLog2 r, base := BitVec.ofNat 64 (rSqBase r), dbLine := BitVec.ofNat 64 (rSqLine r), dbSlot := rSqSlot r,
      pollGroup := rf r 5 0 8, inflightMax := rf r 6 0 11, cq := cq, alive := 0xFFFF, accepted := 0, fetched := 0, err := none,
      errRecord := false, destroying := false, destroyCmd := none, destroyFn := none, ignored := 0, rereads := 0, awaitBme := false }
  let s := if rShare r then s else { s with bobbin := { s.bobbin with cqs := NMap.set s.bobbin.cqs cq c } }
  let s := { s with bobbin := { s.bobbin with sqs := NMap.set s.bobbin.sqs sq q } }
  (sq, cq, noteRing sq s)

/-- Zero what a creation zeroes. -/
def setupZero (isle : Nat) (r : Rec) (s : State) : State :=
  (setupWrites r).foldl (fun s w => (devWrite isle w.1 (List.replicate w.2 0) s).2) s

/-- The pages that a setup's zeroing touches, piece by piece. -/
def setupPieces (r : Rec) : List (Nat × Nat) := (setupWrites r).flatMap (fun w => pieces w.1 w.2)

def execRingCreate (k : CmdKey) (s : State) : Host.Outcome State Fault Refusal :=
  run (withCmd k 0x0F10 (fun c s =>
    let r := leVal c.arg
    if !(c.hasArg (· == 64) && c.zero 32 63) then badDesc k s
    else
      let isle := rf r 0 0 14
      let st := setupStatus s 0 isle true false r
      if st != stOk then endFree k st s
      else
        match devReady isle (setupPieces r) (startCmd k s) with
        | (.fail st, s) => endFree k st s
        | (.wait, s) => s
        | (.ok, s) =>
          let n := createRing 0 isle r (setupZero isle r s)
          endCmd k stOk n.1 n.2.1 n.2.2)) s

def execRingDestroy (k : CmdKey) (s : State) : Host.Outcome State Fault Refusal :=
  run (withCmd k 0x0F11 (fun c s =>
    let sq := c.fld 16 0 12
    if c.phase = .running then s
    else if !(!descArgBlock c.desc && c.rz 16 12 4 && c.zero 18 63) then badDesc k s
    else
      match destroyRefusal s sq (some k.sq) none with
      | some st => endFree k st s
      | none => beginDestroy sq (some k) none (startCmd k s))) s

/-! ## The register path (R325–R327) -/

/-- The isle that a function's rings belong to: none for a VF without a binding. -/
def fnIsle (s : State) (fn : Nat) : Option Nat :=
  if fn = 0 then some 0
  else
    let v := (NMap.getD s.links.vfBinds fn 0).toNat
    if bit v 15 then some (bits v 0 14) else none

/-- Whether a function's ring-setup registers act: PF0's only until the seal, no fenced device's. -/
def setupActs (s : State) (fn : Nat) : Bool :=
  (NMap.get? s.bobbin.fns fn).isSome && !(fn == 0 && s.harbour.sealed) && s.twin.state != .fenced

/-- A command of a function's ring-setup registers ends. -/
def fnResult (fn status : Nat) (s : State) : State := updFn fn (fun f => { f with busy := false, status := status }) s

/-- Whether a destroy of a function's ring-setup registers is under way. -/
def fnDestroying (s : State) (fn : Nat) : Bool := s.bobbin.sqs.any (fun q => q.2.destroyFn == some fn)

/-- BOB_RING_CMD with op 1. While the creation waits for copies of a doorbell line to come back, busy is set and the row goes on
with it. DESIGN CHOICE (log 77). -/
def setupCreate (fn : Nat) (s : State) : State :=
  if !setupActs s fn || fnDestroying s fn then s
  else
    let r := match NMap.get? s.bobbin.fns fn with | some f => f.ringRec | none => 0
    let isle := (fnIsle s fn).getD 0
    let st := setupStatus s fn isle (fnIsle s fn).isSome true r
    if st != stOk then fnResult fn st s
    else
      match devReady isle (setupPieces r) s with
      | (.fail st, s) => fnResult fn st s
      | (.wait, s) => updFn fn (fun f => { f with busy := true }) s
      | (.ok, s) =>
        let n := createRing fn isle r (setupZero isle r s)
        updFn fn (fun f => { f with sqId := n.1, cqId := n.2.1 }) (fnResult fn stOk n.2.2)

def execRingSetupCreate (fn : Nat) (s : State) : Host.Outcome State Fault Refusal := run (setupCreate fn) s

/-- BOB_RING_CMD with op 2. -/
def setupDestroy (fn sq : Nat) (s : State) : State :=
  if !setupActs s fn || (NMap.get? s.bobbin.fns fn).any (·.busy) then s
  else
    match destroyRefusal s sq none (some fn) with
    | some st => fnResult fn st s
    | none => beginDestroy sq none (some fn) (updFn fn (fun f => { f with busy := true }) s)

def execRingSetupDestroy (fn sq : Nat) (s : State) : Host.Outcome State Fault Refusal := run (setupDestroy fn sq) s

/-! ## Doorbells (R332–R340) -/

/-- Whether a doorbell value passes R334 against the alive value last accepted. -/
def doorbellOk (b : List Byte) (alive : BitVec 16) : Bool :=
  let d := (BitVec.ofNat 16 (field b 4 2) - alive).toNat
  !zeros b 0 8 && crc crc16dif (b.take 6) == field b 6 2 && 1 ≤ d && d ≤ 32767

/-- The doorbell value of a ring's slot (R334, R335). -/
def takeSqDoorbell (sq : Nat) (b : List Byte) (s : State) : State :=
  match NMap.get? s.bobbin.sqs sq with
  | none => s
  | some q =>
    if q.destroying then s
    else if !doorbellOk b q.alive then updSq sq (fun q => { q with ignored := q.ignored + 1 }) s
    else
      let index := BitVec.ofNat 32 (field b 0 4)
      let depth := 2 ^ q.log2
      let s := updSq sq (fun q => { q with alive := BitVec.ofNat 16 (field b 4 2) }) s
      if depth < seqDist index q.accepted ∨ depth < seqDist index (baseOf s sq) then sqError sq stBadDescriptor s
      else noteRing sq (updSq sq (fun q => { q with accepted := index }) s)

/-- The head doorbell of a CQ (R334, R336). -/
def takeCqDoorbell (cq : Nat) (b : List Byte) (s : State) : State :=
  match NMap.get? s.bobbin.cqs cq with
  | none => s
  | some c =>
    let ignore := updCq cq (fun c => { c with ignored := c.ignored + 1 }) s
    if !doorbellOk b c.alive then ignore
    else
      let index := BitVec.ofNat 32 (field b 0 4)
      let s := updCq cq (fun c => { c with alive := BitVec.ofNat 16 (field b 4 2) }) s
      if seqDist index c.consumed ≤ seqDist c.written c.consumed then noteCq cq (updCq cq (fun c => { c with consumed := index }) s)
      else updCq cq (fun c => { c with ignored := c.ignored + 1 }) s

/-- Apply a doorbell line to the rings whose doorbells it holds. -/
def takeLine (isSq : Sq → Bool) (isCq : Cq → Bool) (bs : List Byte) (s : State) : State :=
  let sqs := s.bobbin.sqs.filter (fun q => isSq q.2)
  let cqs := s.bobbin.cqs.filter (fun q => isCq q.2)
  let s := sqs.foldl (fun s q => takeSqDoorbell q.1 ((bs.drop (8 * q.2.dbSlot)).take 8) s) s
  cqs.foldl (fun s q => takeCqDoorbell q.1 ((bs.drop (8 * q.2.dbSlot)).take 8) s) s

/-- Whether a host line holds doorbells of a function's rings. -/
def sqOnLine (fn : Nat) (line : BitVec 64) (q : Sq) : Bool := q.dbHost && q.fn == fn && q.dbLine == line
def cqOnLine (fn : Nat) (line : BitVec 64) (q : Cq) : Bool := q.dbHost && q.fn == fn && q.dbLine == line

/-- A poll of a host doorbell line falls due (R337, R339). -/
def execDoorbellPoll (fn : Nat) (line : BitVec 64) (s : State) : Host.Outcome State Fault Refusal :=
  run (fun s =>
    if !(s.bobbin.sqs.any (fun q => sqOnLine fn line q.2) || s.bobbin.cqs.any (fun q => cqOnLine fn line q.2)) then s
    else if s.twin.state = .fenced || !(NMap.get? s.bobbin.fns fn).any (·.bme) then s
    else if s.bobbin.polls.length < 64 then
      emit (.hostRead fn line 64) { s with bobbin := { s.bobbin with polls := s.bobbin.polls ++ [(fn, line)] } }
    else { s with bobbin := { s.bobbin with pollQueue := s.bobbin.pollQueue ++ [(fn, line)], latePolls := s.bobbin.latePolls + 1 } }) s

/-- The status of a host read that brings no data (R346 check 8). -/
def readStatus : HostRead → Option Nat
  | .data _ => none
  | .refused => some stPermission
  | .poisoned => some stPoison
  | .timeout => some stTimeout

/-- Remove the first of a list's entries that equals `x`. -/
def removeOne {α : Type} [DecidableEq α] (x : α) : List α → List α
  | [] => []
  | y :: r => if x = y then r else y :: removeOne x r

/-- A polled line returns; the next waiting poll is issued (R339). -/
def execDoorbellPollReturn (fn : Nat) (line : BitVec 64) (data : HostRead) (s : State) : Host.Outcome State Fault Refusal :=
  run (fun s =>
    if !s.bobbin.polls.contains (fn, line) then s
    else
      let s := { s with bobbin := { s.bobbin with polls := removeOne (fn, line) s.bobbin.polls } }
      let s := match s.bobbin.pollQueue with
        | [] => s
        | p :: r => emit (.hostRead p.1 p.2 64) { s with bobbin := { s.bobbin with polls := s.bobbin.polls ++ [p], pollQueue := r } }
      match data with
      | .data bs => takeLine (sqOnLine fn line) (cqOnLine fn line) bs s
      | r =>
        ((s.bobbin.sqs.filter (fun q => sqOnLine fn line q.2 && !q.2.destroying)).map (·.1)).foldl
          (fun s sq => sqError sq ((readStatus r).getD stTimeout) s) s) s

/-- Bobbin takes a wake-up and reads the watched line (R246, R340). -/
def execWatchedWakeup (off : Nat) (s : State) : Host.Outcome State Fault Refusal :=
  run (fun s =>
    if !s.heddle.wakeups.contains off then s
    else
      let s := { s with heddle := { s.heddle with wakeups := s.heddle.wakeups.filter (· != off) } }
      let on := fun (dbHost : Bool) (isle : Nat) (line : BitVec 64) => !dbHost && offOf s isle (line.toNat / 64 * 64) == some off
      let st := lineStatus s off
      if st != stOk then
        ((s.bobbin.sqs.filter (fun q => on q.2.dbHost q.2.isle q.2.dbLine && !q.2.destroying)).map (·.1)).foldl (fun s sq => sqError sq st s) s
      else
        let l := match cacheDirty s off with | some c => c.data | none => readLine s off
        takeLine (fun q => on q.dbHost q.isle q.dbLine) (fun q => on q.dbHost q.isle q.dbLine) (leBytes l.toNat 64) s) s

/-! ## Fetch (R342–R345) -/

/-- Whether descriptor `fetched` of a ring may be fetched now (R342, R343). -/
def fetchable (s : State) (sq : Nat) : Bool :=
  match NMap.get? s.bobbin.sqs sq with
  | none => false
  | some q =>
    q.active && !q.awaitBme && s.twin.state != .fenced && !s.pool.tripped &&
      (!q.host || (NMap.get? s.bobbin.fns q.fn).any (·.bme)) && q.fetched != q.accepted &&
      (ringCmds s sq).length < q.inflightMax && s.bobbin.cmds.length < 15360 && (NMap.get? s.bobbin.cqs q.cq).any (fun c => c.free && !c.broken)

/-- Fetch up to `n` consecutive descriptors of a ring, never past the end of the ring (R345). -/
def fetchRun (sq : Nat) : Nat → State → State
  | 0, s => s
  | n + 1, s =>
    if !fetchable s sq then s
    else
      match NMap.get? s.bobbin.sqs sq with
      | none => s
      | some q =>
        let c := freshCmd { sq := sq, seq := q.fetched } q.isle 0 .fetching
        let s := { s with bobbin := { s.bobbin with cmds := s.bobbin.cmds ++ [c] } }
        let s := updCq q.cq (fun c => { c with reserved := c.reserved + 1 }) (updSq sq (fun q => { q with fetched := q.fetched + 1 }) s)
        if (q.fetched.toNat + 1) % 2 ^ q.log2 = 0 then s else fetchRun sq n s

/-- The ring that Bobbin serves next (R345). -/
def nextRing (s : State) : Option Nat :=
  let l := (s.bobbin.sqs.map (·.1)).filter (fetchable s)
  match l.find? (fun i => s.bobbin.lastServed < i) with
  | some i => some i
  | none => l.head?

/-- Bobbin fetches from the next ring; a lasting fault in its context fences the device (R716). -/
def execDescriptorFetch (context : Media) (s : State) : Host.Outcome State Fault Refusal :=
  run (fun s =>
    match nextRing s with
    | none => s
    | some sq =>
      if context == .lasting then fenceFault 3 s
      else
        let s := if context == .transient then countTransient s else s
        match NMap.get? s.bobbin.sqs sq with
        | none => s
        | some q =>
          let s := fetchRun sq 8 { s with bobbin := { s.bobbin with lastServed := sq } }
          let n := match NMap.get? s.bobbin.sqs sq with | some q' => seqDist q'.fetched q.fetched | none => 0
          let s := noteRing sq s
          if q.host then emit (.hostRead q.fn (q.base + BitVec.ofNat 64 (q.fetched.toNat % 2 ^ q.log2 * 64)) (64 * n)) s else s) s

/-! ## Arrival (R346–R349) -/

/-- The opcodes that the chapters assign. -/
def assignedOps : List Nat :=
  [0x0001, 0x0010, 0x0011, 0x0012, 0x0018, 0x0020, 0x0030, 0x0031, 0x0032, 0x0040, 0x0100, 0x0101, 0x0102, 0x0103, 0x0200, 0x0201, 0x0202,
   0x0203, 0x0204, 0x0205, 0x0206, 0x0207, 0x0208, 0x0209, 0x0300, 0x0301, 0x0302, 0x0303, 0x0304] ++
  [0x0400, 0x0401, 0x0402, 0x0403, 0x0404, 0x0405, 0x0500, 0x0501, 0x0502, 0x0F01, 0x0F02, 0x0F03, 0x0F04, 0x0F05, 0x0F06, 0x0F07, 0x0F08,
   0x0F09, 0x0F0A, 0x0F10, 0x0F11, 0x0F20, 0x0F30, 0x0F31, 0x0F40, 0x0F41, 0x0F42, 0x0F43]

/-- The opcodes that take an argument block. -/
def argOps : List Nat :=
  [0x0040, 0x0100, 0x0101, 0x0201, 0x0203, 0x0300, 0x0301, 0x0302, 0x0304, 0x0F01, 0x0F02, 0x0F10, 0x0F41, 0x0F42, 0x0F43]

/-- Fields of an argument block reference (R329). -/
def refAddr (d : Nat) : Nat := bits d 128 64
def refLen (d : Nat) : Nat := bits d 192 13
def refHost (d : Nat) : Bool := bit d 208
def refCrc (d : Nat) : Nat := bits d 224 32

/-- R329 to R331 for the reference of a descriptor on a ring. -/
def argRefOk (q : Sq) (d : Nat) : Bool :=
  if !descArgBlock d then !argOps.contains (bits d 0 16)
  else
    argOps.contains (bits d 0 16) && bits d 205 3 == 0 && bits d 209 15 == 0 && 64 ≤ refLen d && refLen d ≤ 4096 && refLen d % 64 == 0 &&
      refAddr d % 64 == 0 && refAddr d % 4096 + refLen d ≤ 4096 && (!refHost d || q.host) && (refHost d || refAddr d < 2 ^ 55)

/-- A ring's SQ cannot be read at descriptor `n`: the descriptors not read leave flight, and the ring is in error (R350). DEDUCED (log 76). -/
def sqReadFailed (k : CmdKey) (cause : Nat) (s : State) : State :=
  match sqOf s k with
  | none => s
  | some q =>
    let lost := (ringCmds s k.sq).filter (fun c => (c.phase == .fetching || c.phase == .rereading) && seqDist k.seq c.key.seq = 0 ||
      (c.phase == .fetching && seqDist c.key.seq k.seq < 2 ^ 31))
    let s := lost.foldl (fun s c => dropCmd c.key (giveSlot q.cq s)) s
    tryRemove k.sq (sqError k.sq cause (updSq k.sq (fun q => { q with fetched := k.seq }) s))

/-- The bytes of a read, or the status that it fails with; none while it waits. -/
inductive Bytes where
  | wait
  | fail (status : Nat)
  | ok (bs : List Byte)
  deriving DecidableEq, Repr

/-- Read a range of an isle for Bobbin. -/
def storeRead (k : CmdKey) (isle va n : Nat) (s : State) : Bytes × State :=
  match access k isle [⟨.load, false, va, n⟩] s with
  | (.fail st, s) => (.fail st, s)
  | (.wait, s) => (.wait, s)
  | (.ok, s) =>
    match cmd? s k with
    | none => (.wait, s)
    | some c =>
      let c := { c with isle := isle }
      if vstatus s c va n != stOk then (.fail (vstatus s c va n), s) else (.ok (vread s c va n), s)

/-- A host read's result, of `n` bytes; data of another length is not the answer of this read. -/
def hostBytes (n : Nat) (r : HostRead) : Bytes :=
  match r with
  | .data bs => if bs.length = n then .ok bs else .wait
  | x => .fail ((readStatus x).getD stTimeout)

/-- A descriptor that has passed its checks is dispatched, or held for its pick (R349). -/
def dispatchCmd (k : CmdKey) (d : Nat) (arg : List Byte) (reread : Bool) (s : State) : State :=
  let phase : Phase := if descScheduled d then .held else .ready
  let s := updCmd k (fun c => { c with arg := arg, phase := phase, pages := [], fwd := [], flashRead := [], epoch := s.maps.cur.epoch }) s
  let s := if reread then updSq k.sq (fun q => { q with rereads := q.rereads + 1 }) s else s
  if bits d 0 16 = 0x0500 then { s with treadle := { s.treadle with admitQueue := s.treadle.admitQueue ++ [k] } } else s

/-- A first failure of check 1, 2 or of the block's crc: the descriptor and its block are read once more (R347). -/
def readAgain (k : CmdKey) (q : Sq) (s : State) : State :=
  let s := updCmd k (fun c => { c with phase := .rereading, desc := 0, pages := [], fwd := [] }) s
  if q.host then emit (.hostRead q.fn (q.base + BitVec.ofNat 64 (k.seq.toNat % 2 ^ q.log2 * 64)) 64) s else s

/-- Checks 3 to 8 of R346 on a descriptor that passed checks 1 and 2. -/
def checkRest (k : CmdKey) (q : Sq) (d : Nat) (arg : HostRead) (reread : Bool) (s : State) : State :=
  if bits d 20 12 != 0 || bits d 80 16 != 0 then badDesc k s
  else if !assignedOps.contains (bits d 0 16) then badDesc k s
  else if 0x0F00 ≤ bits d 0 16 && !q.management then endFree k stPermission s
  else if !isleActive s q.isle then endFree k stPermission s
  else if descScheduled d && !pickRing s k.sq then endFree k stAdmitRefused s
  else if !descScheduled d && pickRing s k.sq then badDesc k s
  else if !argRefOk q d then badDesc k s
  else if !descArgBlock d then dispatchCmd k d [] reread s
  else
    let r := if refHost d then (hostBytes (refLen d) arg, s) else storeRead k q.isle (refAddr d) (refLen d) s
    let s := r.2
    match r.1 with
    | .wait =>
      -- the block has not come yet
      if refHost d && (cmd? s k).any (fun c => c.aux = []) then
        emit (.hostRead q.fn (BitVec.ofNat 64 (refAddr d)) (refLen d)) (updCmd k (fun c => { c with aux := [1] }) s)
      else s
    | .fail st => endFree k st s
    | .ok bs =>
      if crc crc32c bs ≠ refCrc d then (if reread then endFree k stCheckMismatch s else readAgain k q (updCmd k (fun c => { c with aux := [] }) s))
      else dispatchCmd k d bs reread (updCmd k (fun c => { c with aux := [] }) s)

/-- A descriptor, and its argument block where it has one, arrive. DESIGN CHOICE (log 77). -/
def arrive (k : CmdKey) (desc arg : HostRead) (reread : Bool) (s : State) : State :=
  match cmd? s k, sqOf s k with
  | some c, some q =>
    if c.lead.isSome || c.phase != (if reread then Phase.rereading else Phase.fetching) then s
    else if c.desc ≠ 0 then checkRest k q c.desc arg reread s
    else
      let r := if q.host then (hostBytes 64 desc, s) else storeRead k q.isle (q.base.toNat + k.seq.toNat % 2 ^ q.log2 * 64) 64 s
      let s := r.2
      match r.1 with
      | .wait => s
      | .fail st => sqReadFailed k st s
      | .ok bs =>
        let s := updCmd k (fun c => { c with desc := leVal bs, pages := [], fwd := [] }) s
        let bad := fun (st : Nat) (s : State) =>
          if reread then endCmd k st k.seq.toNat (Config.freeWord s.free).toNat (nextFree s) else readAgain k q s
        if crc crc32c (splice bs 12 [0, 0, 0, 0]) ≠ field bs 12 4 then bad stCheckMismatch s
        else if field bs 8 2 ≠ k.seq.toNat % 65536 then bad stAliveMismatch s
        else checkRest k q (leVal bs) arg reread s
  | _, _ => s

def execDescriptorArrival (k : CmdKey) (desc arg : HostRead) (s : State) : Host.Outcome State Fault Refusal :=
  run (arrive k desc arg false) s

def execDescriptorReread (k : CmdKey) (desc arg : HostRead) (s : State) : Host.Outcome State Fault Refusal :=
  run (arrive k desc arg true) s

/-- A host read of Bobbin ends with a completion timeout: the descriptor's puts the ring in error, the block's ends the command. -/
def execCompletionTimeout (k : CmdKey) (arg : Bool) (s : State) : Host.Outcome State Fault Refusal :=
  run (fun s =>
    match cmd? s k, sqOf s k with
    | some c, some q =>
      if c.lead.isSome || !q.host || !(c.phase == .fetching || c.phase == .rereading) then s
      else if arg then (if c.desc ≠ 0 ∧ refHost c.desc then endFree k stTimeout s else s)
      else if c.desc = 0 then sqReadFailed k stTimeout s else s
    | _, _ => s) s

/-! ## Records, interrupts and events (R351–R359) -/

/-- A ring in error writes its ring-error record once its commands have ended (R351). -/
def execRingErrorRecord (sq : Nat) (ok : Bool) (s : State) : Host.Outcome State Fault Refusal :=
  run (fun s =>
    match NMap.get? s.bobbin.sqs sq with
    | none => s
    | some q =>
      match NMap.get? s.bobbin.cqs q.cq with
      | none => s
      | some c =>
        if q.err.isNone || !q.errRecord || ringCmds s sq != [] || !c.free then s
        else
          let bytes := fun (m : Nat) => recordBytes evRingError (q.err.getD stOk) (m % 65536) (recordFlags (recordPhase m c.log2) false true)
            0 (sq % 4096) (baseOf s sq).toNat 0 s.treadle.beat.toNat
          match putRecord q.cq bytes ok s with
          | (.wait, s) => s
          | (.fail st, s) => cqBroken q.cq st s
          | (.ok, s) =>
            noteCq q.cq (ringErrorEvent sq (updSq sq (fun q => { q with errRecord := false }) (countIrq q.cq s)))) s

/-- Whether an ended command's record may be written now: its twin items are acknowledged (R160), and an ORDERED record follows
those of every earlier descriptor (R352). -/
def recordDue (s : State) (c : Cmd) : Bool :=
  c.phase == .ended && c.lead.isNone && c.unacked == [] && (!descOrdered c.desc || earlier s c.key == [])

/-- A command ends its flight after its record: a waiting destroy may end with it. -/
def leaveFlight (k : CmdKey) (s : State) : State :=
  let h := (cmd? s k).bind (fun c => c.pick)
  let s := dropCmd k (pickWritten k s)
  let s := match sqOf s k with | some q => noteCq q.cq s | none => s
  tryRemove k.sq (match h with | some (h, _) => settlePlan h s | none => s)

def execCompletionWrite (k : CmdKey) (ok : Bool) (s : State) : Host.Outcome State Fault Refusal :=
  run (fun s =>
    match cmd? s k, sqOf s k with
    | some c, some q =>
      if !recordDue s c then s
      else
        match NMap.get? s.bobbin.cqs q.cq with
        | none => leaveFlight k (appendCommit k s)
        | some cq =>
          if cq.broken then leaveFlight k (appendCommit k s)
          else
            match putRecord q.cq (cmdRecord s c cq) ok s with
            | (.wait, s) => s
            | (.fail st, s) => leaveFlight k (cqBroken q.cq st (appendCommit k s))
            | (.ok, s) =>
              let s := giveSlot q.cq (appendCommit k s)
              let s := if descInterrupt c.desc || c.forceIrq then countIrq q.cq s else s
              leaveFlight k s
    | _, _ => s) s

/-- mod_time has passed since the first counted record (R355). -/
def execMsixModerationTimeout (cq : Nat) (s : State) : Host.Outcome State Fault Refusal :=
  run (fun s =>
    match NMap.get? s.bobbin.cqs cq with
    | none => s
    | some c =>
      if c.msixEn && c.modTime != 0 && 0 < c.counted then sendMsix c.fn c.msixVector (updCq cq (fun c => { c with counted := 0 }) s) else s) s

/-- A vector is unmasked: a pending message is sent (R356). PRESUMED (log 59). -/
def unmaskVector (fn vec : Nat) (s : State) : State :=
  let m := getMsix s fn vec
  let s := updFn fn (fun f => { f with msix := NMap.set f.msix vec { m with masked := false, pending := false } }) s
  if m.pending then sendMsix fn vec s else s

def execMsixUnmask (fn vec : Nat) (s : State) : Host.Outcome State Fault Refusal :=
  run (fun s => if (NMap.get? s.bobbin.fns fn).any (fun f => vec < f.vectors) then unmaskVector fn vec s else s) s

/-- Harbour firmware posts the events that find a free slot (R359); the frame of every command does so. -/
def execEventPost (s : State) : Host.Outcome State Fault Refusal := run (fun s => s) s

/-- Bus Master Enable of a function is set: its pending vectors go out, and PF0's kept management rings are fetched from again
(R764). -/
def execBusMasterEnableSet (fn : Nat) (s : State) : Host.Outcome State Fault Refusal :=
  run (fun s =>
    match NMap.get? s.bobbin.fns fn with
    | none => s
    | some f =>
      let s := updFn fn (fun f => { f with bme := true }) s
      let s := { s with bobbin := { s.bobbin with sqs := s.bobbin.sqs.map (fun q => if q.2.fn = fn ∧ q.2.host then (q.1, { q.2 with awaitBme := false }) else q) } }
      (f.msix.filter (fun m => m.2.pending && !m.2.masked)).foldl (fun s m => unmaskVector fn m.1 s) s) s

end Sys2Proof.Machine
end

