-- ==== Sys2Proof/Machine/Isles.lean ====
section
/-! DEFINITION. Isles (chapter 02): the isle record, ISLE_CREATE, ISLE_CHANGE, ISLE_DESTROY, ISLE_ACTIVATE, ISLE_RESET, the end of a
withdrawal, BIND_SET and AGENT_EVICT. -/

namespace Sys2Proof.Machine

/-! ## The record of an argument block (R46, R49) -/

def irId (bs : List Byte) : Nat := bits (field bs 0 2) 0 14
def irTimeShared (bs : List Byte) : Bool := bits (field bs 3 1) 0 2 == 1
def irMask (bs : List Byte) : BitVec 64 := BitVec.ofNat 64 (field bs 48 8)

/-- Whether every field of the block but the isle id holds an encoding that R46 allows, and trans_root is zero. -/
def isleBlockOk (bs : List Byte) : Bool :=
  bits (field bs 0 2) 14 2 == 0 && bits (field bs 3 1) 0 2 < 2 && bits (field bs 3 1) 2 6 == 0 && field bs 4 2 != 0 &&
    field bs 6 2 ≤ 4096 && zeros bs 8 8 && bits (field bs 16 8) 0 38 == 0 && bits (field bs 16 8) 55 9 == 0 && field bs 24 4 ≤ 4194304 &&
    field bs 28 2 ≤ 8192 && field bs 30 2 ≤ 16384 && field bs 32 4 ≤ 2932736 && field bs 36 4 ≤ 62783488 && field bs 40 4 ≤ 3758096384 &&
    zeros bs 44 4 && zeros bs 56 8 && !(irTimeShared bs && irMask bs != 0)

/-- The record of a block, with the state, table and keys given. -/
def isleOfBlock (bs : List Byte) (st : IsleState) (root : Nat) (keys : Option Nat) : Isle :=
  { state := st, timeShared := irTimeShared bs, weight := field bs 4 2, ringQuota := field bs 6 2, transRoot := root,
    bar2Base := field bs 16 8, heddleQuota := field bs 24 4, shuttleQuota := field bs 28 2, reefQuota := field bs 30 2,
    hbmQuota := field bs 32 4, ddrQuota := field bs 36 4, flashQuota := field bs 40 4, clusterMask := irMask bs, keys := keys }

/-- Whether a mask takes a cluster that another isle holds (R63). -/
def maskTaken (s : State) (i : Nat) (mask : BitVec 64) : Bool := s.isles.any (fun x => x.1 != i && x.2.clusterMask &&& mask != 0)

/-- Shuttle threads of a mask's clusters. -/
def maskThreads (mask : BitVec 64) : Nat := 128 * (maskClusters mask.toNat).length

/-! ## ISLE_CREATE and ISLE_ACTIVATE (R48, R49, R52, R101) -/

def execIsleCreate (k : CmdKey) (s : State) : Host.Outcome State Fault Refusal :=
  run (withCmd k 0x0F01 (fun c s =>
    let i := irId c.arg
    let r := isleOfBlock c.arg .created 0 none
    if !(c.hasArg (· == 64) && c.zero 32 63 && isleBlockOk c.arg && irId c.arg != 0) then badDesc k s
    else if (NMap.get? s.isles i).isSome || maskTaken s i r.clusterMask then endFree k stPermission s
    else if r.shuttleQuota < maskThreads r.clusterMask then endFree k stQuota s
    else
      match newTable i { s with isles := NMap.set s.isles i r } with
      | none => endFree k stQuota s
      | some (off, s) => endCmd k stOk i 0 (ownClusters i r.clusterMask (setIsle (some k) i (some { r with transRoot := off }) s)))) s

/-- The descriptor of a command that carries only an isle id. -/
def isleOnlyOk (c : Cmd) : Bool := !descArgBlock c.desc && c.rz 16 14 2 && c.zero 18 63

def execIsleActivate (k : CmdKey) (s : State) : Host.Outcome State Fault Refusal :=
  run (withCmd k 0x0F05 (fun c s =>
    let i := c.fld 16 0 14
    if !isleOnlyOk c then badDesc k s
    else
      match NMap.get? s.isles i with
      | some r =>
        if r.state == .created && r.keys.isSome then endCmd k stOk 0 0 (setIsle (some k) i (some { r with state := .active }) s)
        else endFree k stPermission s
      | none => endFree k stPermission s)) s

/-! ## The pages an isle has mapped -/

/-- The indices of the entries of a table page that are not zero. -/
def tableIndices (s : State) (off : Nat) : List Nat :=
  ((s.store.cells.filter (fun c => off ≤ c.1 && c.1 < off + pageSize)).map (fun c => (c.1 - off) / 8)).eraseDups

/-- Every virtual page that an isle's tables map. -/
def mappedPages (s : State) (i : Nat) : List Nat :=
  match NMap.get? s.isles i with
  | none => []
  | some r =>
    (tableIndices s r.transRoot).flatMap (fun a =>
      let e1 := readNat s (r.transRoot + 8 * a) 8
      (tableIndices s (eOff e1)).flatMap (fun b =>
        let e2 := readNat s (eOff e1 + 8 * b) 8
        let base := a * 2 ^ 26 + b * 2 ^ 13
        if !eValid e1 || !eValid e2 then []
        else if eNext e2 then
          (tableIndices s (eOff e2)).filterMap (fun c => if eValid (readNat s (eOff e2 + 8 * c) 8) then some (base + c) else none)
        else (List.range 8192).map (fun c => base + c)))

/-- The pages of an isle that map scratchpad windows of some clusters. -/
def scratchPages (s : State) (i : Nat) (mask : BitVec 64) : List Nat :=
  (mappedPages s i).filter (fun vp => (entryOf s i vp).any (fun e =>
    inTier .scratch (eOff e / pageSize) && mask.getLsbD (scratchCluster (eOff e))))

/-! ## ISLE_CHANGE (R50, R55, R131) -/

/-- The commands that run on Shuttle clusters. -/
def shuttleOps : List Nat := [0x0040, 0x0100, 0x0101, 0x0102, 0x0200, 0x0201, 0x0202]

/-- The Shuttle commands of an isle dispatched before a command and not ended. -/
def shuttleBefore (s : State) (k : CmdKey) (i : Nat) : List CmdKey :=
  ((s.bobbin.cmds.takeWhile (fun c => c.key != k)).filter (fun (c : Cmd) =>
    c.isle == i && shuttleOps.contains c.opcode && (c.phase == Phase.ready || c.phase == Phase.running))).map (·.key)

/-- A key as one number, and back. -/
def keyNum (k : CmdKey) : Nat := k.sq * 2 ^ 32 + k.seq.toNat
def numKey (n : Nat) : CmdKey := { sq := n / 2 ^ 32, seq := BitVec.ofNat 32 n }

/-- Whether a plan counts as held for a change or a destroy: admitted, started or paused. -/
def Plan.held (p : Plan) : Bool := p.state == .admitted || p.state == .started || p.state == .paused

/-- Whether a pick of an isle's plan here demands a cluster of a mask. -/
def planDemands (s : State) (i : Nat) (mask : BitVec 64) : Bool :=
  s.treadle.plans.any (fun p => p.2.held && p.2.isle == i && p.2.text.picks.any (fun k => k.member == p.2.me && k.clusters.any (fun c => mask.getLsbD c)))

/-- The status that refuses a change of a record at the instant it is applied; ST_OK where none does. -/
def changeStatus (s : State) (i : Nat) (old new : Isle) : Nat :=
  if !(old.state == .created || old.state == .active) || maskTaken s i new.clusterMask || planDemands s i (old.clusterMask &&& ~~~new.clusterMask) ||
      (new.timeShared && s.treadle.plans.any (fun p => p.2.held && p.2.isle == i)) then stPermission
  else if new.clusterMask &&& ~~~old.clusterMask != 0 && new.shuttleQuota < maskThreads new.clusterMask then stQuota
  else stOk

/-- The record of an ISLE_CHANGE. -/
def changedIsle (c : Cmd) (old : Isle) : Isle := isleOfBlock c.arg old.state old.transRoot old.keys

/-- Apply an ISLE_CHANGE, `cut` commands having been cut by its withdrawal. -/
def applyChange (k : CmdKey) (cut : Nat) (s : State) : State :=
  match cmd? s k with
  | none => s
  | some c =>
    let i := irId c.arg
    match NMap.get? s.isles i with
    | none => endFree k stPermission s
    | some old =>
      let st := changeStatus s i old (changedIsle c old)
      if st != stOk then endFree k st s else endCmd k stOk cut 0 (ownClusters i (changedIsle c old).clusterMask (setIsle (some k) i (some (changedIsle c old)) s))

/-- Go on with an ISLE_CHANGE whose Shuttle commands have ended: the mappings of leaving clusters are withdrawn first. -/
def changeGo (k : CmdKey) (c : Cmd) (s : State) : State :=
  let i := irId c.arg
  match NMap.get? s.isles i with
  | none => endFree k stPermission s
  | some old =>
    let new := changedIsle c old
    let st := changeStatus s i old new
    if st != stOk then endFree k st s
    else
      let vps := (scratchPages s i (old.clusterMask &&& ~~~new.clusterMask)).filter (fun p => !withdrawing s i p)
      if vps = [] then applyChange k 0 s
      else startWd (some k) 3 i vps [] i (updCmd k (fun c => { c with aux := [0] }) s)

def execIsleChange (k : CmdKey) (s : State) : Host.Outcome State Fault Refusal :=
  run (withCmd k 0x0F02 (fun c s =>
    if !(c.hasArg (· == 64) && c.zero 32 63 && isleBlockOk c.arg) then badDesc k s
    else if s.trans.withdrawals.any (fun w => w.cmd == some k) then s
    else
      let before := if c.phase == .ready then (shuttleBefore s k (irId c.arg)).map keyNum else c.aux.drop 1
      let left := before.filter (fun n => (cmd? s (numKey n)).any (fun x => x.phase != .ended))
      let s := updCmd k (fun c => { c with aux := 1 :: left }) (startCmd k s)
      if left = [] then changeGo k (cmdNow s c) s else s)) s

/-! ## ISLE_DESTROY (R51, R62) -/

/-- Whether a Strait binding entry or a VF still binds an isle. -/
def bound (s : State) (i : Nat) : Bool :=
  s.links.binds.any (fun b => bit b.2.toNat 34 && bits b.2.toNat 20 14 == i) ||
    s.links.vfBinds.any (fun b => bit b.2.toNat 15 && bits b.2.toNat 0 14 == i)

def execIsleDestroy (k : CmdKey) (s : State) : Host.Outcome State Fault Refusal :=
  run (withCmd k 0x0F03 (fun c s =>
    let i := c.fld 16 0 14
    if !isleOnlyOk c then badDesc k s
    else if c.phase == .running then s
    else
      match NMap.get? s.isles i with
      | none => endFree k stPermission s
      | some r =>
        if i = 0 || !(r.state == .created || r.state == .active) || bound s i || s.bobbin.sqs.any (fun q => q.2.isle == i) ||
            s.treadle.plans.any (fun p => p.2.held && p.2.isle == i) then endFree k stPermission s
        else
          let s := setIsle (some k) i (some { r with state := .resetting }) (startCmd k s)
          let n := (s.store.regions.filter (fun g => g.2.isle == i)).length
          let vps := (mappedPages s i).filter (fun p => !withdrawing s i p)
          let wins := (s.trans.windows.filter (fun w => w.2.isle == i && !w.2.leaving)).map (·.1)
          startWd (some k) 4 i vps wins i (updCmd k (fun c => { c with aux := [n] }) s))) s

/-- Steps 2 to 7 of R51 after the drains: regions, clusters, table pages, keys and the record go. -/
def destroyIsle (k : Option CmdKey) (i : Nat) (s : State) : State :=
  match NMap.get? s.isles i with
  | none => s
  | some r =>
    let s := (s.store.regions.filter (fun g => g.2.isle == i)).foldl (fun s g => twinNote 4 [i, g.1] [] (setRegion i g.1 none s)) s
    let s := (maskClusters r.clusterMask.toNat).foldl (fun s cl => zeroScratch cl (flushCluster cl s)) s
    let tables := (s.store.pages.filter (fun p => p.2.isle == i)).map (·.1)
    setIsle k i none (tables.foldl (fun s p => dropPage p s) s)

/-! ## The end of a withdrawal (R84, R102, R135, R136, R143) -/

def dropWd (id : Nat) (s : State) : State :=
  { s with trans := { s.trans with withdrawals := s.trans.withdrawals.filter (fun w => w.id != id) } }

/-- End a withdrawal whose range is cleared: what it was for is done, or waits for earlier withdrawals of the same region or isle. -/
def finishWd (s : State) (id : Nat) : State :=
  match wd? s id with
  | none => s
  | some w =>
    let ends := fun (st c0 c1 : Nat) (s : State) => match w.cmd with | some k => endCmd k st c0 c1 s | none => s
    match w.kind with
    | 0 => ends stOk w.cut w.vpages.length (dropWd id s)
    | 1 => ends stOk w.cut 0 (dropWd id s)
    | 2 =>
      let inRegion := fun (p : Nat) => match NMap.get? (regionsOf s w.isle) w.obj with
        | some r => r.va ≤ p * pageSize && p * pageSize < r.va + r.len
        | none => false
      if s.trans.withdrawals.any (fun x => x.id < id && x.isle == w.isle && x.vpages.any inRegion) then updWd id (fun w => { w with phase := 5 }) s
      else
        let s := setRegion w.isle w.obj none (dropWd id s)
        match w.cmd with
        | some k => endFirst k stOk w.cut (twinFor k 4 [w.isle, w.obj] [] s)
        | none => twinNote 4 [w.isle, w.obj] [] s
    | 3 => match w.cmd with | some k => applyChange k w.cut (dropWd id s) | none => dropWd id s
    | _ =>
      if s.trans.withdrawals.any (fun x => x.id != id && x.isle == w.isle) then updWd id (fun w => { w with phase := 5 }) s
      else
        let n := match w.cmd with | some k => (match cmd? s k with | some c => c.aux.headD 0 | none => 0) | none => 0
        ends stOk n w.cut (destroyIsle w.cmd w.obj (dropWd id s))

/-- End a withdrawal, then those that waited for it. -/
def finishWds (id : Nat) (s : State) : State :=
  let s := finishWd s id
  (List.range s.trans.withdrawals.length).foldl (fun s _ => ((s.trans.withdrawals.filter (·.phase == 5)).map (·.id)).foldl finishWd s) s

/-- The range of a drained withdrawal is cleared and its backing released; a mirrored range is drained by the twin too before the
command completes. -/
def execWithdrawalComplete (id : Nat) (s : State) : Host.Outcome State Fault Refusal :=
  run (fun s =>
    match wd? s id with
    | none => s
    | some w =>
      if w.phase ≠ 3 then s
      else
        let mir := w.vpages.filter (fun p => (entryOf s w.isle p).any eMirrored)
        let s := clearRange w.isle w.vpages s
        let s := match w.cmd with
          | some k => noteEntries k w.isle w.vpages s
          | none => w.vpages.foldl (fun s p => twinNote 6 [w.isle, p, 0] [] s) s
        let s := w.windows.foldl (fun s x =>
          twinNote 7 [x] [] { s with trans := { s.trans with windows := NMap.del s.trans.windows x } }) s
        if mir != [] && mirroring s then
          let item := s.twin.nextItem
          let s := twinSend 13 (w.isle :: mir) [] (updWd id (fun w => { w with phase := 4 }) s)
          { s with twin := { s.twin with waits := s.twin.waits ++ [(item, .withdrawal id)] } }
        else finishWds id s) s

/-! ## ISLE_RESET (R766) -/

/-- End every command of a list with ST_ABORTED_RESET; a descriptor that has not arrived leaves flight without a record (log 29). DEDUCED (log 78). -/
def abortCmds (l : List Cmd) (s : State) : State :=
  l.foldl (fun s (c : Cmd) =>
    if c.phase == Phase.ended then s
    else if c.phase == Phase.fetching && c.desc = 0 then
      dropCmd c.key (match sqOf s c.key with | some q => giveSlot q.cq s | none => s)
    else endFree c.key stAbortedReset (abandon c.key s)) s

def execIsleReset (k : CmdKey) (s : State) : Host.Outcome State Fault Refusal :=
  run (withCmd k 0x0F06 (fun c s =>
    let i := c.fld 16 0 14
    if !isleOnlyOk c then badDesc k s
    else if c.phase == .running then finishReset s k
    else if i = 0 || !isleActive s i then endFree k stPermission s
    else
      match NMap.get? s.isles i with
      | none => endFree k stPermission s
      | some r =>
        let s := setIsle none i (some { r with state := .resetting }) (startCmd k s)
        let waiting := s.links.parked.filter (fun q => q.isle == i)
        let s := waiting.foldl (fun s q => refuse q stPermission (unpark q.id s)) s
        let s := stopPlansOf (fun _ p => p.isle == i) s
        let mine := s.bobbin.cmds.filter (fun (c : Cmd) => c.isle == i)
        let n := (mine.filter (fun (c : Cmd) => c.phase != Phase.ended && !(c.phase == Phase.fetching && c.desc == 0))).length
        let s := abortCmds mine (updCmd k (fun c => { c with aux := [n] }) s)
        let s := ((s.bobbin.sqs.filter (fun q => q.2.isle == i)).map (·.1)).foldl (fun s sq =>
          tryRemove sq (updSq sq (fun q => { q with destroying := true }) s)) s
        finishReset (settlePlans s) k)) s

/-! ## Bindings (R57–R61, R218, R811, R812, R816) -/

/-- The live agent of a binding entry of this device's own tables. -/
def agentAt (s : State) (port entry : Nat) : Option Nat :=
  (s.heddle.agents.find? (fun a => !a.2.lost && a.2.port == port && a.2.entry == entry && a.2.isle < twinIsle)).map (·.1)

/-- Whether an entry grants the caching right to a pair of an isle. -/
def bindCaching (v : Nat) : Bool := bit v 34 && bit v 35 && bits v 20 14 != 0

/-- Whether a change from one value to another ends the agent of an entry. -/
def endsAgent (old new : Nat) : Bool := !bit new 34 || !bit new 35 || bits old 0 34 != bits new 0 34

/-- A binding entry set: an entry of zeros is not kept. -/
def putBind (key : Nat) (v : BitVec 64) (s : State) : State :=
  { s with links := { s.links with binds := if v = 0 then NMap.del s.links.binds key else NMap.set s.links.binds key v } }

/-- Whether a new agent would find an index, one more being free where the change ends an agent. -/
def agentRoom (s : State) (ends : Bool) : Bool := s.heddle.agents.length < agentLimit s + ends.toNat

/-- Apply a change of a binding entry: the agent it ends is lost, and `cmd` waits for the sweep; the agent it makes takes an index. -/
def changeBind (port entry : Nat) (v : BitVec 64) (cmd : Option CmdKey) (s : State) : State :=
  let key := port * 2048 + entry
  let old := (NMap.getD s.links.binds key 0).toNat
  let s := match agentAt s port entry with
    | some i => if endsAgent old v.toNat then loseAgent cmd s i else s
    | none => s
  pumpAll (release (fun r => r.why == some .agentIndex) (attachAll (putBind key v s)))

/-- The function of a VF owns a ring. -/
def vfOwnsRing (s : State) (vf : Nat) : Bool := s.bobbin.sqs.any (fun q => q.2.fn == vf)

def putVfBind (vf : Nat) (v : BitVec 32) (s : State) : State :=
  { s with links := { s.links with vfBinds := if v = 0 then NMap.del s.links.vfBinds vf else NMap.set s.links.vfBinds vf v } }

/-- Whether an ISL_VF_BIND word holds no reserved encoding. -/
def vfBindOk (v : Nat) : Bool := bits v 14 1 == 0 && bits v 16 48 == 0 && !(bit v 15 && bits v 0 14 == 0)

def bindFieldsOk (c : Cmd) : Bool :=
  !descArgBlock c.desc && c.rz 16 1 7 && c.rz 17 5 3 && c.rz 18 11 5 && c.zero 20 23 && c.zero 32 63 &&
    (if c.fld 16 0 1 = 0 then c.fld 17 0 5 == 0 && 1 ≤ c.fld 18 0 11 && c.fld 18 0 11 ≤ 255 && vfBindOk (c.fld 24 0 64)
     else c.fld 17 0 5 < 24 && bits (c.fld 24 0 64) 36 28 == 0)

def execBindSet (k : CmdKey) (s : State) : Host.Outcome State Fault Refusal :=
  run (withCmd k 0x0F04 (fun c s =>
    let i := c.fld 18 0 11
    if !bindFieldsOk c then badDesc k s
    else if c.phase == .running then s
    else if c.fld 16 0 1 = 0 then
      if vfOwnsRing s i then endFree k stPermission s
      else endCmd k stOk 0 0 (putVfBind i (BitVec.ofNat 32 (c.fld 24 0 32)) s)
    else
      let port := c.fld 17 0 5
      let v := c.fld 24 0 64
      let old := (NMap.getD s.links.binds (port * 2048 + i) 0).toNat
      let ends := (agentAt s port i).isSome && endsAgent old v
      let news := bindCaching v && ((agentAt s port i).isNone || ends)
      if news && !agentRoom s ends then endFree k stQuota s
      else
        let s := twinFor k 8 [port * 2048 + i, v] [] (changeBind port i (BitVec.ofNat 64 v) (some k) (startCmd k s))
        if ends then s else endCmd k stOk 0 0 s)) s

/-- AGENT_EVICT (R250). -/
def execAgentEvict (k : CmdKey) (s : State) : Host.Outcome State Fault Refusal :=
  run (withCmd k 0x0F0A (fun c s =>
    if descArgBlock c.desc || !c.rz 16 5 3 || !c.zero 17 17 || !c.rz 18 11 5 || !c.zero 20 63 || 24 ≤ c.fld 16 0 5 then badDesc k s
    else if c.phase == .running then s
    else
      match agentAt s (c.fld 16 0 5) (c.fld 18 0 11) with
      | none => badDesc k s
      | some i =>
        if bindCaching (NMap.getD s.links.binds (c.fld 16 0 5 * 2048 + c.fld 18 0 11) 0).toNat then loseAgent (some k) (startCmd k s) i else badDesc k s)) s

end Sys2Proof.Machine
end

