-- ==== Sys2Proof/Machine/Links.lean ====
section
/-! DEFINITION. Ports: training, signal, flits, replay, lane retirement and retraining (chapter 13), the enabling of a port, and
UNIT_RESET (R767). What leaves the device stands in `out` message by message; its flits are not composed (log 30). -/

namespace Sys2Proof.Machine

def port? (s : State) (n : Nat) : Option Port := NMap.get? s.links.ports n

/-- The state of a port (STR_PORT_STATUS). -/
def portState (s : State) (n : Nat) : Nat := match port? s n with | some p => p.state | none => 0

/-- Pool id of a port's partner as its last HELLO gave it; 0xFFF before one (log 31). -/
def partnerOf (s : State) (n : Nat) : Nat :=
  match (port? s n).bind (fun p => p.partner) with
  | some h => h.poolId
  | none => 0xFFF

/-- PORT_DOWN with its cause (R659). -/
def portDown (n cause : Nat) (s : State) : State := raise (event evPortDown n (partnerOf s n) cause 0) s

/-- The lanes of one half in a port's own numbering: half 0 is L4–L7, half 1 is L0–L3 (R616). -/
def halfMask (half : Nat) : BitVec 8 := if half = 0 then 0xF0 else 0x0F

/-- The monitor of a Strait port's L0: its recovered clock is alive while the port is up and L0 in service (R746, log 32). -/
def watchLane (n : Nat) (s : State) : State :=
  let alive := portUp s n && (port? s n).any (fun p => !p.retired.getLsbD 0)
  let m : BitVec 24 := 1 <<< n
  { s with clocks := { s.clocks with laneAlive := if alive then s.clocks.laneAlive ||| m else s.clocks.laneAlive &&& ~~~m } }

/-! ## HELLO as the device sends it (R644, R646) -/

/-- The words of a HELLO: pool id, causeway, joined, fw_major, compat_id, epoch, digest. The boot ROM sends zeros but for its pool
id. -/
def helloWords (s : State) (n : Nat) : List Nat :=
  if s.harbour.boot = 3 then
    [s.pool.id, (decide (24 ≤ n)).toNat, s.pool.joined.toNat, s.harbour.fwMajor, s.harbour.compatId, s.pool.epoch.toNat, s.harbour.digest]
  else [s.pool.id, (decide (24 ≤ n)).toNat, 0, 0, 0, 0, 0]

/-- HELLO on a port: before firmware runs, the ROM sends it on the Causeway alone (R646). -/
def sendHello (n : Nat) (s : State) : State :=
  if s.harbour.boot = 3 ∨ 24 ≤ n then emit (.manage n (partnerOf s n) .hello (helloWords s n)) s else s

/-! ## The claim of the pool id (R648, R763, R813) -/

/-- Words of a claim: pool id, takeover, handback, epoch, claimant, nonce, digest (R700). -/
def claimWords (pid : Nat) (takeover handback : Bool) (epoch : BitVec 64) (claimant : Nat) (nonce : BitVec 64) (digest : Nat) : List Nat :=
  [pid, takeover.toNat, handback.toNat, epoch.toNat, claimant, nonce.toNat, digest]

/-- Flood a management message on every port that is up but one. -/
def floodBut (skip : Nat) (dst : Nat) (op : Mgmt) (words : List Nat) (s : State) : State :=
  ((s.links.ports.map (·.1)).filter (fun n => portUp s n && n != skip)).foldl (fun s n => emit (.manage n dst op words) s) s

/-- No port is numbered so. -/
abbrev noPort : Nat := 99

/-- Start the claim of the pool id taken, once Harbour firmware runs and a Strait port is up; a claim under way is sent on a port
that comes up later, too. The nonce is a draw of the TRNG, a free value (log 33). -/
def startClaim (n : Nat) (s : State) : State :=
  let p := s.pool
  if s.harbour.boot != 3 || p.id = 0xFFF || !p.committed || p.claimed || p.isolated || !(List.range 24).any (portUp s) then s
  else
    match p.nonce with
    | some x => if portUp s n then emit (.manage n 0xFFF .idClaim (claimWords p.id false false p.epoch p.id x s.harbour.digest)) s else s
    | none =>
      let x := Config.freeWord s.free
      let s := nextFree { s with pool := { p with nonce := some x, conflict := false } }
      floodBut noPort 0xFFF .idClaim (claimWords p.id false false p.epoch p.id x s.harbour.digest) s

/-! ## Starting and stopping a port (R633, R758, R830) -/

/-- A port's step starts it: a cold training from step 1, its attempts zero and its retired half restored. It is DOWN with los set
until it detects signal. -/
def startPort (n : Nat) (s : State) : State :=
  updPort n (fun p => { p with started := true, txIdle := s.pool.tripped, state := 0, los := true, attempts := 0, failures := 0, retired := 0,
                               warm := false, fallback := false, suspended := false }) s

/-- An attempt begins: it is counted (R633, log 34). -/
def beginAttempt (p : Port) : Port := { p with state := 1, los := false, attempts := satInc p.attempts 255 }

/-- Signal is detected on a started port without signal: training goes on from step 2 (R633). -/
def execSignalDetect (port : Nat) (s : State) : Host.Outcome State Fault Refusal :=
  run (fun s =>
    match port? s port with
    | none => s
    | some p => if p.enable && p.started && !p.txIdle && p.state == 0 then updPort port beginAttempt s else s) s

/-- Capacity may have fallen on a port that runs at ×4: plans are paused until the rest fit (R378, R411). -/
def fitAfter (n : Nat) (s : State) : State := if portState s n = 3 then fitPort n (s.treadle.plans.length + 1) s else s

/-- Slots of the receive buffers, which a partner grants at port up: request, snoop, response, data, command, management (R626). -/
def fullCredit : List Nat := [2048, 512, 1024, 8192, 1024, 256]

/-- A port comes up: at ×4 where lanes of one half failed step 4 or are retired (R632, R633, R636). `half` is the half that failed. A
cold training starts the flit numbering anew; a retrain and a fall-back keep it and the partner replays (R639). DEDUCED (log 84). -/
def execPortUp (port : Nat) (half : Option Nat) (reversed : Bool) (delay : Nat) (s : State) : Host.Outcome State Fault Refusal :=
  run (fun s =>
    match port? s port with
    | none => s
    | some p =>
      let retired := p.retired ||| (match half with | some h => halfMask h | none => 0)
      if p.state != 1 || !p.enable || retired = 0xFF then s
      else
        let keep := p.warm || p.fallback
        let q : Port :=
          { p with
            state := if retired = 0 then 2 else 3
            retired := retired, reversed := reversed, los := false, failures := 0, warm := false, fallback := false,
            suspended := false, retiring := none, cmd := none, credit := fullCredit, echoes := (0, 0)
            delay := if p.fallback then p.delay else BitVec.ofNat 24 delay
            rxSeq := if keep then p.rxSeq else 0x3FF
            acked := if keep then p.acked else 0x3FF
            failing := if keep then p.failing else none
            replayFrom := if keep then some ((p.acked + 1) % 1024) else none }
        let s := watchLane port (updPort port (fun _ => q) s)
        let s :=
          if p.fallback then
            let lane : Nat := match p.retiring with | some (_, some l) => l | _ => (Config.freeChoice s.free) % 8
            raise (event evLaneRetired port (partnerOf s port) retired.toNat lane) (nextFree s)
          else sendHello port s
        let s := match p.cmd with | some k => endCmd k stOk q.state q.retired.toNat s | none => s
        pumpAll (takeLane (startClaim port (fitAfter port s)))) s

/-- A port enters FAILED: its transmitters are idle, what was outstanding on it times out (R631), and a waiting PORT_RETRAIN ends
with ST_TIMEOUT. -/
def failPort (n cause : Nat) (s : State) : State :=
  match port? s n with
  | none => s
  | some p =>
    let s := updPort n (fun p => { p with state := 4, txIdle := true, suspended := false, warm := false, fallback := false,
                                          retiring := none, cmd := none }) s
    let s := portDown n cause (watchLane n s)
    let s := match p.cmd with | some k => endFree k stTimeout s | none => s
    if p.state = 1 then
      pumpAll (((s.links.outstanding.filter (fun o => o.2.port == n)).map (·.1)).foldl (fun s id => timeOut id s) s)
    else s

/-- A training attempt fails; after 3 failures the port enters FAILED (R633). -/
def execTrainingFailed (port : Nat) (s : State) : Host.Outcome State Fault Refusal :=
  run (fun s =>
    match port? s port with
    | none => s
    | some p =>
      if p.state != 1 then s
      else if 3 ≤ p.failures + 1 then failPort port 2 (updPort port (fun p => { p with failures := p.failures + 1 }) s)
      else updPort port (fun p => beginAttempt { p with failures := p.failures + 1 }) s) s

/-- Whether a route has lost signal on every port of its mask (R654). DEDUCED (log 85). DEDUCED (log 91). -/
def routeSilent (s : State) (r : Route) : Bool :=
  r.mask != 0 && (List.range 24).all (fun i => !r.mask.getLsbD i || (port? s i).any (·.los))

/-- The sub-commands served for leads that no port reaches any more are discarded, answers and all (R30). DEDUCED (log 85). -/
def discardSubs (gone : Nat → Bool) (s : State) : State :=
  (s.bobbin.cmds.filter (fun (c : Cmd) => c.lead.any (fun h => gone h.src))).foldl (fun s (c : Cmd) =>
    dropCmd c.key (releaseEngines c.key (abandon c.key s))) s

/-- A port loses signal: PORT_DOWN where it was up or training, its agents are lost (R249), and the pool ids that only silent ports
reach are redirected (R654). -/
def loseSignal (n : Nat) (s : State) : State :=
  match port? s n with
  | none => s
  | some p =>
    let live := 1 ≤ p.state && p.state ≤ 3
    let s := updPort n (fun p => { p with los := true, state := if live then 0 else p.state, warm := false, fallback := false,
                                          suspended := false, retiring := none }) s
    let s := watchLane n (if live then portDown n 1 s else s)
    let agents := (s.heddle.agents.filter (fun a => a.2.port == n && a.2.isle < twinIsle)).map (·.1)
    let s := agents.foldl (loseAgent none) s
    let silent := (s.links.routes.filter (fun r => routeSilent s r.2)).map (·.1)
    let s := discardSubs (fun src => silent.contains src) s
    pumpAll (silent.foldl (fun s pid => redirect pid 1 s) s)

/-- A port that has been started reports loss of signal. -/
def execLossOfSignal (port : Nat) (s : State) : Host.Outcome State Fault Refusal :=
  run (fun s => if (port? s port).any (fun p => p.started && !p.los) then loseSignal port s else s) s

/-! ## Flits (R614, R627, R634–R637) -/

/-- The half that a lane lies in: 0 for L4–L7, 1 for L0–L3. -/
def laneHalf (lane : Nat) : Nat := if lane % 8 < 4 then 1 else 0

/-- A lasting fault of a port, on one lane: at ×8 it asks to retire the lane's half; otherwise, or with allow_x4 clear, it fails. -/
def lastingFlit (n lane : Nat) (s : State) : State :=
  match port? s n with
  | none => s
  | some p =>
    if p.state = 2 ∧ p.allowX4 then
      emit (.control n 3 (laneHalf lane) 0) (updPort n (fun p => { p with retiring := some (laneHalf lane, some (lane % 8)) }) s)
    else failPort n 3 s

/-- Take what a good flit's header says: the acknowledgement, a nak, and credit (R614, R627). -/
def takeHeader (f : Flit) (p : Port) : Port :=
  let a := f.ackSeq % 1024
  { p with
    acked := a
    replayFrom :=
      if f.nak then some ((a + 1) % 1024)
      else match p.replayFrom with | some n => if (a + 1024 - n) % 1024 < 512 then none else some n | none => none
    credit := (p.credit.zip (List.range 6)).map (fun x => if x.2 = f.creditClass then x.1 + f.creditCount % 4096 else x.1) }

/-- A flit arrives on a port that is up. Only payload flits advance the sequence; the others carry the last payload seq. A flit with
a bad CRC or out of order is naked, and what follows is discarded until the replay; a second failure of the awaited flit is lasting. -/
def execFlitReceive (port : Nat) (flit : Flit) (s : State) : Host.Outcome State Fault Refusal :=
  run (fun s =>
    match port? s port with
    | none => s
    | some p =>
      if !portUp s port || flit.ftype = 3 || (p.retiring.isSome) then s
      else
        let awaited := (p.rxSeq + 1) % 1024
        let inOrder := flit.seq % 1024 = (if flit.ftype = 1 then awaited else p.rxSeq)
        match p.failing with
        | none =>
          if flit.crcOk ∧ inOrder then
            updPort port (fun p => { takeHeader flit p with rxSeq := if flit.ftype = 1 then awaited else p.rxSeq }) s
          else emit (.nak port p.rxSeq) (updPort port (fun p => { p with failing := some awaited }) s)
        | some n =>
          if flit.ftype != 1 || flit.seq % 1024 != n then s
          else if flit.crcOk then
            updPort port (fun p => { takeHeader flit p with rxSeq := n, failing := none, replays := p.replays + 1 }) s
          else lastingFlit port flit.badLane s) s

/-! ## Lane retirement and link control (R616, R636, R639, R642) -/

/-- A port falls back to ×4 on the half that stays: it stops payload, its timeouts are suspended, and it trains in 40 µs. DEDUCED (log 84). -/
def fallBack (n half : Nat) (s : State) : State :=
  watchLane n (updPort n (fun p => { p with state := 1, retired := p.retired ||| halfMask half, fallback := true, suspended := true }) s)

/-- RETIRE_REQ names a half in the sender's numbering: the port answers with its own number for it and falls back. With allow_x4
clear it meets a lasting fault that it may not retire (R637, log 35). -/
def execRetireReq (port half : Nat) (s : State) : Host.Outcome State Fault Refusal :=
  run (fun s =>
    match port? s port with
    | none => s
    | some p =>
      if p.state != 2 || 1 < half then s
      else if !p.allowX4 then failPort port 3 s
      else
        let own := if p.reversed then 1 - half else half
        fallBack port own (emit (.control port 4 own 0) (updPort port (fun p => { p with retiring := some (own, none) }) s))) s

/-- RETIRE_ACK: the half that this device asked to retire goes. -/
def execRetireAck (port _half : Nat) (s : State) : Host.Outcome State Fault Refusal :=
  run (fun s =>
    match port? s port with
    | none => s
    | some p =>
      match p.retiring with
      | some (own, some _) => if p.state = 2 then fallBack port own s else s
      | _ => s) s

/-- A port that is up trains again from step 1 on all lanes, with kept settings and its replay buffer (R632, R638, R639). -/
def retrainPort (n : Nat) (s : State) : State :=
  watchLane n (updPort n (fun p =>
    beginAttempt { p with retired := 0, warm := true, fallback := false, suspended := true, retiring := none }) s)

/-- The link-control RETRAIN: the partner trains the port from step 1, and so does this end. -/
def execRetrain (port : Nat) (s : State) : Host.Outcome State Fault Refusal :=
  run (fun s => if portUp s port then retrainPort port s else s) s

/-- ECHO is answered with ECHO_REPLY, which carries its stamp. -/
def execEcho (port : Nat) (stamp : BitVec 64) (s : State) : Host.Outcome State Fault Refusal :=
  run (fun s => if portUp s port || portState s port = 1 then emit (.control port 2 0 stamp) s else s) s

/-- ECHO_REPLY adds one delay to the measurement under way. -/
def execEchoReply (port : Nat) (_stamp : BitVec 64) (delay : Nat) (s : State) : Host.Outcome State Fault Refusal :=
  run (fun s =>
    if portUp s port || portState s port = 1 then updPort port (fun p => { p with echoes := (p.echoes.1 + 1, p.echoes.2 + delay) }) s
    else s) s

/-- Link adaptation has measured the delay again: it is taken where it differs by more than 0.5 ns, which is 8 units (R642). -/
def execLinkAdaptation (port delay : Nat) (s : State) : Host.Outcome State Fault Refusal :=
  run (fun s =>
    if portUp s port then
      updPort port (fun p =>
        let d := p.delay.toNat
        let far := d + 8 < delay || delay + 8 < d
        { p with echoes := (0, 0), delay := if far then BitVec.ofNat 24 delay else p.delay }) s
    else s) s

/-- PORT_RETRAIN (R638): a port that is up sends RETRAIN and trains again; one that is not starts over from step 1. -/
def execPortRetrain (k : CmdKey) (s : State) : Host.Outcome State Fault Refusal :=
  run (withCmd k 0x0F09 (fun c s =>
    let n := c.fld 16 0 8
    if descArgBlock c.desc || !c.zero 17 63 || 26 ≤ n then badDesc k s
    else if c.phase == .running then s
    else
      match port? s n with
      | none => badDesc k s
      | some p =>
        if !p.enable then endFree k stPermission s
        else
          let s := match p.cmd with | some o => endFree o stTimeout s | none => s
          let s := startCmd k s
          let up := portUp s n
          let s := if up then emit (.control n 5 0 0) s else s
          let s := updPort n (fun p => { p with attempts := 0, failures := 0, cmd := some k, txIdle := false, started := true }) s
          if up then retrainPort n s
          else if p.state = 1 then
            updPort n (fun p => beginAttempt { p with retired := 0, fallback := false, suspended := true, retiring := none }) s
          else updPort n (fun p => { p with state := 0, los := true, retired := 0, warm := false, fallback := false, suspended := true }) s)) s

/-! ## STR_PORT_CTRL (R830, R758) -/

/-- Whether an enabled Strait port waits for step 11. -/
def portsWaiting (s : State) : List Nat := (List.range 24).filter (fun n => (port? s n).any (fun p => p.enable && !p.started))

/-- PWR_STAGGER_STATUS.step_done once ports_go is written and step 10 done: 11 while no enabled port waits to start, else 10. -/
def settleSteps (s : State) : State :=
  if s.clocks.portsGo && 10 ≤ s.clocks.stepDone then
    { s with clocks := { s.clocks with stepDone := if portsWaiting s = [] then 11 else 10 } }
  else s

/-- Clearing enable puts a port DOWN with its transmitters idle, at once (R830). -/
def disablePort (n : Nat) (s : State) : State :=
  match port? s n with
  | none => s
  | some p =>
    let s := if 1 ≤ p.state ∧ p.state ≤ 3 then portDown n 4 s else s
    let s := match p.cmd with | some k => endFree k stTimeout s | none => s
    settleSteps (watchLane n (updPort n (fun p =>
      { p with enable := false, state := 0, txIdle := true, started := false, warm := false, fallback := false, suspended := false,
               retiring := none, cmd := none }) s))

/-- Setting enable makes a Strait port one that waits for step 11; a Causeway port past step 5 starts at once (log 36). -/
def enablePort (n : Nat) (s : State) : State :=
  let s := updPort n (fun p => { p with enable := true, started := false }) s
  if n < 24 then settleSteps s else if 5 ≤ s.clocks.stepDone then startPort n s else s

/-- A write of STR_PORT_CTRL before the seal. -/
def writePortCtrl (n : Nat) (value : BitVec 32) (s : State) : State :=
  if s.harbour.sealed then s
  else
    let v := value.toNat
    let was := (port? s n).any (·.enable)
    let s := updPort n (fun p => { p with beatOut := bit v 1, allowX4 := bit v 2 }) s
    if was && !bit v 0 then disablePort n s else if !was && bit v 0 then enablePort n s else s

/-- A write that clears enable. -/
def execPortDisable (port : Nat) (value : BitVec 32) (s : State) : Host.Outcome State Fault Refusal :=
  run (fun s => if bit value.toNat 0 then s else writePortCtrl port value s) s

/-- A write that sets enable. -/
def execPortEnable (port : Nat) (value : BitVec 32) (s : State) : Host.Outcome State Fault Refusal :=
  run (fun s => if bit value.toNat 0 then writePortCtrl port value s else s) s

/-! ## UNIT_RESET (R767) -/

/-- A port is reset: what was sent on it ends, and it retrains with kept settings; a port that is not up or training stays. -/
def resetPort (n : Nat) (s : State) : State :=
  if portUp s n then retrainPort n (emit (.control n 5 0 0) s)
  else if portState s n = 1 then updPort n (fun p => beginAttempt { p with fallback := false, retiring := none }) s
  else s

/-- The flash channel of a device page. DEDUCED (log 98). -/
def pageChan (s : State) (p : Nat) : Option Nat := (getPage s p).bind (fun g => if inTier .flash p then some g.chan else none)

/-- The commands that use a unit: sub-commands outstanding on a port, work on a cluster, and on a Reef die or a flash channel the
flash reads of its channels; a command that holds Reef threads is taken to use every Reef die (log 37). -/
def unitUsers (cls n : Nat) (s : State) : List Cmd :=
  let port := if cls = 2 then 24 + n else n
  s.bobbin.cmds.filter (fun (c : Cmd) =>
    if cls = 1 ∨ cls = 2 then s.links.outstanding.any (fun o => o.2.cmd == c.key && o.2.port == port)
    else if cls = 3 then c.clusters.contains n
    else
      let onChan := fun (x : Nat) => s.flash.reads.any (fun r => r.1 == c.key && pageChan s r.2 == some x)
      if cls = 4 then s.atolls.threads.any (fun t => t.2.2 == c.key) || onChan (2 * n) || onChan (2 * n + 1) else onChan n)

/-- Whether a class holds a unit of this number. -/
def unitOk (cls n : Nat) : Bool :=
  (cls == 1 && n < 24) || (cls == 2 && n < 2) || (cls == 3 && n < 64) || (cls == 4 && n < 8) || (cls == 5 && n < 16)

/-- The M and O lines of a cluster are poisoned-lost under R253: memory keeps what it holds, and every other holder is
invalidated. -/
def loseCluster (cl : Nat) (s : State) : State :=
  let mine := s.heddle.caches.filter (fun c => c.cluster == cl)
  let s := { s with heddle := { s.heddle with caches := s.heddle.caches.filter (fun c => c.cluster != cl) } }
  mine.foldl (fun s c =>
    match dirGet s c.off with
    | none => s
    | some e =>
      if c.state = .s then putOrFree c.off { e with intShared := e.intShared &&& ~~~(1 <<< cl : BitVec 64) } s
      else
        let dests := extHolders s e
        let s := setPoison c.off (intInvalidate c.off s).2
        let s := if mirrorOf s c.off then twinSend 1 (twinKey s c.off ++ [1]) [] s else s
        if dests = [] then dirDel c.off s else openTxn c.off .recall true dests true s) s

/-- A unit is reset: the commands that use it end with ST_ABORTED_RESET. A cluster writes its line cache back first, or loses it
after a forced select (R767). -/
def resetUnit (forced : Bool) (cls n : Nat) (s : State) : State :=
  let users := unitUsers cls n s
  let s := users.foldl (fun s (c : Cmd) => if c.phase == Phase.ended then s else endFree c.key stAbortedReset (abandon c.key s)) s
  let gone := (s.links.outstanding.filter (fun o => users.any (fun c => c.key == o.2.cmd))).map (·.1)
  let s := gone.foldl (fun s id => dropOutstanding id s) s
  if cls = 1 then resetPort n s
  else if cls = 2 then resetPort (24 + n) s
  else if cls = 3 then (if forced then loseCluster n s else flushCluster n s)
  else s

def execUnitReset (k : CmdKey) (s : State) : Host.Outcome State Fault Refusal :=
  run (withCmd k 0x0F07 (fun c s =>
    let cls := c.fld 16 0 8
    let n := c.fld 17 0 8
    if descArgBlock c.desc || !c.zero 18 63 || !unitOk cls n then badDesc k s
    else endCmd k stOk 0 0 (settlePlans (resetUnit false cls n s)))) s

end Sys2Proof.Machine
end

