-- ==== Sys2Proof/Machine/Members.lean ====
section
/-! DEFINITION. HELLO, pool id claims and conflicts, joining, and the firmware image over the Causeway (chapter 13, "HELLO, pool ids
and joining"; chapter 08, R373; chapter 15, R699). -/

namespace Sys2Proof.Machine

/-- A port can exchange HELLO: it trains or is up (R632 step 7). -/
def greets (s : State) (n : Nat) : Bool := 1 ≤ portState s n && portState s n ≤ 3

/-- The epoch of a pool id as the device knows it; 0 before it has heard of one. -/
def knownEpoch (s : State) (pid : Nat) : BitVec 64 := if pid = s.pool.id then s.pool.epoch else NMap.getD s.pool.epochs pid 0

/-- Learn the epoch of a pool id: never a lower one (log 38). -/
def learnEpoch (pid : Nat) (e : BitVec 64) (s : State) : State :=
  if pid = 0xFFF || pid = s.pool.id || e ≤ NMap.getD s.pool.epochs pid 0 then s
  else { s with pool := { s.pool with epochs := NMap.set s.pool.epochs pid e } }

/-- A pool id joins the membership view. -/
def addMember (pid : Nat) (s : State) : State :=
  if pid = 0xFFF || pid = s.pool.id then s else { s with pool := { s.pool with members := insertNat pid s.pool.members } }

/-- A message that carries the device's own pool id at a higher epoch fences it (R715). -/
def fencedBy (pid : Nat) (e : BitVec 64) (s : State) : Bool := pid == s.pool.id && pid != 0xFFF && s.pool.epoch < e

/-- A receiver holds no alive for a source whose claim it accepts (R624). -/
def forgetAlive (src : Nat) (s : State) : State :=
  { s with links := { s.links with rxAlive := s.links.rxAlive.filter (fun a => a.1 % 2 ^ 20 / 256 != src) } }

/-! ## HELLO (R373, R644–R647, R650) -/

/-- The running image goes out on a Causeway port in IMAGE_PARTs of up to 1,024 bytes (R647): subtype, offset, total length, bytes. -/
def sendImage (n : Nat) (s : State) : State :=
  let l := s.harbour.image
  (List.range (ceilDiv l.length 1024)).foldl (fun s i =>
    emit (.manage n (partnerOf s n) .imagePart ([0x10, 1024 * i, l.length] ++ ((l.drop (1024 * i)).take 1024).map (·.toNat))) s) s

/-- Why a partner's HELLO fails R373: 1 digest, 2 firmware, 4 pool id; 0 where it matches. -/
def helloFault (s : State) (m : Hello) : Nat :=
  if m.digest ≠ s.harbour.digest then 1
  else if m.fwMajor ≠ s.harbour.fwMajor ∨ m.compatId ≠ s.harbour.compatId then 2
  else if m.poolId = s.pool.id ∧ m.poolId ≠ 0xFFF then 4
  else 0

/-- HELLO from a port's partner. A boot-ROM partner on the Causeway is sent the running image. The join rules are applied on the
Strait ports: the Causeway serves the twin named at pairing alone (R656, log 39). -/
def execHello (port : Nat) (m : Hello) (s : State) : Host.Outcome State Fault Refusal :=
  run (fun s =>
    if !greets s port then s
    else
      let s := updPort port (fun p => { p with partner := some m }) s
      if fencedBy m.poolId m.epoch s then fenceSelf 1 m.epoch.toNat s
      else if s.harbour.boot != 3 then s
      else if m.fwMajor = 0 then (if 24 ≤ port then sendImage port s else s)
      else
        let s := learnEpoch m.poolId m.epoch s
        let s := if m.joined then addMember m.poolId s else s
        if 24 ≤ port then s
        else
          let f := helloFault s m
          let s := updPort port (fun p => { p with refusedHello := f != 0 }) s
          if f = 0 then s else raise (event evJoinRefused port m.poolId f 0) s) s

/-- Part of an image arrives while the boot ROM waits (R646, R647, R680). The parts come in order; a part at offset 0 begins anew. -/
def execImagePart (port offset total : Nat) (bytes : List Byte) (s : State) : Host.Outcome State Fault Refusal :=
  run (fun s =>
    let h := s.harbour
    if !portUp s port || port < 24 || !(h.boot == 0 || h.boot == 1 || h.boot == 4) then s
    else if offset = 0 then { s with harbour := { h with parts := bytes, partsTotal := total } }
    else if offset = h.parts.length ∧ total = h.partsTotal then { s with harbour := { h with parts := h.parts ++ bytes } }
    else s) s

/-! ## Claims and conflicts (R648, R649, R699) -/

/-- ID_CONFLICT posted (R659). -/
def conflictEvent (port pid : Nat) (nonce : BitVec 64) (s : State) : State :=
  raise (event evIdConflict port pid (nonce.toNat % 2 ^ 32) (nonce.toNat / 2 ^ 32)) s

/-- Whether this device contests a claim: it has taken the pool id itself, holds it by takeover, or lists it in its view. A member
that claims its own pool id again, at the epoch that is known for it, is not contested (R763, log 40). -/
def contests (s : State) (c : Claim) : Bool :=
  c.poolId == s.pool.id || c.poolId == s.twin.held || c.poolId == s.twin.also ||
    (s.pool.members.contains c.poolId && (c.epoch != knownEpoch s c.poolId || c.epoch == 0)) || c.epoch < knownEpoch s c.poolId

/-- A joined member floods a claim to its other ports, once for each pool id and nonce. -/
def floodClaim (port : Nat) (c : Claim) (s : State) : State :=
  if !s.pool.joined || s.pool.flooded.contains (c.poolId, c.nonce) then s
  else
    floodBut port 0xFFF (if c.takeover then .takeoverClaim else .idClaim)
      (claimWords c.poolId c.takeover c.handback c.epoch c.claimant c.nonce c.digest)
      { s with pool := { s.pool with flooded := s.pool.flooded ++ [(c.poolId, c.nonce)] } }

/-- ID_CLAIM: flooded, and answered with ID_CONFLICT by whoever contests it. One's own claim that comes back is ignored. -/
def execIdClaim (port : Nat) (c : Claim) (s : State) : Host.Outcome State Fault Refusal :=
  run (fun s =>
    if !portUp s port || s.harbour.boot != 3 || c.takeover || c.poolId = 0xFFF || s.pool.nonce = some c.nonce then s
    else
      let seen := s.pool.flooded.contains (c.poolId, c.nonce)
      let s := floodClaim port c s
      if contests s c then
        if seen then s
        else
          let s := emit (.manage port c.poolId .idConflict [c.poolId, c.nonce.toNat]) s
          conflictEvent port c.poolId c.nonce
            { s with pool := { s.pool with refusing := insertNat (port * 4096 + c.poolId) s.pool.refusing } }
      else if c.digest ≠ s.harbour.digest then s
      else
        let s := { s with pool := { s.pool with refusing := s.pool.refusing.filter (fun x => x % 4096 != c.poolId) } }
        interruptCloses (· == c.poolId) (forgetAlive c.poolId (addMember c.poolId (learnEpoch c.poolId (if c.epoch = 0 then 1 else c.epoch) s)))) s

/-- ID_CONFLICT meets the claim under way: the claimant stays isolated (R649). -/
def execIdConflict (port poolId : Nat) (nonce : BitVec 64) (s : State) : Host.Outcome State Fault Refusal :=
  run (fun s =>
    if portUp s port && poolId = s.pool.id && s.pool.nonce = some nonce then
      conflictEvent port poolId nonce
        { s with pool := { s.pool with conflict := true, isolated := true, claimed := false, joined := false, nonce := none } }
    else s) s

/-- The ports whose partner's HELLO matters to joining and failed R373. -/
def helloRefused (s : State) : Bool := s.links.ports.any (fun p => p.1 < 24 && portUp s p.1 && p.2.refusedHello)

/-- The homes of the rings that a warm reset ended are told once the device has joined (R507, log 45). -/
def tellGone (s : State) : State :=
  let l := s.lagoon.ringHomes.filter (fun x => 16384 ≤ x.1)
  let s := { s with lagoon := { s.lagoon with ringHomes := s.lagoon.ringHomes.filter (fun x => x.1 < 16384) } }
  l.foldl (fun s x => (x.2.filter (fun p => !isMine s p)).foldl (fun s p => sendManage p .ringGone [s.pool.id * 4096 + (x.1 - 16384)] s) s) s

/-- 1 ms has passed without a conflict: the claim stands where every port's HELLO matched and the beat is locked, and the device
joins; otherwise it stays isolated (R373, R648, R699). -/
def execClaimStands (s : State) : Host.Outcome State Fault Refusal :=
  run (fun s =>
    let p := s.pool
    if p.nonce.isNone || p.conflict then s
    else if helloRefused s then { s with pool := { p with nonce := none, isolated := true } }
    else if !(s.treadle.root || (s.treadle.locked && !s.treadle.unsynced)) then
      raise (event evJoinRefused s.treadle.primary (partnerOf s s.treadle.primary) 3 0) { s with pool := { p with nonce := none, isolated := true } }
    else
      tellGone { s with pool := { p with nonce := none, isolated := false, claimed := true, joined := true,
                                         epoch := if p.epoch = 0 then 1 else p.epoch } }) s

end Sys2Proof.Machine
end

