-- ==== Sys2Proof/Machine/Twin.lean ====
section
/-! DEFINITION. The twin (chapter 15): what crosses the Causeway and how it is applied, acknowledgements, the loss of the Causeway,
probes, takeovers and takeover claims, pairing, resync and the handback, and ROUTE_SET.

An item names isles, windows, bindings, rings, plans and sequences in the sender's numbering (log 16): its own ones plain, those of a
pool id it holds above them. The receiver keeps the sender's own ones as its mirror; those of the held pool id wait in the mirror,
under shifted keys, until the receiver becomes that pool id. -/

namespace Sys2Proof.Machine

/-! ## Numbering -/

/-- An isle as the other end of the Causeway numbers it. -/
def flipIsle (i : Nat) : Nat := if i < twinIsle then i + twinIsle else i - twinIsle

/-- A number whose own and held ranges are `n` apart, as the other end counts it. -/
def flipKey (n k : Nat) : Nat := if k < n then k + n else k - n

/-- Translation entries that wait for a handback stand from here up in the mirror. -/
abbrev waitEntry : Nat := 2 ^ 60

/-- Regions that wait for a handback stand from here up in the mirror. -/
abbrev waitRegion : Nat := 2 ^ 32

def updMirror (f : Mirror → Mirror) (s : State) : State := { s with twin := { s.twin with mirror := f s.twin.mirror } }

/-- The device page that holds an isle's virtual page (the page owner table, R240). -/
def ownedPage (s : State) (isle vp : Nat) : Option Nat :=
  (s.store.pages.find? (fun p => p.2.isle == isle && p.2.vpage == some vp)).map (·.1)

/-- The place of the line that an item names. -/
def placeOf (s : State) (w : List Nat) : Option Nat :=
  (ownedPage s (flipIsle (w.getD 0 0)) (w.getD 1 0 / pageSize)).map (fun p => p * pageSize + w.getD 1 0 % pageSize)

/-- Whether a Causeway port is up. -/
def causewayUp (s : State) : Bool := portUp s 24 || portUp s 25

/-! ## The non-region unit (R707, R727) -/

/-- Whether a line lies in a mirrored region. -/
def onMirroredLine (s : State) (off : Nat) : Bool :=
  match ownerOf s off with
  | some (i, va) => (entryOf s i (va / pageSize)).any eMirrored
  | none => false

/-- The unit of the device's own pool id, and what it keeps live of the pool id it holds. -/
def sendOwnUnit (s : State) : State :=
  let s := s.isles.foldl (fun s x => twinSend 5 (isleWords s x.1 x.2) [] s) s
  let s := s.store.regions.foldl (fun s x => twinSend 4 (regionWords x.2.isle x.1 x.2) [] s) s
  let s := s.isles.foldl (fun s x =>
    (mappedPages s x.1).foldl (fun s p => twinSend 6 [x.1, p, (entryOf s x.1 p).getD 0] [] s) s) s
  let s := s.trans.windows.foldl (fun s x => twinSend 7 [x.1, x.2.isle, x.2.rights, x.2.pages, x.2.base] [] s) s
  let s := s.links.binds.foldl (fun s x => twinSend 8 [x.1, x.2.toNat] [] s) s
  let s := s.lagoon.seqs.foldl (fun s x => twinSend 11 (x.1 :: seqWords x.2) [] s) s
  let s := (s.bobbin.sqs.map (·.1)).foldl (fun s sq => noteRing sq s) s
  let s := s.treadle.plans.foldl (fun s x => twinSend 10 (planWords x.1 x.2) [] s) s
  (s.heddle.dir.map (·.1)).foldl (fun s off => if onMirroredLine s off then twinSend 2 (twinKey s off ++ dirWords s off) [] s else s) s

/-- The unit of a pool id held by takeover. -/
def sendHeldUnit (s : State) : State :=
  if s.twin.held = 0xFFF then s
  else
    let m := s.twin.mirror
    let s := (m.isles.filter (·.1 < twinIsle)).foldl (fun s x => twinSend 5 (isleWords s (x.1 + twinIsle) x.2) [] s) s
    let s := (m.regions.filter (·.1 < waitRegion)).foldl (fun s x => twinSend 4 (regionWords (x.2.isle + twinIsle) x.1 x.2) [] s) s
    let s := (m.entries.filter (fun x => x.1 < waitEntry && eMirrored x.2)).foldl (fun s x =>
      twinSend 6 [x.1 / 2 ^ 39 + twinIsle, x.1 % 2 ^ 39, x.2] [] s) s
    let s := m.windows.foldl (fun s x => twinSend 7 [x.1 + 4096, x.2.isle, x.2.rights, x.2.pages, x.2.base] [] s) s
    let s := m.binds.foldl (fun s x => twinSend 8 [x.1 + 65536, x.2.toNat] [] s) s
    m.atomics.foldl (fun s j => twinSend 3 [j.1, j.2.1, j.2.2.1, j.2.2.2.1.toNat, j.2.2.2.2.toNat] [] s) s

/-- The whole unit, then its end with the pool id held. -/
def sendUnit (s : State) : State := twinSend 15 [s.twin.held] [] (sendHeldUnit (sendOwnUnit s))

/-! ## Applying an item (R707) -/

/-- The key pair of an item's last word, unwrapped under the pairing key with the item's number as the initialization vector; the
low 128 bits of what was wrapped are the tag (R691; log 28). -/
def unwrappedKeys (s : State) (id v : Nat) : Option Nat :=
  match s.trust.pairing with
  | some p => if v = 0 then none else Config.gcmUnwrap p id 0 ((v - 1) / 2 ^ 128) ((v - 1) % 2 ^ 128)
  | none => none

def isleOfWords (s : State) (id : Nat) (w : List Nat) : Isle :=
  let g := fun (i : Nat) => w.getD i 0
  { state := match g 1 with | 1 => .created | 2 => .active | 3 => .quiescing | 4 => .resetting | _ => .free
    timeShared := g 2 == 1, weight := g 3, ringQuota := g 4, transRoot := g 5, bar2Base := g 6, heddleQuota := g 7, shuttleQuota := g 8,
    reefQuota := g 9, hbmQuota := g 10, ddrQuota := g 11, flashQuota := g 12, clusterMask := BitVec.ofNat 64 (g 13),
    keys := unwrappedKeys s id (g 14) }

def regionOfWords (w : List Nat) : Region :=
  let g := fun (i : Nat) => w.getD i 0
  { isle := g 2, va := g 3, len := g 4, coherent := g 5 == 1, ty := g 6, mirrored := g 7 == 1,
    replica := if g 8 = 0 then none else some (g 8 - 1), cursor := none }

/-- An entry of the map set, or removed where the item carries no words after its key. -/
def putWords {α : Type} (m : NMap α) (k : Nat) (w : List Nat) (x : α) : NMap α := if w.length ≤ 1 then NMap.del m k else NMap.set m k x

/-- Whether a translation entry of the partner names a page that the device holds for it. -/
def mirrorNames (s : State) (p : Nat) (g : Page) : Bool :=
  g.vpage.any (fun v => (NMap.get? s.twin.mirror.entries ((g.isle - twinIsle) * 2 ^ 39 + v)).any (fun e => eOff e / pageSize == p))

/-- A page kept from an unfinished resync that no entry names gives way to another (R771). -/
def giveWay (p : Nat) (s : State) : State :=
  match getPage s p with
  | some g => if twinIsle ≤ g.isle && !mirrorNames s p g then dropPage p s else s
  | none => s

/-- A translation entry of the other end: its page is taken at the same device offset, where that is free (R79); an invalid entry
gives the page back. False where the place is taken or does not exist. -/
def takeTransEntry (isle vp e : Nat) (s : State) : Bool × State :=
  let key := (if isle < twinIsle then waitEntry + isle * 2 ^ 39 else (isle - twinIsle) * 2 ^ 39) + vp
  let put := fun (s : State) => updMirror (fun m => { m with entries := NMap.set m.entries key e }) s
  if !eValid e then
    let s := match ownedPage s isle vp with | some p => dropPage p s | none => s
    (true, tlbDrop (fun t => t.covers isle vp) (updMirror (fun m => { m with entries := NMap.del m.entries key }) s))
  else if !eMirrored e || ownedPage s isle vp == some (eOff e / pageSize) then (true, put s)
  else
    let s := giveWay (eOff e / pageSize) s
    if (tierOf s (eOff e)).isNone || pageTaken s (eOff e / pageSize) then (false, s)
    else
      let s := allocPage (eOff e / pageSize) isle (some vp) 0 0 s
      (true, updMirror (fun m => { m with entries := NMap.set m.entries key e }) s)

/-- The bytes of a range of an isle set to zero, without marks. -/
def clearTwinRange (isle va len : Nat) (s : State) : State :=
  (pieces va len).foldl (fun s x =>
    match ownedPage s isle (x.1 / pageSize) with
    | none => s
    | some p =>
      let a := p * pageSize + x.1 % pageSize
      let keep := fun (l : Nat) => l < a || a + x.2 ≤ l
      let s := clearBytes a x.2 s
      { s with store := { s.store with poison := s.store.poison.filter keep, lost := s.store.lost.filter keep } }) s

/-- The pages that no translation entry of the partner names any more are given up. -/
def pruneMirror (s : State) : State :=
  { s with store := { s.store with pages := s.store.pages.filter (fun p =>
    p.2.isle < twinIsle || mirrorNames s p.1 p.2) } }

/-- A watermark is journaled in flash (R729, R769): role 0 is the source, 1 the spare. -/
def journalMark (region role mark : Nat) (s : State) : State :=
  let b := s.twin.partner + role * 65536
  let e : JEntry := { ty := 1, state := 0, isle := 0, a := region, b := b, pos := mark }
  { s with harbour := { s.harbour with
    journal := s.harbour.journal.filter (fun x => !(x.ty == 1 && x.a == region && x.b == b)) ++ [e] } }

/-- Apply an item of state. The result is false where the twin cannot take it (R79). -/
def applyItem (it : TwinItem) (s : State) : Bool × State :=
  let w := it.words
  let k := w.headD 0
  let g := fun (i : Nat) => w.getD i 0
  match it.kind with
  | 0 =>
    match placeOf s w with
    | some off => (true, wake (lineOf off) (writeBytes off it.bytes (clearLost off (clearPoison off s))))
    | none => (true, s)
  | 1 => match placeOf s w with | some off => (true, markPoison off (g 2 == 1) s) | none => (true, s)
  | 2 =>
    match placeOf s w with
    | some off => (true, updMirror (fun m => { m with dir := if g 2 = 0 then NMap.del m.dir off else NMap.set m.dir off (w.drop 2) }) s)
    | none => (true, s)
  | 3 =>
    let x := w.drop (w.length - 5)
    let j := (x.getD 0 0, x.getD 1 0, x.getD 2 0, BitVec.ofNat 16 (x.getD 3 0), BitVec.ofNat 128 (x.getD 4 0))
    (true, updMirror (fun m => { m with atomics := m.atomics ++ [j] }) s)
  | 4 =>
    let id := g 1 + (if k < twinIsle then 0 else waitRegion)
    (true, updMirror (fun m => { m with
      regions := if w.length ≤ 2 then NMap.del m.regions id else NMap.set m.regions id (regionOfWords w)
      marks := if s.twin.state = .resync then m.marks else NMap.del m.marks (regionKey s.twin.partner id) }) s)
  | 5 => (true, updMirror (fun m => { m with isles := putWords m.isles k w (isleOfWords s it.id w) }) s)
  | 6 => takeTransEntry (flipIsle k) (g 1) (g 2) s
  | 7 =>
    let x : Window := { isle := g 1, rights := g 2, pages := g 3, base := g 4, leaving := false }
    (true, updMirror (fun m => { m with windows := putWords m.windows k w x }) s)
  | 8 => (true, updMirror (fun m => { m with binds := NMap.set m.binds k (BitVec.ofNat 64 (g 1)) }) s)
  | 9 => (true, updMirror (fun m => { m with rings := putWords m.rings k w w }) s)
  | 10 => (true, updMirror (fun m => { m with plans := putWords m.plans k w w }) s)
  | 11 => (true, updMirror (fun m => { m with seqs := putWords m.seqs k w w }) s)
  | 12 =>
    let s := updMirror (fun m => { m with marks := NMap.set m.marks (regionKey k (g 1)) (g 2) }) s
    (true, if g 2 = 0 then s else journalMark (g 1) 1 (g 2) s)
  | 13 => (true, s)
  | 15 => (true, pruneMirror { s with twin := { s.twin with mirror := { s.twin.mirror with unitDone := true }, srcHeld := k } })
  | 16 => (true, clearTwinRange (flipIsle k) (g 1) (g 2) s)
  | _ => (true, s)

/-! ## What becomes live at a takeover or a handback (R720, R722, R727) -/

/-- A mirrored ring of the other end, live: what was fetched and not completed has ended with ST_ABORTED_FENCED, and fetching goes on
at the first descriptor not fetched (R720). -/
def inheritRing (s : State) (x : Nat × List Nat) : State :=
  let g := fun (i : Nat) => x.2.getD i 0
  let sq := flipKey 8192 x.1
  let cq := flipKey 8192 (g 11)
  let isle := flipIsle (g 1)
  let open' := x.2.drop 19
  let q : Sq :=
    { isle := isle, fn := 0, host := false, dbHost := false, management := false, events := false, log2 := g 2,
      base := BitVec.ofNat 64 (g 3), dbLine := BitVec.ofNat 64 (g 4), dbSlot := g 5, pollGroup := 0, inflightMax := g 6, cq := cq,
      alive := BitVec.ofNat 16 (g 7), accepted := BitVec.ofNat 32 (g 8), fetched := BitVec.ofNat 32 (g 9),
      err := if g 10 = 0 then none else some (g 10 - 1), errRecord := false, destroying := false, destroyCmd := none, destroyFn := none,
      ignored := 0, rereads := 0, awaitBme := false }
  let c : Cq :=
    { isle := isle, fn := 0, host := false, log2 := g 12, base := BitVec.ofNat 64 (g 13), dbHost := false,
      dbLine := BitVec.ofNat 64 (g 14), dbSlot := g 15, alive := BitVec.ofNat 16 (g 16), written := BitVec.ofNat 32 (g 17),
      consumed := BitVec.ofNat 32 (g 18),
      reserved := open'.length + (match NMap.get? s.bobbin.cqs cq with | some y => y.reserved | none => 0), msixEn := false,
      msixVector := 0, modCount := 0, modTime := 0, counted := 0, ignored := 0, broken := false }
  let cmds := open'.map (fun n => { freshCmd { sq := sq, seq := BitVec.ofNat 32 n } isle 0 .ended with status := stAbortedFenced })
  { s with bobbin := { s.bobbin with sqs := NMap.set s.bobbin.sqs sq q, cqs := NMap.set s.bobbin.cqs cq c, cmds := s.bobbin.cmds ++ cmds } }

/-- A plan of the other end, live; one that its lead was still preparing is gone with its command. -/
def inheritPlan (s : State) (x : Nat × List Nat) : State :=
  let g := fun (i : Nat) => x.2.getD i 0
  if g 3 = 0 then s
  else
    let st : PlanState := match g 3 with | 1 => .tentative | 2 => .admitted | 3 => .started | _ => .paused
    putPlan (flipKey (2 ^ 32) x.1)
      { newPlan (wordsText (x.2.drop 5)) st (flipIsle (g 1)) (g 2) 0 none [] with startBeat := BitVec.ofNat 48 (g 4) } s

/-- A sequence record of the other end, live. -/
def inheritSeq (s : State) (x : Nat × List Nat) : State :=
  let q := seqOfWords x.2
  let k := flipKey 65536 x.1
  { s with lagoon := { s.lagoon with seqs := NMap.set s.lagoon.seqs k q
                                     gens := if k < 65536 then NMap.set s.lagoon.gens k q.gen else s.lagoon.gens } }

/-- Rings, plans and sequences become live: those of the other end's own pool id (`held` false), or those of the pool id that it
held. -/
def inheritLive (held : Bool) (s : State) : State :=
  let m := s.twin.mirror
  let pick := fun (n : Nat) (l : NMap (List Nat)) => l.filter (fun x => decide (n ≤ x.1) == held)
  let rest := fun (n : Nat) (l : NMap (List Nat)) => l.filter (fun x => decide (n ≤ x.1) != held)
  let s := updMirror (fun m => { m with rings := rest 8192 m.rings, plans := rest (2 ^ 32) m.plans, seqs := rest 65536 m.seqs }) s
  let s := (pick 65536 m.seqs).foldl (fun s x => inheritSeq s (x.1, x.2.drop 1)) s
  let s := (pick 8192 m.rings).foldl inheritRing s
  (pick (2 ^ 32) m.plans).foldl inheritPlan s

/-- The isles, windows, bindings, regions and translations of the pool id that the other end held become the device's own: the
translation tables are built now that every mirrored page has its place. An isle of the same id keeps its own record. -/
def inheritSpace (s : State) : State :=
  let m := s.twin.mirror
  let s := updMirror (fun m => { m with
    isles := m.isles.filter (·.1 < twinIsle), windows := m.windows.filter (·.1 < 4096), binds := m.binds.filter (·.1 < 65536),
    regions := m.regions.filter (·.1 < waitRegion), entries := m.entries.filter (·.1 < waitEntry) }) s
  let s := (m.isles.filter (fun x => twinIsle ≤ x.1)).foldl (fun s x =>
    let i := x.1 - twinIsle
    if (NMap.get? s.isles i).isSome then s
    else
      match newTable i { s with isles := NMap.set s.isles i x.2 } with
      | some (root, s) => { s with isles := NMap.set s.isles i { x.2 with transRoot := root } }
      | none => s) s
  let s := { s with
    trans := { s.trans with windows := (m.windows.filter (fun x => 4096 ≤ x.1)).foldl (fun t x => NMap.set t (x.1 - 4096) x.2) s.trans.windows }
    links := { s.links with binds := (m.binds.filter (fun x => 65536 ≤ x.1)).foldl (fun t x => NMap.set t (x.1 - 65536) x.2) s.links.binds }
    store := { s.store with
      regions := (m.regions.filter (fun x => waitRegion ≤ x.1)).foldl (fun t x => NMap.set t (x.1 - waitRegion) x.2) s.store.regions } }
  (m.entries.filter (fun x => waitEntry ≤ x.1)).foldl (fun s x =>
    let isle := (x.1 - waitEntry) / 2 ^ 39
    let vp := (x.1 - waitEntry) % 2 ^ 39
    if mapped s isle vp then s
    else match ensureTable isle vp s with | some s => putEntry isle vp x.2 s | none => s) s

/-- A directory entry of a mirrored line as it stood at the other end (R216): its external holders are agents here now. Copies of the
other end's line caches are gone; a line whose owner has no agent index is poisoned. -/
def restoreLine (s : State) (x : Nat × List Nat) : State :=
  let holders := groups 5 (x.2.drop 1) ((x.2.length - 1) / 5)
  match getPage s (x.1 / pageSize) with
  | none => s
  | some pg =>
    let find := fun (h : List Nat) => s.heddle.agents.find? (fun a =>
      !a.2.lost && a.2.src == h.getD 0 0 && a.2.stream == h.getD 1 0 && a.2.isle == pg.isle)
    let idx := holders.filterMap (fun h => (find h).map (·.1))
    let s := holders.foldl (fun s h =>
      match find h with
      | some a => { s with heddle := { s.heddle with agents := NMap.upd s.heddle.agents a.1 (fun a =>
          { a with window := if h.getD 4 0 = 0 then a.window else some (h.getD 2 0, h.getD 3 0, h.getD 4 0) }) } }
      | none => s) s
    let code := x.2.headD 0
    let owned := code == 2 || code == 3 || code == 5
    let owner := (holders.head?.bind find).map (·.1)
    if owned && owner.isNone then (if code = 2 then s else setPoison x.1 s)
    else
      let st : DirState := if code = 2 then .extExcl else if code = 3 then .extDirty else if code = 5 then .extOwned else .shared
      let e := { freshEntry s with state := st, owner := if owned then owner.getD 0 else 0 }
      let e := (if owned then idx.drop 1 else idx).foldl (fun e i => addExt s i e) e
      putOrFree x.1 e s

/-- The external holders of the mirrored lines are restored. -/
def restoreDir (s : State) : State :=
  let l := s.twin.mirror.dir
  l.foldl restoreLine (attachAll (updMirror (fun m => { m with dir := [] }) s))

/-! ## Held writes and acknowledgements (R143, R160, R216, R710–R712) -/

/-- A command's item is acknowledged; the twin may have had no room for a mirrored region (R79). -/
def ackCmd (k : CmdKey) (id : Nat) (ok : Bool) (s : State) : State :=
  let s := updCmd k (fun c => { c with unacked := c.unacked.filter (· != id) }) s
  let s := if ok then s else undoRegion k s
  match cmd? s k with
  | some c =>
    (match c.lead with
     | some h => if c.phase = .ended ∧ c.unacked = [] then dropCmd k (answerSub c h s) else s
     | none => s)
  | none => s

/-- An item is acknowledged: the grant, the write's completion or the withdrawal that waits for it goes on. -/
def acked (id : Nat) (ok : Bool) (s : State) : State :=
  match s.twin.waits.find? (·.1 == id) with
  | none => s
  | some (_, w) =>
    let s := { s with twin := { s.twin with waits := s.twin.waits.filter (·.1 != id) } }
    match w with
    | .reply r st lines grant prior => deliver r st lines grant prior s
    | .cmd k => ackCmd k id ok s
    | .withdrawal i => finishResets (finishWds i s)

/-- Everything that waits for the twin goes on without it (R711, R712). -/
def completeHeld (s : State) : State := pumpAll ((s.twin.waits.map (·.1)).foldl (fun s id => acked id true s) s)

/-- TWIN_ACKNOWLEDGEMENT. -/
def execTwinAcknowledgement (port id : Nat) (ok : Bool) (s : State) : Host.Outcome State Fault Refusal :=
  run (fun s => if 24 ≤ port && portUp s port && s.twin.state != .fenced then pumpAll (acked id ok s) else s) s

/-! ## Requests for the partner's pool id (R724) -/

/-- The requests and sub-commands held from a Causeway loss on are answered with ST_REROUTE. -/
def releaseHeld (s : State) : State :=
  let s := (s.links.parked.filter (fun r => r.why == some .takeover)).foldl (fun s r =>
    let s := unpark r.id s
    if r.kind = .dirty then s else sendStatus r.hdr stReroute s.twin.partner s) s
  (s.bobbin.cmds.filter (fun (c : Cmd) => c.key.sq == 4096 && c.phase == Phase.held && c.aux != [])).foldl (fun s (c : Cmd) =>
    match c.lead with
    | some h => refuseSub h stReroute s.twin.partner (dropCmd c.key s)
    | none => s) s

/-- The requests and sub-commands held are served. -/
def serveHeld (s : State) : State :=
  let s := (s.links.parked.filter (fun r => r.why == some .takeover)).foldl (fun s r => takeIn { r with why := none } (unpark r.id s)) s
  pumpAll (rejudge true s)

/-- The Causeway alone has failed: DEGRADED (R711). -/
def degrade (s : State) : State :=
  let s := { s with twin := { s.twin with state := .degraded, probing := false, mirror := { s.twin.mirror with stale := true } } }
  raise (event evTwinDegraded 0 s.twin.partner 1 0) (releaseHeld (completeHeld s))

/-! ## Takeover (R712, R717–R722) -/

/-- A takeover claim of this device is flooded (R648, R700). -/
def claimFor (pid : Nat) (handback : Bool) (epoch : BitVec 64) (claimant : Nat) (s : State) : State :=
  let x := Config.freeWord s.free
  floodBut noPort 0xFFF .takeoverClaim (claimWords pid true handback epoch claimant x s.harbour.digest)
    (nextFree { s with pool := { s.pool with flooded := s.pool.flooded ++ [(pid, x)] } })

/-- The device makes a pool id its own to serve, at the epoch after the one it knew. -/
def seize (pid cause : Nat) (s : State) : State :=
  let e := knownEpoch s pid + 1
  let s := claimFor pid false e s.pool.id { s with pool := { s.pool with epochs := NMap.set s.pool.epochs pid e } }
  raise (event evTwinTakeover 0 pid (e.toNat % 2 ^ 32) cause) s

/-- The rings of a pool id taken over that no mirrored ring continues are gone: its homes are told, here and at every member (R507). -/
def tellRingsGone (pid : Nat) (kept : List Nat) (s : State) : State :=
  let rings := ((List.range 4096).filter (fun i => !kept.contains i)).map (fun i => pid * 4096 + i)
  (s.pool.members.filter (fun p => p != s.pool.id && p != pid)).foldl (fun s p => sendManage p .ringGone rings s) (ringsGone rings s)

/-- Every plan that has a pool id as a member is paused (R722). -/
def pauseFor (pid : Nat) (s : State) : State :=
  (s.treadle.plans.filter (fun p => p.2.text.members.contains pid)).foldl (fun s p => pausePlan reMember pid p.1 s) s

/-- What is common to every takeover once the pool ids are marked held: waiting writes complete, the state of the pool id becomes
live, its plans pause, and what was held for it is served; the twin of the beat root becomes the root (R367). -/
def goLive (pid : Nat) (s : State) : State :=
  let kept := ((s.twin.mirror.rings.map (·.1)).filter (· < 8192))
  let s := restoreDir (inheritLive false (completeHeld s))
  let s := pauseFor pid (tellRingsGone pid kept s)
  let s := if s.treadle.rootId = pid then { s with treadle := { s.treadle with root := true } } else s
  serveHeld s

/-- The twin takes over its partner's pool id: cause 1 probe, 2 certificate, 3 fence notice. -/
def takeOver (cause : Nat) (s : State) : State :=
  let x := s.twin.partner
  let s := { s with twin := { s.twin with state := .degraded, held := x, probing := false } }
  goLive x (seize x cause (raise (event evTwinDegraded 0 x 2 0) s))

/-! ## The end of a resync (R727–R731, R771) -/

/-- TWIN_PAIR ends, where one is under way. -/
def endPair (status : Nat) (s : State) : State :=
  match s.twin.pairCmd with
  | some k => endFree k status { s with twin := { s.twin with pairCmd := none } }
  | none => s

/-- The mirror is given up. The watermarks of an unfinished resync stay, as the flash journal has them, and with them the pages that
the copy has filled, which the next resync goes on from (R729, R771). -/
def dropMirror (s : State) : State :=
  let marks := s.twin.mirror.marks
  let waits := (s.twin.mirror.entries.filter (fun x => waitEntry ≤ x.1 && eMirrored x.2)).map (fun x => eOff x.2 / pageSize)
  { s with
    store := { s.store with pages := if marks = [] then s.store.pages.filter (fun p => p.2.isle < twinIsle && !waits.contains p.1) else s.store.pages }
    twin := { s.twin with mirror := { Mirror.empty with marks := marks } } }

/-- The copy cursors are taken away: nothing is under copy. -/
def clearCursors (s : State) : State :=
  let f := fun (m : NMap Region) => m.map (fun x => (x.1, { x.2 with cursor := none }))
  updMirror (fun m => { m with regions := f m.regions })
    { s with store := { s.store with regions := f s.store.regions }, twin := { s.twin with toCopy := [], source := false } }

/-- The source loses its spare: it stays DEGRADED, and its TWIN_PAIR ends with ST_ABORTED_RESET (R771). -/
def loseSpare (s : State) : State :=
  let s := clearCursors (completeHeld s)
  let partner := if s.twin.held = 0xFFF then s.twin.partner else s.twin.held
  endPair stAbortedReset { s with twin := { s.twin with state := .degraded, partner := partner, probing := false } }

/-- The mirrored regions that the resync has not brought whole, with their pool id, id and watermark. -/
def partialRegions (s : State) : List (Nat × Nat × Nat) :=
  (s.twin.mirror.regions.filter (fun x => x.2.mirrored)).filterMap (fun x =>
    let pid := if x.1 < waitRegion then s.twin.partner else s.twin.srcHeld
    let mark := NMap.getD s.twin.mirror.marks (regionKey pid (x.1 % waitRegion)) 0
    if x.2.len ≤ mark * 2 ^ 26 then none else some (pid, x.1 % waitRegion, mark))

/-- The source of an unfinished resync is lost (R731): the spare takes over every pool id it served where the unit was whole, and
reports what is incomplete. -/
def loseSource (cause : Nat) (s : State) : State :=
  let a := s.twin.partner
  if !s.twin.mirror.unitDone then
    let s := { s with twin := { s.twin with state := if s.twin.source then .degraded else .unpaired, probing := false } }
    let s := raise (event evResyncPartial 0 a 0xFFFFFFFF 0) (clearCursors (releaseHeld (completeHeld s)))
    endPair stDataLost (dropMirror { s with twin := { s.twin with partner := if s.twin.state = .unpaired then 0xFFF else a } })
  else
    let x := s.twin.srcHeld
    let parts := partialRegions s
    let s := { clearCursors s with twin := { (clearCursors s).twin with state := .degraded, held := a, also := x, probing := false } }
    let s := seize a cause (raise (event evTwinDegraded 0 a 2 0) s)
    let s := if x = 0xFFF then s else inheritLive true (inheritSpace (seize x cause s))
    let s := goLive a s
    let s := if x = 0xFFF then s else pauseFor x s
    endPair stDataLost (parts.foldl (fun s p => raise (event evResyncPartial 0 p.1 p.2.1 p.2.2) s) s)

/-- What the source keeps live of the pool id it hands back leaves its hands: rings and sequences go back into the mirror, requests
and sub-commands under way there end with ST_REROUTE to the pool id itself. DESIGN CHOICE (log 25). -/
def releasePool (s : State) : State :=
  let x := s.twin.held
  let rings := s.bobbin.sqs.filter (fun q => 8192 ≤ q.1)
  let words := rings.filterMap (fun q => (NMap.get? s.bobbin.cqs q.2.cq).map (fun c =>
    (q.1 - 8192, ringWords s (q.1 - 8192) { q.2 with isle := flipIsle q.2.isle, cq := q.2.cq - 8192 } c)))
  let seqs := (s.lagoon.seqs.filter (fun q => 65536 ≤ q.1)).map (fun q => (q.1 - 65536, (q.1 - 65536) :: seqWords q.2))
  let gone := s.links.parked.filter (fun r => twinIsle ≤ r.isle)
  let s := gone.foldl (fun s r => let s := unpark r.id s; if r.kind = .dirty then s else sendStatus r.hdr stReroute x s) s
  let subs := s.bobbin.cmds.filter (fun (c : Cmd) => c.lead.isSome && twinIsle ≤ c.isle)
  let s := subs.foldl (fun s (c : Cmd) =>
    match c.lead with | some h => refuseSub h stReroute x (dropCmd c.key (abandon c.key s)) | none => s) s
  let held := (s.heddle.agents.filter (fun a => twinIsle ≤ a.2.isle)).map (·.1)
  { s with
    bobbin := { s.bobbin with
      sqs := s.bobbin.sqs.filter (fun q => q.1 < 8192), cqs := s.bobbin.cqs.filter (fun q => q.1 < 8192),
      cmds := s.bobbin.cmds.filter (fun (c : Cmd) => c.key.sq < 8192) }
    lagoon := { s.lagoon with seqs := s.lagoon.seqs.filter (fun q => q.1 < 65536) }
    treadle := { s.treadle with plans := s.treadle.plans.filter (fun p => p.1 < 2 ^ 32) }
    heddle := { s.heddle with
      agents := s.heddle.agents.filter (fun a => !held.contains a.1)
      dir := s.heddle.dir.filter (fun e => !(getPage s (e.1 / pageSize)).any (fun g => twinIsle ≤ g.isle)) }
    twin := { s.twin with held := 0xFFF, partner := x, mirror := { s.twin.mirror with rings := words, seqs := seqs } } }

/-- The spare becomes the pool id that the source hands back: it claims it at the next epoch and gives up its own (R730). DESIGN CHOICE (log 25). -/
def becomePool (x : Nat) (s : State) : State :=
  let old := s.pool.id
  let e := knownEpoch s x + 1
  let s := { s with pool := { s.pool with id := x, epoch := e, members := s.pool.members.filter (· != x),
                                          epochs := NMap.del s.pool.epochs x } }
  let s := claimFor x true e old s
  let s := raise (event evTwinTakeover 0 x (e.toNat % 2 ^ 32) 4) s
  restoreDir (inheritLive true (inheritSpace s))

/-- The resync is complete on this side: PAIRED, RESYNC_DONE, and TWIN_PAIR ends (R730). -/
def finishResync (s : State) : State :=
  if s.twin.done ≠ (true, true) then s
  else
    let n := s.twin.copied + s.twin.peerCopied.1
    let gib := ceilDiv (s.twin.copiedBytes + s.twin.peerCopied.2) (2 ^ 30)
    let s := if s.twin.source && !s.twin.peerSource && s.twin.held != 0xFFF then releasePool s else s
    let s := if !s.twin.source && s.twin.srcHeld != 0xFFF then becomePool s.twin.srcHeld s else s
    let s := { s with
      twin := { s.twin with state := .paired, source := false, peerSource := false, srcHeld := 0xFFF, mirror := { s.twin.mirror with marks := [], stale := false } }
      harbour := { s.harbour with journal := s.harbour.journal.filter (fun e => e.ty != 1) } }
    let s := raise (event evResyncDone 0 s.twin.partner (n % 2 ^ 32) (gib % 2 ^ 32)) s
    match s.twin.pairCmd with
    | some k => endCmd k stOk n gib { s with twin := { s.twin with pairCmd := none } }
    | none => s

/-- RESYNC_COPY_DONE: the source has copied every region. -/
def execResyncCopyDone (s : State) : Host.Outcome State Fault Refusal :=
  run (fun s =>
    let t := s.twin
    if t.state != .resync || !t.source || t.toCopy != [] || t.done.1 then s
    else
      let s := twinSend 17 [t.copied, t.copiedBytes] [] s
      finishResync { s with twin := { s.twin with done := (true, s.twin.done.2) } }) s

/-! ## The copy (R727–R729) -/

/-- The region of a key of `toCopy`: its isle in the device's numbering, and its record. -/
def copyRegion (s : State) (key : Nat) : Option (Nat × Region) :=
  let id := key % 2 ^ 32
  if key / 2 ^ 32 = s.pool.id then (NMap.get? s.store.regions id).map (fun r => (r.isle, r))
  else (NMap.get? s.twin.mirror.regions id).map (fun r => (r.isle + twinIsle, r))

/-- The contents of a range cross: it reads as zero but for the lines sent, with their poison. -/
def sendRange (isle va len : Nat) (s : State) : State :=
  (pieces va len).foldl (fun s x =>
    match ownedPage s isle (x.1 / pageSize) with
    | none => s
    | some p =>
      let a := p * pageSize + x.1 % pageSize
      let here := fun (l : Nat) => a ≤ l && l < a + x.2
      let lines := (((s.store.cells.map (·.1)).filter here).map lineOf).eraseDups
      let marks := ((s.store.poison ++ s.store.lost).filter here).eraseDups
      let s := lines.foldl (fun s l => twinSend 0 (twinKey s l) (readBytes s l 64) s) s
      marks.foldl (fun s l => twinSend 1 (twinKey s l ++ [1]) [] s) s) (twinSend 16 [isle, va, len] [] s)

/-- The copy of a region passes another 64 MiB, or reaches its end: the range crosses, the watermark is journaled and mirrored
(R729). -/
def execResyncWatermark (poolId region mark : Nat) (s : State) : Host.Outcome State Fault Refusal :=
  run (fun s =>
    let key := regionKey poolId region
    if s.twin.state != .resync || !s.twin.source || s.twin.toCopy.head? != some key then s
    else
      match copyRegion s key with
      | none => { s with twin := { s.twin with toCopy := s.twin.toCopy.drop 1 } }
      | some (isle, r) =>
        let c := r.cursor.getD 0
        if mark ≠ c / 2 ^ 26 + 1 then s
        else
          let c' := min r.len (mark * 2 ^ 26)
          let s := sendRange isle (r.va + c) (c' - c) s
          let s := journalMark region 0 mark (twinSend 12 [poolId, region, mark] [] s)
          let done := decide (r.len ≤ c')
          let s := setRegion isle region (some { r with cursor := if done then none else some c' }) s
          if done then
            { s with twin := { s.twin with toCopy := s.twin.toCopy.drop 1, copied := s.twin.copied + 1,
                                           copiedBytes := s.twin.copiedBytes + r.len } }
          else s) s

/-! ## TWIN_PAIR (R701–R703, R727) -/

def tpPartner (c : Cmd) : Nat := c.fld 16 0 12
def tpMode (c : Cmd) : Nat := c.fld 18 0 2

def pairFieldsOk (c : Cmd) : Bool :=
  !descArgBlock c.desc && c.rz 16 12 4 && tpMode c < 2 && c.rz 18 2 6 && c.zero 19 19 && c.zero 21 63 &&
    (if tpMode c = 0 then c.zero 20 20 else 1 ≤ c.fld 20 0 8 && c.fld 20 0 8 ≤ 200)

def twinCode : TwinState → Nat
  | .unpaired => 0
  | .paired => 1
  | .degraded => 2
  | .resync => 3
  | .fenced => 4

/-- Whether a device has no mirrored region and no pool id taken over (R703). -/
def twinClean (s : State) : Bool := s.twin.held == 0xFFF && s.twin.also == 0xFFF && !s.store.regions.any (fun r => r.2.mirrored)

/-- The words that announce a TWIN_PAIR to the partner. -/
def pairWords (s : State) (c : Cmd) : List Nat :=
  [s.pool.id, tpPartner c, tpMode c, twinCode s.twin.state, s.twin.partner, (twinClean s).toNat] ++
    s.twin.mirror.marks.flatMap (fun m => [m.1, m.2])

/-- Whether the partner's HELLO has arrived on a Causeway port with causeway set (R703). -/
def partnerGreeted (s : State) (pid : Nat) : Bool :=
  [24, 25].any (fun n => ((port? s n).bind (fun p => p.partner)).any (fun h => h.poolId == pid && h.causeway))

/-- Whether one end alone is fit for a mode: mode 0 neither paired nor with anything mirrored or held; mode 1 DEGRADED, or a spare. -/
def endFit (mode state : Nat) (clean : Bool) : Bool := if mode = 0 then (state == 0 || state == 2) && clean else state == 2 || (state == 0 && clean)

/-- Whether a mode 1 pairing has a source: two DEGRADED partners of each other, or a DEGRADED device and a spare (R703, log 41). -/
def resyncFit (s : State) (peer named state partner : Nat) (clean : Bool) : Bool :=
  let me := twinCode s.twin.state
  (me == 2 && state == 2 && s.twin.partner == peer && partner == named) || (me == 2 && state == 0 && clean) ||
    (me == 0 && twinClean s && state == 2)

/-- Every mirrored region that the device serves, by rising pool id and region id (R727). -/
def regionsToCopy (s : State) : List Nat :=
  let own := (s.store.regions.filter (fun r => r.2.mirrored)).map (fun r => regionKey s.pool.id r.1)
  let held := if s.twin.held = 0xFFF then []
    else (s.twin.mirror.regions.filter (fun r => r.2.mirrored && r.1 < waitRegion)).map (fun r => regionKey s.twin.held r.1)
  (own ++ held).foldl (fun l k => insertNat k l) []

/-- The watermark that the device has journaled as the source of a region. -/
def sourceMark (s : State) (region peer : Nat) : Nat :=
  match s.harbour.journal.find? (fun e => e.ty == 1 && e.a == region && e.b == peer) with
  | some e => e.pos
  | none => 0

/-- The source's cursors are set: at the start of each region, or at the lower of the two watermarks of an earlier resync (R771). -/
def startCopy (peer : Nat) (marks : List Nat) (s : State) : State :=
  let l := regionsToCopy s
  l.foldl (fun s key =>
    match copyRegion s key with
    | none => s
    | some (isle, r) =>
      let theirs := ((groups 2 marks (marks.length / 2)).find? (fun m => m.getD 0 0 == key)).map (fun m => m.getD 1 0)
      let mark := min (theirs.getD 0) (sourceMark s (key % 2 ^ 32) peer)
      let mark := min mark ((r.len - 1) / 2 ^ 26)
      twinSend 12 [key / 2 ^ 32, key % 2 ^ 32, mark] [] (setRegion isle (key % 2 ^ 32) (some { r with cursor := some (mark * 2 ^ 26) }) s))
    { s with twin := { s.twin with toCopy := l, copied := 0, copiedBytes := 0 } }

/-- The pairing key is agreed: it comes from draws of both ends, a free value (R691, log 4). -/
def agreePairing (s : State) : State :=
  let w := fun (i : Nat) => (Config.freeWord (s.free + i)).toNat
  { s with trust := { s.trust with pairing := some (w 0 + 2 ^ 64 * w 1 + 2 ^ 128 * w 2 + 2 ^ 192 * w 3) }, free := s.free + 4 }

/-- A pair of TWIN_PAIRs has met: the pair forms, or both commands end with ST_PERMISSION. DEDUCED (log 87). -/
def meetPair (k : CmdKey) (c : Cmd) (w : List Nat) (s : State) : State :=
  let peer := tpPartner c
  let state := w.getD 3 0
  let clean := w.getD 5 0 == 1
  let s := { s with twin := { s.twin with peerPair := none } }
  if !partnerGreeted s peer then endFree k stPermission s
  else if tpMode c = 0 then
    if !endFit 0 (twinCode s.twin.state) (twinClean s) || !endFit 0 state clean then endFree k stPermission s
    else
      let s := agreePairing (dropMirror s)
      let s := { s with twin := { s.twin with state := .paired, partner := peer, silent := 0, mirror := Mirror.empty } }
      endFree k stOk (sendUnit s)
  else if !resyncFit s peer (w.getD 1 0) state (w.getD 4 0) clean then endFree k stPermission s
  else
    let source := s.twin.state == .degraded
    let peerSource := state == 2
    let s := agreePairing (if source && !peerSource then s else dropMirror s)
    let s := { s with twin := { s.twin with
      state := .resync, partner := peer, silent := 0, pairCmd := some k, source := source, peerSource := peerSource,
      done := (!source, !peerSource), peerCopied := (0, 0), copied := 0, copiedBytes := 0 } }
    if source then startCopy peer (w.drop 6) (sendUnit s) else s

/-- Look whether the partner's TWIN_PAIR and one of this device name each other in the same mode (R702). DEDUCED (log 87). -/
def tryPair (s : State) : State :=
  match s.twin.peerPair with
  | none => s
  | some w =>
    match s.bobbin.cmds.find? (fun (c : Cmd) => c.opcode == 0x0F30 && c.phase == Phase.running && s.twin.pairCmd != some c.key &&
        tpPartner c == w.getD 0 0xFFF && w.getD 1 0xFFF == s.pool.id && tpMode c == w.getD 2 0) with
    | some c => meetPair c.key c w s
    | none => s

def execTwinPair (k : CmdKey) (s : State) : Host.Outcome State Fault Refusal :=
  run (withCmd k 0x0F30 (fun c s =>
    if c.phase == .running then s
    else if !pairFieldsOk c then badDesc k s
    else if !partnerGreeted s (tpPartner c) || !endFit (tpMode c) (twinCode s.twin.state) (twinClean s || (tpMode c == 1 && s.twin.state == .degraded)) then
      endFree k stPermission s
    else tryPair (twinSend 14 (pairWords s c) [] (startCmd k s)))) s

/-- No matching TWIN_PAIR has arrived within 10 ms: the announcement is taken back (R702). -/
def execTwinPairTimeout (k : CmdKey) (s : State) : Host.Outcome State Fault Refusal :=
  run (withCmd k 0x0F30 (fun c s =>
    if c.phase == .running && s.twin.pairCmd != some k then endFree k stTimeout (twinSend 14 [s.pool.id] [] s) else s)) s

/-! ## Items and acknowledgements as they arrive -/

/-- Whether the device applies its partner's items: PAIRED, or the receiving end of a resync. -/
def receiving (s : State) : Bool := s.twin.state == .paired || (s.twin.state == .resync && s.twin.peerSource)

/-- CAUSEWAY_JOURNAL: an item of twin state arrives. What the device applies it acknowledges. -/
def execCausewayJournal (port : Nat) (item : TwinItem) (s : State) : Host.Outcome State Fault Refusal :=
  run (fun s =>
    if !portUp s port || port < 24 || s.twin.state == .fenced then s
    else if item.kind = 14 then
      tryPair { s with twin := { s.twin with peerPair := if item.words.length ≤ 1 then none else some item.words } }
    else if !receiving s then s
    else if item.kind = 17 then
      finishResync { s with twin := { s.twin with done := (s.twin.done.1, true), peerCopied := (item.words.getD 0 0, item.words.getD 1 0) } }
    else
      let r := applyItem item s
      emit (.manage port s.twin.partner .twinAck [item.id, r.1.toNat]) r.2) s

/-! ## Watching the partner (R657, R709–R712, R716) -/

/-- HEARTBEAT. -/
def execHeartbeat (port src : Nat) (_beat : BitVec 48) (epoch : BitVec 64) (s : State) : Host.Outcome State Fault Refusal :=
  run (fun s =>
    if !portUp s port || port < 24 then s
    else if fencedBy src epoch s then fenceSelf 1 epoch.toNat s
    else
      let s := learnEpoch src epoch s
      if src = s.twin.partner then { s with twin := { s.twin with silent := 0 } } else s) s

/-- Whether both Causeway ports report loss of signal. -/
def causewaySilent (s : State) : Bool := [24, 25].all (fun n => (port? s n).any (·.los))

/-- The Causeway is lost: mirrored writes stay held, and the partner is probed over Strait, by its own route (R709, R710). The source
that has a spare under resync gives the resync up instead (R771). -/
def execCausewayLost (s : State) : Host.Outcome State Fault Refusal :=
  run (fun s =>
    let t := s.twin
    if !(t.hbMiss ≤ t.silent || causewaySilent s) || !(t.state == .paired || t.state == .resync) || t.probing then s
    else if t.state == .resync && t.source && !t.peerSource then loseSpare s
    else
      let s := { s with twin := { t with probing := true } }
      match ownPort s t.partner 0 with
      | some p => emit (.manage p t.partner .probe [s.pool.id]) s
      | none => s) s

/-- PROBE is answered with PROBE_ACK at once (R710). One from the partner shows a paired device that the Causeway alone has failed
(R711). -/
def execProbe (port src : Nat) (s : State) : Host.Outcome State Fault Refusal :=
  run (fun s =>
    if !portUp s port || s.harbour.boot != 3 then s
    else
      let s := emit (.manage port src .probeAck [s.pool.id]) s
      if s.twin.state == .paired && src == s.twin.partner then degrade s else s) s

/-- PROBE_ACK (R711). A spare whose source answers is unpaired again, and keeps its watermarks. -/
def execProbeAck (port src : Nat) (s : State) : Host.Outcome State Fault Refusal :=
  run (fun s =>
    if !portUp s port || !s.twin.probing || src != s.twin.partner then s
    else if s.twin.state == .paired then degrade s
    else if s.twin.state == .resync then
      let s := releaseHeld (completeHeld (clearCursors { s with twin := { s.twin with probing := false } }))
      if s.twin.peerSource && s.twin.done.1 && s.twin.held == 0xFFF && twinClean s then
        endPair stAbortedReset (dropMirror { s with twin := { s.twin with state := .unpaired, partner := 0xFFF } })
      else endPair stAbortedReset (degrade s)
    else s) s

/-- probe_us has passed without PROBE_ACK: the partner's pool id is taken over (R712), or the resync ends as R731 states. -/
def execProbeTimeout (s : State) : Host.Outcome State Fault Refusal :=
  run (fun s =>
    if !s.twin.probing then s
    else if s.twin.state == .resync then loseSource 1 s
    else if s.twin.state == .paired then takeOver 1 s
    else s) s

/-- FENCE_NOTICE: the partner has fenced itself, and is taken over without a probe (R716). -/
def execFenceNotice (port src : Nat) (s : State) : Host.Outcome State Fault Refusal :=
  run (fun s =>
    if !portUp s port || port < 24 || src != s.twin.partner then s
    else if s.twin.state == .paired then takeOver 3 s
    else if s.twin.state == .resync then (if s.twin.peerSource then loseSource 3 s else loseSpare s)
    else s) s

/-! ## Takeover claims (R713–R715) -/

/-- Whether a claim is the withdrawn side of a crossing that this member has seen: its claimant's own pool id was taken over by the
claimed pool id, which is the lower one (R714). -/
def withdrawn (s : State) (c : Claim) : Bool :=
  let r := routeOf s c.claimant
  r.redirected && r.twinAlias == some c.poolId && c.poolId < c.claimant

/-- Whether a claim comes from a device that the route entry names for its pool id (R713). -/
def namedFor (s : State) (c : Claim) : Bool :=
  let r := routeOf s c.poolId
  r.twinAlias == some c.claimant || r.standby == some c.claimant

/-- The entry of the claimant's own pool id goes back to what it was before a claim that is withdrawn (R714). -/
def revertCrossed (c : Claim) (s : State) : State :=
  let r := routeOf s c.claimant
  if r.redirected && r.twinAlias == some c.poolId && c.claimant < c.poolId then
    updRoute c.claimant (fun r => { r with redirected := false })
      { s with pool := { s.pool with epochs := NMap.upd s.pool.epochs c.claimant (· - 1) } }
  else s

/-- A claim accepted (R713): the entry is redirected, or on a handback routed by its own mask again. -/
def acceptClaim (port : Nat) (c : Claim) (s : State) : State :=
  let s := floodClaim port c (learnEpoch c.poolId c.epoch (revertCrossed c s))
  let s := discardSubs (fun src => src == c.poolId) (forgetAlive c.poolId s)
  updRoute c.poolId (fun r =>
    if c.handback then { r with redirected := false, standbyValid := false }
    else if r.twinAlias = some c.claimant then { r with redirected := true }
    else { r with redirected := true, aliasId := c.claimant, aliasValid := true, standbyValid := false }) s

/-- TAKEOVER_CLAIM. A claim on the device's own pool id at a higher epoch fences it, but for a crossing in which its own claim
stands. -/
def execTakeoverClaim (port : Nat) (c : Claim) (s : State) : Host.Outcome State Fault Refusal :=
  run (fun s =>
    if !portUp s port || s.harbour.boot != 3 || !c.takeover || c.claimant = s.pool.id then s
    else if fencedBy c.poolId c.epoch s then
      if s.twin.held = c.claimant ∧ s.pool.id < c.claimant then s
      else fenceSelf 1 c.epoch.toNat { s with twin := { s.twin with held := if s.twin.held = c.claimant then 0xFFF else s.twin.held } }
    else if c.poolId = s.pool.id || !decide (knownEpoch s c.poolId < c.epoch) || !namedFor s c || withdrawn s c then s
    else acceptClaim port c s) s

/-! ## ROUTE_SET (R651, R704) -/

def routeFieldsOk (c : Cmd) : Bool :=
  !descArgBlock c.desc && c.rz 16 12 4 && c.zero 18 23 && c.rz 24 24 8 && c.rz 24 44 3 && c.rz 24 62 2 && c.zero 32 63

/-- The entry that 8 bytes hold. -/
def wordRoute (w : Nat) : Route :=
  { mask := BitVec.ofNat 24 w, aliasId := bits w 32 12, aliasValid := bit w 47, redirected := bit w 48, standbyId := bits w 49 12,
    standbyValid := bit w 61 }

def execRouteSet (k : CmdKey) (s : State) : Host.Outcome State Fault Refusal :=
  run (withCmd k 0x0F31 (fun c s =>
    if !routeFieldsOk c then badDesc k s
    else endFree k stOk (updRoute (c.fld 16 0 12) (fun _ => wordRoute (c.fld 24 0 64)) s))) s

end Sys2Proof.Machine
end

