-- ==== Sys2Proof/Machine/Trust.lean ====
section
/-! DEFINITION. Identity, key agreement, isle keys and quorum certificates (chapter 14, "Firmware and trust"; chapter 15, "Managers and
liveness"). -/

namespace Sys2Proof.Machine

/-- HBR_ID: part 0x6412, stepping A1, vendor 0x4B. -/
abbrev hbrId : Nat := 0x4BA16412

/-! ## ATTEST (R685, R686) -/

/-- The device identity key pair: its secret part (R685). -/
def identityKey : Nat := Config.identityPrivate Config.deviceSeed

/-- Bytes 0–191 of an attestation report. -/
def attestBody (s : State) (nonce : List Byte) : List Byte :=
  leBytes 1 2 ++ leBytes s.pool.id 2 ++ leBytes hbrId 4 ++ leBytes s.pool.epoch.toNat 8 ++ leBytes s.treadle.beat.toNat 6 ++
    leBytes 0 2 ++ leBytes (Config.fusedMinSvn % 256 + 256 * Config.jtagLocked.toNat + 512 * Config.productionFuse.toNat) 8 ++ nonce ++
    beBytes s.harbour.measurement 32 ++ leBytes s.harbour.digest 32 ++ beBytes (Config.ecPublic identityKey) 64

/-- The report: the body and the identity key's signature over its digest. -/
def attestReport (s : State) (nonce : List Byte) (draw : Nat) : List Byte :=
  let b := attestBody s nonce
  b ++ beBytes (Config.ecdsaSign identityKey (sha256Nat b) draw) 64

def attestFieldsOk (c : Cmd) : Bool := !descArgBlock c.desc && c.rz 48 0 6 && c.rz 48 55 9 && c.zero 56 63

/-- ATTEST; `draw` is the TRNG draw of its signature. -/
def execAttest (k : CmdKey) (draw : Nat) (s : State) : Host.Outcome State Fault Refusal :=
  run (withCmd k 0x0F40 (fun c s =>
    if !attestFieldsOk c then badDesc k s
    else
      whenReady { c with isle := 0 } [⟨.load, true, c.va 48, 256⟩] (fun s =>
        endFree k stOk (vput k 0 (c.va 48) (attestReport s (leBytes (c.fld 16 0 256) 32) draw) s)) s)) s

/-! ## KEY_AGREE (R687) -/

def agreeVa (c : Cmd) : Nat := field c.arg 64 8

def agreeFieldsOk (c : Cmd) : Bool := c.hasArg (· == 128) && c.zero 32 63 && agreeVa c % 64 == 0 && agreeVa c < 2 ^ 55 && zeros c.arg 72 56

/-- The transport key of a draw and software's public key: SHA-256(Z ‖ Qd.X ‖ Qh.X). -/
def transportKey (draw qh : Nat) : Nat :=
  sha256Nat (beBytes (Config.ecdhX draw qh) 32 ++ beBytes (Config.ecPublic draw / 2 ^ 256) 32 ++ beBytes (qh / 2 ^ 256) 32)

/-- The 128 bytes that KEY_AGREE writes: Qd, then the identity key's signature over SHA-256(Qd ‖ Qh); its own draw follows the
ephemeral one, a free value (log 4). -/
def agreeResult (s : State) (draw qh : Nat) : List Byte :=
  let qd := beBytes (Config.ecPublic draw) 64
  qd ++ beBytes (Config.ecdsaSign identityKey (sha256Nat (qd ++ beBytes qh 64)) (Config.freeWord s.free).toNat) 64

/-- KEY_AGREE; `draw` is the ephemeral secret that the TRNG draws. -/
def execKeyAgree (k : CmdKey) (draw : Nat) (s : State) : Host.Outcome State Fault Refusal :=
  run (withCmd k 0x0F41 (fun c s =>
    if !agreeFieldsOk c then badDesc k s
    else
      whenReady { c with isle := 0 } [⟨.load, true, agreeVa c, 128⟩] (fun s =>
        let qh := beVal (c.arg.take 64)
        let s := nextFree (vput k 0 (agreeVa c) (agreeResult s draw qh) s)
        endFree k stOk { s with trust := { s.trust with transport := some (transportKey draw qh), lastKeySeq := none } }) s)) s

/-! ## ISLE_KEY_LOAD (R688–R690) -/

def klIsle (c : Cmd) : Nat := bits (field c.arg 0 2) 0 14
def klSeq (c : Cmd) : Nat := field c.arg 4 4

def keyLoadFieldsOk (c : Cmd) : Bool :=
  c.hasArg (· == 128) && c.zero 32 63 && bits (field c.arg 0 2) 14 2 == 0 && zeros c.arg 2 2 && zeros c.arg 20 12 && zeros c.arg 112 16

def execIsleKeyLoad (k : CmdKey) (s : State) : Host.Outcome State Fault Refusal :=
  run (withCmd k 0x0F42 (fun c s =>
    if !keyLoadFieldsOk c then badDesc k s
    else
      match s.trust.transport, NMap.get? s.isles (klIsle c) with
      | some key, some r =>
        if klIsle c = 0 || r.state != .created || s.trust.lastKeySeq.any (fun x => decide (klSeq c ≤ x)) then endFree k stPermission s
        else
          let b := fun (o n : Nat) => beVal ((c.arg.drop o).take n)
          match Config.gcmUnwrap key (b 8 12) (b 0 8) (b 32 64) (b 96 16) with
          | none => endFree k stCheckMismatch s
          | some keys =>
            if keys / 2 ^ 256 % 2 ^ 256 = keys % 2 ^ 256 then badDesc k s
            else
              let s := setIsle (some k) (klIsle c) (some { r with keys := some (keys % 2 ^ 512) }) s
              endFree k stOk { s with trust := { s.trust with lastKeySeq := some (klSeq c) } }
      | _, _ => endFree k stPermission s)) s

/-! ## Certificates (R692–R697) -/

/-- A quorum certificate as its bytes give it (R693). -/
structure Cert where
  action : Nat
  target : Nat
  epoch  : BitVec 64
  beat   : BitVec 48
  digest : Nat
  stmt   : List Byte
  signers : List (Nat × Nat)
  deriving DecidableEq, Repr

/-- The certificate in a byte string; none where a reserved field is set or the entries do not fit. Bytes after the last entry are
padding (R696). -/
def parseCert (bs : List Byte) : Option Cert :=
  let n := field bs 64 1
  let ok := 1 ≤ n && n ≤ 16 && 128 + 72 * n ≤ bs.length && bs.length ≤ 1280 && zeros bs 1 1 && bits (field bs 2 2) 12 4 == 0 &&
    zeros bs 4 4 && zeros bs 22 10 && zeros bs 65 63 && (List.range n).all (fun i => zeros bs (129 + 72 * i) 7) &&
    zeros bs (128 + 72 * n) (bs.length - 128 - 72 * n)
  if ok then
    some { action := field bs 0 1, target := bits (field bs 2 2) 0 12, epoch := BitVec.ofNat 64 (field bs 8 8),
           beat := BitVec.ofNat 48 (field bs 16 6), digest := field bs 32 32, stmt := bs.take 64,
           signers := (List.range n).map (fun i => (field bs (128 + 72 * i) 1, beVal ((bs.drop (136 + 72 * i)).take 64))) }
  else none

/-- Public key n of the manager set, X then Y. -/
def managerKey (s : State) (n : Nat) : Nat := beVal (leBytes (NMap.getD s.trust.mgrKeys n 0) 64)

/-- Distinct key indices below key_count with a valid signature, counted in order up to the threshold (R694). -/
def validSigners (s : State) (c : Cert) : Nat :=
  let d := sha256Nat c.stmt
  (c.signers.foldl (fun (l : List Nat) x =>
    if l.length < s.trust.threshold && x.1 < s.trust.keyCount && !l.contains x.1 && Config.ecdsaVerify (managerKey s x.1) d x.2 then x.1 :: l
    else l) []).length

/-- Whether a certificate's beat lies in the window of R694. -/
def beatFits (s : State) (b : BitVec 48) : Bool := (s.treadle.beat - b).toNat ≤ 2 ^ 20 || (b - s.treadle.beat).toNat ≤ 1024

/-- Whether a certificate is newer than the last one accepted for its target, by epoch and then beat. -/
def newerCert (s : State) (c : Cert) : Bool :=
  (s.trust.accepted.filter (fun a => a.1 == c.target)).all (fun a => a.2.1 < c.epoch || (a.2.1 == c.epoch && a.2.2.1 < c.beat))

/-- Why a certificate is refused: 6 action, 1 digest, 2 epoch, 4 beat window, 5 not newer, 3 quorum; 0 where it is accepted. A
REINSTATE needs an expelled pool id that no twin holds (R726). -/
def certCause (s : State) (c : Cert) : Nat :=
  if c.action ≠ 1 ∧ c.action ≠ 2 then 6
  else if c.digest ≠ s.harbour.digest then 1
  else if c.epoch ≠ knownEpoch s c.target then 2
  else if !beatFits s c.beat then 4
  else if !newerCert s c then 5
  else if s.trust.keyCount = 0 ∨ validSigners s c < s.trust.threshold then 3
  else if c.action = 2 ∧ (!s.pool.expelled.contains c.target ∨ c.target = s.twin.held ∨ c.target = s.twin.also) then 6
  else 0

/-- Whether a pool id has a twin that can take over, as a member knows it: its route entry names one (DEDUCED, log 42). -/
def hasTwinAlias (s : State) (pid : Nat) : Bool := (routeOf s pid).twinAlias.any (fun a => a != 0xFFF && !s.pool.expelled.contains a)

/-- The device's own requests to an expelled pool id end with ST_DATA_LOST (R725). -/
def endRequestsTo (pid : Nat) (s : State) : State :=
  ((s.links.outstanding.filter (fun o => o.2.dest == pid)).map (·.1)).foldl (fun s id =>
    match NMap.get? s.links.outstanding id with
    | some o => subAnswered id o stDataLost 0 0 0 noData s
    | none => s) s

/-- An accepted EXPEL (R725). -/
def expel (c : Cert) (s : State) : State :=
  let mark := fun (s : State) => { s with pool := { s.pool with expelled := insertNat c.target s.pool.expelled } }
  if c.target = s.pool.id then fenceSelf 2 c.epoch.toNat (mark s)
  else if c.target = s.twin.partner && s.twin.state == .paired then takeOver 2 s
  else if c.target = s.twin.held || c.target = s.twin.also || (c.target != s.twin.partner && hasTwinAlias s c.target) then s
  else pumpAll (endRequestsTo c.target (mark s))

/-- An accepted REINSTATE (R726): the target leaves the fenced state at the next epoch, and members clear the mark. -/
def reinstate (c : Cert) (s : State) : State :=
  let s := { s with pool := { s.pool with expelled := s.pool.expelled.filter (· != c.target) } }
  if c.target = s.pool.id then
    { s with
      pool := { s.pool with epoch := c.epoch + 1 }
      twin := { s.twin with state := if s.twin.state = .fenced then (if s.twin.partner = 0xFFF then .unpaired else .degraded) else s.twin.state } }
  else { s with pool := { s.pool with epochs := NMap.set s.pool.epochs c.target (c.epoch + 1) } }

/-- Flood a certificate to every port but the one it came on (R696). -/
def floodCert (port : Nat) (bs : List Byte) (s : State) : State := floodBut port 0xFFF .cert (bs.map (·.toNat)) s

/-- Take a certificate: the cause of its refusal, 0 where it is accepted or was accepted before. -/
def takeCert (port : Nat) (bs : List Byte) (c : Cert) (s : State) : Nat × State :=
  if s.trust.accepted.contains (c.target, c.epoch, c.beat, c.action) then (0, s)
  else
    let cause := certCause s c
    if cause ≠ 0 then
      (cause, raise (event evCertRefused 0 c.target cause (validSigners s c))
        { s with trust := { s.trust with refused := s.trust.refused + 1 } })
    else
      let s := { s with trust := { s.trust with accepted := s.trust.accepted ++ [(c.target, c.epoch, c.beat, c.action)] } }
      let s := raise (event evCertAccepted 0 c.target c.action (c.epoch.toNat % 2 ^ 32)) (floodCert port bs s)
      (0, if c.action = 1 then expel c s else reinstate c s)

def certFieldsOk (c : Cmd) : Bool := c.hasArg (fun n => n % 64 == 0 && 64 ≤ n) && c.zero 32 63

/-- EXPEL_CERT. An obeyed certificate that fences the device ends the command with ST_ABORTED_FENCED, as every command in flight. -/
def execExpelCert (k : CmdKey) (s : State) : Host.Outcome State Fault Refusal :=
  run (withCmd k 0x0F43 (fun c s =>
    if !certFieldsOk c then badDesc k s
    else
      match parseCert c.arg with
      | none => badDesc k s
      | some x =>
        let r := takeCert noPort c.arg x (startCmd k s)
        if r.1 = 0 then endFree k stOk r.2 else if r.1 = 2 then endFree k stStaleEpoch r.2 else endFree k stPermission r.2)) s

/-- A certificate in a message on a Strait port; only a member takes it. One that is not laid out as R693 states is dropped. -/
def execCertMessage (port _src : Nat) (cert : List Byte) (s : State) : Host.Outcome State Fault Refusal :=
  run (fun s =>
    if !portUp s port || 24 ≤ port || s.harbour.boot != 3 || !s.pool.joined then s
    else match parseCert cert with | some x => (takeCert port cert x s).2 | none => s) s

end Sys2Proof.Machine
end

