-- ==== Sys2Proof/Machine/Registers.lean ====
section
/-! DEFINITION. The setup registers (chapter 18): the map of PF0 BAR0 and of a VF BAR0 as reads see it, what a write does by its
access code, the latched pairs, the seal, the configuration blob, MSI-X allocation, bindings, and the flash format. -/

namespace Sys2Proof.Machine

/-! ## Words of registers -/

/-- A register word from its fields, each with the bit it starts at. -/
def pack (l : List (Nat × Nat)) : Nat := l.foldl (fun n x => n + x.1 * 2 ^ x.2) 0

/-- Word `i` of a wide register. -/
def word (n i : Nat) : Nat := bits n (32 * i) 32

/-- A wide register with word `i` replaced. -/
def setWord (n i v : Nat) : Nat := n - word n i * 2 ^ (32 * i) + v % 2 ^ 32 * 2 ^ (32 * i)

/-- The 8 bytes of a route table entry (R651). -/
def routeWord (r : Route) : Nat :=
  pack [(r.mask.toNat, 0), (r.aliasId, 32), (r.aliasValid.toNat, 47), (r.redirected.toNat, 48), (r.standbyId, 49), (r.standbyValid.toNat, 61)]

/-- A signed field of `n` bits. -/
def signed (x : Int) (n : Nat) : Nat := (x % (2 ^ n : Int)).toNat

/-! ## Reads of the map (R794–R797) -/

def hbrReg (s : State) (o : Nat) : Nat :=
  let h := s.harbour
  if o = 0x00 then hbrId
  else if o = 0x04 then h.sealed.toNat
  else if o = 0x08 then pack [(h.sealRefusals, 0), (h.lastCause, 8), (h.badAccess, 16), (h.refusedWrites, 24)]
  else if o = 0x0C then pack [(h.boot, 0), (h.bootCause, 3), (h.bootSource, 7), (h.bootRefusals, 8), (h.svn, 16), (h.fwMajor, 24)]
  else if o = 0x10 then pack [(s.pool.id, 0), (s.pool.claimed.toNat, 12), (s.pool.isolated.toNat, 13), (s.pool.joined.toNat, 14)]
  else if o = 0x20 ∨ o = 0x24 then word h.fwAddr.toNat ((o - 0x20) / 4)
  else if o = 0x28 then h.fwLen.toNat
  else if o = 0x40 ∨ o = 0x44 then word h.cfgAddr.toNat ((o - 0x40) / 4)
  else if 0x60 ≤ o ∧ o < 0x80 then word h.digest ((o - 0x60) / 4)
  else if 0x10000 ≤ o ∧ o < 0x20000 then field h.report (o - 0x10000) 4
  else 0

def clkReg (s : State) (o : Nat) : Nat :=
  let c := s.clocks
  if o = 0x00 then pack [(c.refSel.toNat, 0), (c.timingPort, 1), (c.trimSrc.toNat, 6), (c.force.toNat, 7)]
  else if o = 0x04 then
    pack [(c.oscAlive.toNat, 0), (c.refclkAlive.toNat, 1), (c.rootAlive.toNat, 2), (c.pllLocked.toNat, 3), (c.holdover.toNat, 4),
      ((timingAlive s).toNat, 5), (c.refIsLane.toNat, 6), (c.switchPending.toNat, 7)]
  else if o = 0x08 then c.laneAlive.toNat
  else if o = 0x0C then c.trim.toNat
  else if 0x100 ≤ o ∧ o < 0x100 + 400 then
    let d := (o - 0x100) / 4
    pack [((c.domSel.getLsbD d).toNat, 0), ((c.domForce.getLsbD d).toNat, 1), ((c.domPending.getLsbD d).toNat, 2),
      ((c.domReset.getLsbD d).toNat, 3)]
  else 0

def pwrReg (s : State) (o : Nat) : Nat :=
  let c := s.clocks
  if o = 0 then pack [(c.vloom, 0), (c.floor, 10), (c.ceiling, 20)]
  else if o = 4 then pack [(c.perStep, 1), (c.stepUs, 8)]
  else if o = 8 then pack [(c.stepDone, 0), (c.portsStarted, 4)]
  else 0

/-- The ring setup registers of a function (R326). -/
def ringReg (s : State) (fn o : Nat) : Nat :=
  match NMap.get? s.bobbin.fns fn with
  | none => 0
  | some f =>
    if o < 0x40 then word f.ringRec (o / 4)
    else if o = 0x44 then pack [(f.busy.toNat, 0), (f.status, 16)]
    else if o = 0x48 then pack [(f.sqId, 0), (f.cqId, 16)]
    else 0

/-- A word of a function's MSI-X table: message address, data, vector control. -/
def msixReg (s : State) (fn o : Nat) : Nat :=
  let vec := o / 16
  let m := getMsix s fn vec
  if !(NMap.get? s.bobbin.fns fn).any (fun f => vec < f.vectors) then 0
  else if o % 16 / 4 = 0 then word m.addr.toNat 0
  else if o % 16 / 4 = 1 then word m.addr.toNat 1
  else if o % 16 / 4 = 2 then m.data.toNat
  else m.masked.toNat

/-- A word of a function's pending bit array. -/
def pbaReg (s : State) (fn o : Nat) : Nat := pack ((List.range 32).map (fun i => ((getMsix s fn (8 * o + i)).pending.toNat, i)))

/-- BOB_MSIX_ALLOC of a function (R804). -/
def msixCount (s : State) (fn : Nat) : Nat := NMap.getD s.bobbin.msixAlloc fn (if fn = 0 then 64 else 1)

def bobReg (s : State) (o : Nat) : Nat :=
  if o < 0x4C then ringReg s 0 o
  else if 0x1000 ≤ o ∧ o < 0x1400 then NMap.getD s.bobbin.pollGroups ((o - 0x1000) / 4) 20
  else if 0x2000 ≤ o ∧ o < 0x2400 then msixCount s ((o - 0x2000) / 4)
  else if 0x10000 ≤ o ∧ o < 0x18000 then msixReg s 0 (o - 0x10000)
  else if 0x18000 ≤ o ∧ o < 0x18100 then pbaReg s 0 (o - 0x18000)
  else 0

def islReg (s : State) (o : Nat) : Nat :=
  if o = 0 ∨ o = 4 then word s.harbour.isleTable (o / 4)
  else if o = 8 then pack [(s.lagoon.handoffMs, 0), (s.lagoon.orphanS, 16)]
  else if 0x100 ≤ o ∧ o < 0x100 + 1020 then (NMap.getD s.links.vfBinds ((o - 0x100) / 4 + 1) 0).toNat
  else 0

def trnReg (s : State) (o : Nat) : Nat :=
  if o = 0 then s.trans.drainBound
  else if o = 4 then pack [(pinnedCount s, 0), (s.trans.walks.length, 16)]
  else if o = 8 then s.trans.grace
  else 0

def hedReg (s : State) (o : Nat) : Nat :=
  if o = 0 then s.heddle.broadcast.toNat
  else if o = 4 then pack [(s.heddle.agents.length, 0), (s.heddle.cachingRefused, 16)]
  else if o = 8 then s.heddle.recalls.toNat
  else 0

def trdReg (s : State) (o : Nat) : Nat :=
  let t := s.treadle
  if o = 0x00 then pack [(t.period, 0), (t.root.toNat, 3), (t.primary, 8), (t.alternate, 16)]
  else if o = 0x04 then
    pack [(t.locked.toNat, 0), (t.unsynced.toNat, 1), (t.onAlternate.toNat, 2), (t.hops, 8), (signed t.phaseErr 16, 16)]
  else if o = 0x08 then pack [(t.bg, 0), (t.us, 16)]
  else if o = 0x0C then t.prepare
  else if o = 0x10 then word t.beat.toNat 0
  else if o = 0x14 then t.latch.toNat
  else if o = 0x18 then t.slack.toNat
  else if o = 0x1C then t.overruns.toNat
  else if o = 0x20 then t.missed.toNat
  else 0

/-- A register of a Strait or Causeway port. -/
def portReg (s : State) (n o : Nat) : Nat :=
  match port? s n with
  | none => 0
  | some p =>
    if o = 0x00 then pack [(p.enable.toNat, 0), (p.beatOut.toNat, 1), (p.allowX4.toNat, 2)]
    else if o = 0x04 then
      pack [(p.state, 0), (p.retired.toNat, 3), (p.los.toNat, 11), (p.reversed.toNat, 12), (p.attempts, 16)]
    else if o = 0x08 then p.delay.toNat
    else if o = 0x0C then p.replays.toNat
    else if o = 0x10 then p.aliveGap.toNat
    else if o = 0x14 then p.nobind.toNat
    else 0

def strReg (s : State) (o : Nat) : Nat :=
  let r := o % 0x10000
  if o < 0x180000 then
    if 0x4000 ≤ r ∧ r < 0x8000 then word (NMap.getD s.links.binds (o / 0x10000 * 2048 + (r - 0x4000) / 8) 0).toNat (r % 8 / 4)
    else portReg s (o / 0x10000) r
  else if o = 0x180000 then s.links.reqTimeout
  else if 0x190000 ≤ o ∧ o < 0x198000 then word (routeWord (routeOf s ((o - 0x190000) / 8))) (o % 8 / 4)
  else 0

def cswReg (s : State) (o : Nat) : Nat :=
  if o < 0x20000 then portReg s (24 + o / 0x10000) (o % 0x10000)
  else if o = 0x20000 then s.twin.hbMiss
  else if o = 0x20004 then pack [(s.twin.probeUs, 0), (s.twin.takeoverUs, 16)]
  else if o = 0x20008 then pack [(twinCode s.twin.state, 0), (s.twin.partner, 4), (s.twin.held, 16)]
  else if o = 0x20010 then word s.pool.epoch.toNat 0
  else if o = 0x20014 then s.pool.epochLatch.toNat
  else 0

def memReg (s : State) (o : Nat) : Nat :=
  let m := s.store
  let t := s.tide
  if o = 0x00 then
    pack [(m.hbmReady.toNat, 0), (m.ddrReady.toNat, 1), (m.popError.toNat, 2), (m.dimms, 3), (m.dimmSize, 5), (m.ddrSpeed, 8)]
  else if o = 0x04 then m.speedCap
  else if o = 0x08 then (if m.hbmReady then hbmPages else 0)
  else if o = 0x0C then (if m.ddrReady then ddrPages s else 0)
  else if o = 0x100 then pack [(t.enable.toNat, 0), (t.target, 1)]
  else if o = 0x104 then pack [(t.epochMs, 0), (t.warmupEpochs, 16)]
  else if o = 0x108 then pack [(t.hbmThreshold, 0), (t.seed, 16)]
  else if o = 0x10C then pack [(t.ddrThreshold, 0), (t.flashIdle, 16)]
  else if o = 0x110 then pack [(t.hbmLow, 0), (t.hbmTarget, 8), (t.ddrLow, 16), (t.ddrTarget, 24)]
  else if o = 0x114 then pack [(t.maxMoves, 0), (t.maxDemotes, 16)]
  else if o = 0x118 then t.noRoom.toNat
  else if o = 0x11C then t.skipped.toNat
  else if o = 0x120 then t.abandoned.toNat
  else if o = 0x200 then pack [(s.emb.holdEpochs, 0), (s.emb.rateGbps, 8)]
  else if o = 0x300 then pack [(m.dramHours, 0), (m.flashDays, 8)]
  else if o = 0x304 then m.eccTransient.toNat
  else 0

def refReg (s : State) (o : Nat) : Nat :=
  let f := s.flash
  if o = 0x00 then f.opSelect
  else if o = 0x04 then
    pack ((f.formatted.toNat, 0) :: (f.formatting.toNat, 1) :: (f.opApplied, 2) :: f.chans.map (fun c => (c.2.present.toNat, 16 + c.1)))
  else if o = 0x08 then flashPages s
  else if o = 0x10 then f.readTransient.toNat
  else if o = 0x14 then f.progTransient.toNat
  else if o = 0x18 then f.eraseTransient.toNat
  else if 0x100 ≤ o ∧ o < 0x140 then
    match NMap.get? f.chans ((o - 0x100) / 4) with
    | some c => pack [(c.capacity, 0), (c.divider, 16), (c.failed.toNat, 18), (c.wearLow.toNat, 19), (c.full.toNat, 20)]
    | none => 0
  else 0

def secReg (s : State) (o : Nat) : Nat :=
  if o = 0 then pack [(s.trust.keyCount, 0), (s.trust.threshold, 8)]
  else if 0x400 ≤ o ∧ o < 0x800 then word (NMap.getD s.trust.mgrKeys ((o - 0x400) / 64) 0) (o % 64 / 4)
  else 0

def telReg (s : State) (o : Nat) : Nat :=
  if o = 0 then pack [(s.thermal.warn.toNat, 0), (s.thermal.throttle.toNat, 1)]
  else if o = 4 then pack [(signed s.thermal.tj.tenths 16, 0), (s.thermal.tj.die, 16)]
  else if o = 8 then pack [(signed s.thermal.hbm.tenths 16, 0), (s.thermal.hbm.die, 16)]
  else 0

/-- The 32-bit word that a read of PF0 BAR0 at a word-aligned offset returns; an offset that the map does not assign reads as zero
(R796, R797). -/
def readReg (s : State) (off : Nat) : Nat :=
  let o := off % 0x100000
  match off / 0x100000 with
  | 0x0 => hbrReg s o
  | 0x1 => clkReg s o
  | 0x2 => pwrReg s o
  | 0x3 => bobReg s o
  | 0x4 => islReg s o
  | 0x5 => trnReg s o
  | 0x6 => hedReg s o
  | 0x7 => trdReg s o
  | 0x8 => strReg s o
  | 0x9 => strReg s (0x100000 + o)
  | 0xA => cswReg s o
  | 0xB => memReg s o
  | 0xC => refReg s o
  | 0xD => if o = 0 then s.trust.transientCount.toNat else if o = 4 then s.trust.lastingCount.toNat
           else if o = 8 then s.trust.refusedCount.toNat else 0
  | 0xE => secReg s o
  | 0xF => telReg s o
  | _ => 0

/-- The word that a read of a function's BAR0 returns (R326, R794). -/
def readBar0 (s : State) (fn off : Nat) : Nat :=
  if fn = 0 then readReg s off
  else if off < 0x4C then ringReg s fn off
  else if 0x4000 ≤ off ∧ off < 0xC000 then msixReg s fn (off - 0x4000)
  else if 0xC000 ≤ off ∧ off < 0xC100 then pbaReg s fn (off - 0xC000)
  else 0

/-- Whether an access has a size and alignment that R795 accepts. -/
def accessOk (off size : Nat) : Bool := (size == 4 || size == 8) && off % size == 0

/-- An access of PF0 BAR0 that R795 refuses is counted. -/
def badAccess (fn : Nat) (s : State) : State :=
  if fn = 0 then { s with harbour := { s.harbour with badAccess := satInc s.harbour.badAccess 255 } } else s

/-- TRD_BEAT_LO read: it latches TRD_BEAT_HI, which an 8-byte read then returns (R795). -/
def execTrdBeatLoRead (size : Nat) (s : State) : Host.Outcome State Fault Refusal :=
  run (fun s =>
    if !accessOk 0x700010 size then emit (.regRead 0) (badAccess 0 s)
    else
      let v := readReg s 0x700010
      let s := { s with treadle := { s.treadle with latch := BitVec.ofNat 16 (s.treadle.beat.toNat / 2 ^ 32) } }
      emit (.regRead (BitVec.ofNat 64 (v + (if size = 8 then readReg s 0x700014 * 2 ^ 32 else 0)))) s) s

/-- CSW_EPOCH_LO read: it latches CSW_EPOCH_HI (R738, R795). -/
def execCswEpochLoRead (size : Nat) (s : State) : Host.Outcome State Fault Refusal :=
  run (fun s =>
    if !accessOk 0xA20010 size then emit (.regRead 0) (badAccess 0 s)
    else
      let v := readReg s 0xA20010
      let s := { s with pool := { s.pool with epochLatch := BitVec.ofNat 32 (s.pool.epoch.toNat / 2 ^ 32) } }
      emit (.regRead (BitVec.ofNat 64 (v + (if size = 8 then readReg s 0xA20014 * 2 ^ 32 else 0)))) s) s

/-! ## Writes with a row of their own -/

/-- A write ignored and counted (HBR_SETUP_STATUS). DEDUCED (log 55). -/
def refuseWrite (s : State) : State :=
  { s with harbour := { s.harbour with refusedWrites := satInc s.harbour.refusedWrites 255 } }

/-- Whether the blob agrees with the registers (R801, R802). -/
def blobAgrees (s : State) (b : List Byte) : Bool :=
  field b 0 2 == 1 && field b 2 1 == s.heddle.broadcast.toNat && field b 3 1 == s.treadle.period && field b 4 2 < 4096 &&
    (field b 4 2 == s.pool.id) == s.treadle.root && field b 6 1 == s.trust.keyCount && field b 7 1 == s.trust.threshold &&
    field b 8 2 == s.links.reqTimeout && zeros b 10 6 &&
    (List.range 16).all (fun n => field b (16 + 64 * n) 64 == (if n < s.trust.keyCount then NMap.getD s.trust.mgrKeys n 0 else 0))

/-- The cause for which a seal write is refused; 0 where every check passes (R798). -/
def sealCause (s : State) : Nat :=
  if !s.bobbin.sqs.any (fun q => q.2.management && q.2.active) then 1
  else if s.pool.id = 0xFFF then 2
  else
    match s.harbour.blob with
    | none => 3
    | some b => if blobAgrees s b then 0 else 4

def writeSeal (value : BitVec 32) (s : State) : State :=
  let h := s.harbour
  if !value.getLsbD 0 || h.sealed then s
  else if sealCause s = 0 then { s with harbour := { h with sealed := true } }
  else { s with harbour := { h with sealRefusals := satInc h.sealRefusals 255, lastCause := sealCause s } }

def execSealWrite (value : BitVec 32) (s : State) : Host.Outcome State Fault Refusal := run (writeSeal value) s

/-- HBR_CFG_GO before the seal loads the blob that the read returns; a misaligned address or a failed read leaves none (R800). Data of
another length is no answer of this read (log 7). -/
def cfgGo (value : BitVec 32) (blob : HostRead) (s : State) : State :=
  if !value.getLsbD 0 then s
  else if s.harbour.sealed then refuseWrite s
  else
    let none' := { s with harbour := { s.harbour with blob := none, digest := 0 } }
    if s.harbour.cfgAddr.toNat % 64 ≠ 0 then none'
    else
      let ask := emit (.hostRead 0 s.harbour.cfgAddr 4096)
      match blob with
      | .data bs =>
        if bs.length = 4096 then ask { s with harbour := { s.harbour with blob := some bs, digest := leVal (sha256 bs) } } else s
      | _ => ask none'

def execCfgGo (value : BitVec 32) (blob : HostRead) (s : State) : Host.Outcome State Fault Refusal := run (cfgGo value blob) s

/-- A write of a Strait binding entry before the seal (R816): it takes effect at once. A new agent beyond the limit has the caching
bit of the value cleared, and is counted (R218). -/
def writeBind (port entry : Nat) (v : BitVec 64) (s : State) : State :=
  let old := (NMap.getD s.links.binds (port * 2048 + entry) 0).toNat
  let w := v.toNat % 2 ^ 36
  let ends := (agentAt s port entry).isSome && endsAgent old w
  let news := bindCaching w && ((agentAt s port entry).isNone || ends)
  if news && !agentRoom s ends then
    changeBind port entry (BitVec.ofNat 64 (w - 2 ^ 35)) none
      { s with heddle := { s.heddle with cachingRefused := satInc s.heddle.cachingRefused 65535 } }
  else changeBind port entry (BitVec.ofNat 64 w) none s

/-- One word of a binding entry written. DESIGN CHOICE (log 56). -/
def writeBindWord (port entry i v : Nat) (s : State) : State :=
  if s.harbour.sealed then s
  else writeBind port entry (BitVec.ofNat 64 (setWord (NMap.getD s.links.binds (port * 2048 + entry) 0).toNat i v)) s

/-- An 8-byte write of an entry: two 4-byte writes, the lower first (R795). DESIGN CHOICE (log 56). -/
def execStrBindWrite (port entry : Nat) (value : BitVec 64) (s : State) : Host.Outcome State Fault Refusal :=
  run (fun s => writeBindWord port entry 1 (word value.toNat 1) (writeBindWord port entry 0 (word value.toNat 0) s)) s

/-- A write of HED_MODE (R807). -/
def writeHedMode (value : BitVec 32) (s : State) : State :=
  if s.harbour.sealed || value.getLsbD 0 == s.heddle.broadcast then s
  else if s.links.binds.any (fun b => bit b.2.toNat 35) then refuseWrite s
  else { s with heddle := { s.heddle with broadcast := value.getLsbD 0 } }

def execHedModeWrite (value : BitVec 32) (s : State) : Host.Outcome State Fault Refusal := run (writeHedMode value) s

/-- A write of ISL_VF_BIND (R806): isle 0 with valid is a reserved combination, of which both fields keep their values (R12). -/
def writeVfBind (vf : Nat) (value : BitVec 32) (s : State) : State :=
  let v := bits value.toNat 0 14 + (bit value.toNat 15).toNat * 2 ^ 15
  if s.harbour.sealed || !vfBindOk v || BitVec.ofNat 32 v == NMap.getD s.links.vfBinds vf 0 then s
  else if vfOwnsRing s vf then refuseWrite s
  else putVfBind vf (BitVec.ofNat 32 v) s

def execVfBindWrite (vf : Nat) (value : BitVec 32) (s : State) : Host.Outcome State Fault Refusal := run (writeVfBind vf value) s

/-- The sum of the vector counts of all functions. -/
def msixSum (s : State) : Nat := ((List.range 256).map (msixCount s)).sum

/-- A write of BOB_MSIX_ALLOC (R804, R805). DEDUCED (log 55). -/
def writeMsixAlloc (fn : Nat) (value : BitVec 32) (s : State) : State :=
  let n := value.toNat % 4096
  if fn ≠ 0 ∧ s.bobbin.vfEnable then refuseWrite s
  else if s.harbour.sealed || n = 0 || 2048 < msixSum s - msixCount s fn + n then s
  else { s with bobbin := { s.bobbin with msixAlloc := NMap.set s.bobbin.msixAlloc fn n } }

def execMsixAllocWrite (fn : Nat) (value : BitVec 32) (s : State) : Host.Outcome State Fault Refusal := run (writeMsixAlloc fn value) s

/-- ALERT_CLEAR: each 1 clears its bit (R6, R783). -/
def clearAlerts (value : BitVec 32) (s : State) : State :=
  { s with thermal := { s.thermal with warn := s.thermal.warn && !value.getLsbD 0, throttle := s.thermal.throttle && !value.getLsbD 1 } }

def execAlertClear (value : BitVec 32) (s : State) : Host.Outcome State Fault Refusal := run (clearAlerts value) s

/-- ALERT_N is driven low: an alert bit is set, or the root is stopped (R783). -/
def alertLow (s : State) : Bool := s.thermal.warn || s.thermal.throttle || s.pool.rootAlert

/-! ## Clock domains (R749–R751, R831) -/

/-- A bit of a domain register set or cleared. -/
def putBit (x : BitVec 100) (d : Nat) (b : Bool) : BitVec 100 :=
  if b then x ||| (1 <<< d : BitVec 100) else x &&& ~~~(1 <<< d : BitVec 100)

/-- The unit of R767 that a domain clocks: its class and number. -/
def domainUnit (d : Nat) : Option (Nat × Nat) :=
  if 2 ≤ d ∧ d < 26 then some (1, d - 2)
  else if 26 ≤ d ∧ d < 50 then some (1, d - 26)
  else if d = 50 ∨ d = 51 then some (2, d - 50)
  else if 70 ≤ d ∧ d < 78 then some (4, d - 70)
  else if 78 ≤ d ∧ d < 94 then some (5, d - 78)
  else none

/-- A domain's source changes now. -/
def flipDomain (d : Nat) (s : State) : State :=
  { s with clocks := { s.clocks with domSel := putBit s.clocks.domSel d (!s.clocks.domSel.getLsbD d)
                                     domPending := putBit s.clocks.domPending d false } }

/-- A write of CLK_DOM_CTRL. A change of sel is a switch: forced, which resets the domain's unit; glitch-free, which waits; or kept
for the start of a domain that has not been started. -/
def writeDomain (d : Nat) (value : BitVec 32) (s : State) : State :=
  if s.harbour.sealed || 100 ≤ d then s
  else
    let force := value.getLsbD 1
    let change := value.getLsbD 0 != s.clocks.domSel.getLsbD d
    let s := { s with clocks := { s.clocks with domForce := putBit s.clocks.domForce d force } }
    if s.clocks.domReset.getLsbD d then { s with clocks := { s.clocks with domAsked := putBit s.clocks.domAsked d change } }
    else if !change then { s with clocks := { s.clocks with domPending := putBit s.clocks.domPending d false } }
    else if force then
      let s := flipDomain d s
      match domainUnit d with
      | some (cls, n) => settlePlans (resetUnit true cls n s)
      | none => s
    else { s with clocks := { s.clocks with domPending := putBit s.clocks.domPending d true } }

/-- A write that changes sel. -/
def execDomainSelectWrite (dom : Nat) (value : BitVec 32) (s : State) : Host.Outcome State Fault Refusal := run (writeDomain dom value) s

/-- A glitch-free switch completes: of the reference, or of a domain. It needs both clocks (R749). -/
def execClockSwitchDone (dom : Option Nat) (s : State) : Host.Outcome State Fault Refusal :=
  run (fun s =>
    match dom with
    | none =>
      if s.clocks.switchPending && refAlive s && otherAlive s then
        { s with clocks := { s.clocks with refIsLane := !s.clocks.refIsLane, switchPending := false } }
      else s
    | some d =>
      if s.clocks.domPending.getLsbD d && s.clocks.oscAlive && s.clocks.rootAlive then flipDomain d s else s) s

/-! ## Flash format (R303, R808, R809) -/

/-- Whether a format may run: before the seal, with no flash-resident page, and on two channels or more. -/
def mayFormat (s : State) : Bool :=
  !s.harbour.sealed && !s.store.pages.any (fun p => inTier .flash p.1 || p.2.move.any (fun m => inTier .flash (m.dest / pageSize))) &&
    2 ≤ (s.flash.chans.filter (·.2.present)).length

/-- A write of REF_FLASH_CFG: op_select by its access code, then format. During the format the flash data area has length zero. DESIGN CHOICE (log 57). -/
def writeFlashCfg (value : BitVec 32) (s : State) : State :=
  let op := value.toNat % 4
  let s := if s.harbour.sealed || 2 ≤ op then s else { s with flash := { s.flash with opSelect := op } }
  if !value.getLsbD 2 then s
  else if !mayFormat s then refuseWrite s
  else
    { s with
      flash := { s.flash with formatted := false, formatting := true, opApplied := s.flash.opSelect }
      store := { s.store with
        cells := s.store.cells.filter (fun c => c.1 < flashBase)
        poison := s.store.poison.filter (· < flashBase), lost := s.store.lost.filter (· < flashBase) } }

def execFlashFormat (value : BitVec 32) (s : State) : Host.Outcome State Fault Refusal :=
  run (fun s => if value.getLsbD 2 then writeFlashCfg value s else s) s

/-- Raw capacity of the present channels. -/
def rawGib (s : State) : Nat := ((s.flash.chans.filter (·.2.present)).map (fun c => c.2.capacity)).sum

/-- The channels with fresh spare blocks, whose number no rule gives: free values (log 4). DESIGN CHOICE (log 57). -/
def freshSpares (s : State) : State :=
  { s with
    flash := { s.flash with chans := s.flash.chans.map (fun c =>
      (c.1, { c.2 with spare := (Config.freeWord (s.free + c.1)).toNat, retired := 0, wearLow := false, full := false })) }
    free := s.free + 16 }

/-- The format ends: the data area takes its formatted length. -/
def execFlashFormatDone (s : State) : Host.Outcome State Fault Refusal :=
  run (fun s =>
    if !s.flash.formatting then s
    else freshSpares { s with flash := { s.flash with formatting := false, formatted := true, rawGib := rawGib s } }) s

/-! ## Ports in step 11 (R758, R803) -/

/-- Domains started: out of reset, with the switches that were asked for before (R831). -/
def startDomains (l : List Nat) (s : State) : State :=
  l.foldl (fun s d =>
    let s := if s.clocks.domAsked.getLsbD d then flipDomain d s else s
    { s with clocks := { s.clocks with domReset := putBit s.clocks.domReset d false, domAsked := putBit s.clocks.domAsked d false } }) s

/-- The next group of step 11 starts: the lowest-numbered enabled ports that have not started. -/
def startGroup (s : State) : State :=
  let l := (portsWaiting s).take s.clocks.perStep
  let s := l.foldl (fun s n => startDomains [2 + n, 26 + n] (startPort n s)) s
  let n := (s.links.ports.filter (fun p => p.1 < 24 && p.2.started)).length
  settleSteps { s with clocks := { s.clocks with portsStarted := n } }

/-- A write of PWR_STAGGER_CTRL (R12, R803): step 11 starts at the first ports_go, once step 10 is done. -/
def writeStagger (value : BitVec 32) (s : State) : State :=
  let v := value.toNat
  let go := value.getLsbD 0
  if s.harbour.sealed then (if go then refuseWrite s else s)
  else
    let c := s.clocks
    let per := bits v 1 3
    let us := bits v 8 14
    let s := { s with clocks := { c with perStep := if 1 ≤ per ∧ per ≤ 4 then per else c.perStep
                                         stepUs := if 1000 ≤ us ∧ us ≤ 10000 then us else c.stepUs } }
    if !go || s.clocks.portsGo then s
    else
      let s := { s with clocks := { s.clocks with portsGo := true } }
      if 10 ≤ s.clocks.stepDone then startGroup s else s

def execPortsGo (value : BitVec 32) (s : State) : Host.Outcome State Fault Refusal :=
  run (fun s => if value.getLsbD 0 then writeStagger value s else s) s

/-! ## The firmware mailbox (R799) -/

/-- An image is refused: its cause is recorded, and the ROM keeps waiting. -/
def refuseImage (cause : Nat) (s : State) : State :=
  { s with harbour := { s.harbour with boot := 4, bootCause := cause, bootRefusals := satInc s.harbour.bootRefusals 255, verified := false } }

/-- HBR_FW_GO starts the fetch. A misaligned address or length, and a function that may not use the bus, end the attempt before any
read (log 44). -/
def fwGo (value : BitVec 32) (s : State) : State :=
  let h := s.harbour
  if !value.getLsbD 0 || !(h.boot == 0 || h.boot == 4) then s
  else if h.fwAddr.toNat % 64 ≠ 0 || h.fwLen.toNat % 64 ≠ 0 || !(NMap.get? s.bobbin.fns 0).any (·.bme) then refuseImage 6 s
  else emit (.hostRead 0 h.fwAddr h.fwLen.toNat) { s with harbour := { h with boot := 1 } }

def execFwGo (value : BitVec 32) (s : State) : Host.Outcome State Fault Refusal := run (fwGo value) s

/-! ## Every other register -/

/-- A field written, or kept where the value is a reserved encoding (R12). -/
def keep (ok : Bool) (new old : Nat) : Nat := if ok then new else old

/-- A word of the ring setup registers of a function (R325, R326): ignored while a command runs. A create with a nonzero sq_id,
which must be zero, ends with ST_BAD_DESCRIPTOR (DEDUCED, log 48). -/
def writeRing (fn o v : Nat) (s : State) : State :=
  match NMap.get? s.bobbin.fns fn with
  | none => s
  | some f =>
    if f.busy || !setupActs s fn then s
    else if o < 0x40 then updFn fn (fun f => { f with ringRec := setWord f.ringRec (o / 4) v }) s
    else if o = 0x40 then
      if bits v 0 4 = 1 then (if bits v 16 12 = 0 then setupCreate fn s else fnResult fn stBadDescriptor s)
      else if bits v 0 4 = 2 then setupDestroy fn (bits v 16 12) s
      else s
    else s

/-- A word of a function's MSI-X table: a vector unmasked sends what is pending (R356). -/
def writeMsix (fn o v : Nat) (s : State) : State :=
  let vec := o / 16
  let set := fun (f : Msix → Msix) => updFn fn (fun x => { x with msix := NMap.set x.msix vec (f (getMsix s fn vec)) }) s
  if !(NMap.get? s.bobbin.fns fn).any (fun f => vec < f.vectors) then s
  else if o % 16 / 4 = 0 then set (fun m => { m with addr := BitVec.ofNat 64 (setWord m.addr.toNat 0 v) })
  else if o % 16 / 4 = 1 then set (fun m => { m with addr := BitVec.ofNat 64 (setWord m.addr.toNat 1 v) })
  else if o % 16 / 4 = 2 then set (fun m => { m with data := BitVec.ofNat 32 v })
  else if bit v 0 then set (fun m => { m with masked := true })
  else unmaskVector fn vec s

def writeTide (o v : Nat) (s : State) : State :=
  let t := s.tide
  let pct := fun (n : Nat) => decide (n ≤ 100)
  let pair := fun (low target lowOld targetOld : Nat) =>
    let low := keep (pct low) low lowOld
    let target := keep (pct target) target targetOld
    if low ≤ target then (low, target) else (lowOld, targetOld)
  let t' :=
    if o = 0x100 then { t with enable := bit v 0, target := keep (bits v 1 2 ≤ 1) (bits v 1 2) t.target }
    else if o = 0x104 then
      { t with epochMs := keep (decide (10 ≤ bits v 0 16) && decide (bits v 0 16 ≤ 10000)) (bits v 0 16) t.epochMs, warmupEpochs := bits v 16 8 }
    else if o = 0x108 then { t with hbmThreshold := bits v 0 16, seed := bits v 16 16 }
    else if o = 0x10C then { t with ddrThreshold := bits v 0 16, flashIdle := keep (bits v 16 8 != 0) (bits v 16 8) t.flashIdle }
    else if o = 0x110 then
      let h := pair (bits v 0 8) (bits v 8 8) t.hbmLow t.hbmTarget
      let d := pair (bits v 16 8) (bits v 24 8) t.ddrLow t.ddrTarget
      { t with hbmLow := h.1, hbmTarget := h.2, ddrLow := d.1, ddrTarget := d.2 }
    else if o = 0x114 then { t with maxMoves := bits v 0 16, maxDemotes := bits v 16 16 }
    else t
  { s with tide := t' }

def writeMem (o v : Nat) (s : State) : State :=
  if o = 0x04 then
    { s with store := { s.store with speedCap := keep (decide (1 ≤ bits v 0 3) && decide (bits v 0 3 ≤ 4)) (bits v 0 3) s.store.speedCap } }
  else if 0x100 ≤ o ∧ o ≤ 0x114 then writeTide o v s
  else if o = 0x200 then
    { s with emb := { s.emb with
        holdEpochs := bits v 0 8
        rateGbps := keep (decide (1 ≤ bits v 8 8) && decide (bits v 8 8 ≤ 100)) (bits v 8 8) s.emb.rateGbps } }
  else if o = 0x300 then
    { s with store := { s.store with
        dramHours := keep (decide (1 ≤ bits v 0 8) && decide (bits v 0 8 ≤ 168)) (bits v 0 8) s.store.dramHours
        flashDays := keep (decide (1 ≤ bits v 8 8) && decide (bits v 8 8 ≤ 30)) (bits v 8 8) s.store.flashDays } }
  else s

def writeTrd (o v : Nat) (s : State) : State :=
  let t := s.treadle
  let input := fun (n : Nat) => decide (n < 26)
  let t' :=
    if o = 0x00 then
      { t with period := keep (bits v 0 3 ≤ 4) (bits v 0 3) t.period, root := bit v 3
               primary := keep (input (bits v 8 5)) (bits v 8 5) t.primary
               alternate := keep (input (bits v 16 5) || bits v 16 5 == 31) (bits v 16 5) t.alternate }
    else if o = 0x08 then
      let bg := keep (40 ≤ bits v 0 10) (bits v 0 10) t.bg
      if bg + bits v 16 10 ≤ 500 then { t with bg := bg, us := bits v 16 10 } else t
    else if o = 0x0C then { t with prepare := keep (bits v 0 16 != 0) (bits v 0 16) t.prepare }
    else t
  { s with treadle := t' }

/-- Whether a key count and a threshold are a permitted pair (SEC_MGR_CTRL). -/
def quorumOk (count threshold : Nat) : Bool :=
  (count == 0 && threshold == 0) || (count != 0 && count / 2 + 1 ≤ threshold && threshold ≤ count)

def writeSec (o v : Nat) (s : State) : State :=
  if o = 0 then
    let n := keep (bits v 0 5 ≤ 16) (bits v 0 5) s.trust.keyCount
    if quorumOk n (bits v 8 5) then { s with trust := { s.trust with keyCount := n, threshold := bits v 8 5 } } else s
  else if 0x400 ≤ o ∧ o < 0x800 then
    let n := (o - 0x400) / 64
    let key := setWord (NMap.getD s.trust.mgrKeys n 0) (o % 64 / 4) v
    { s with trust := { s.trust with mgrKeys := if key = 0 then NMap.del s.trust.mgrKeys n else NMap.set s.trust.mgrKeys n key } }
  else s

def writeCsw (o v : Nat) (s : State) : State :=
  if o = 0x20000 then { s with twin := { s.twin with hbMiss := keep (2 ≤ bits v 0 4) (bits v 0 4) s.twin.hbMiss } }
  else if o = 0x20004 then
    let p := keep (decide (50 ≤ bits v 0 16) && decide (bits v 0 16 ≤ 10000)) (bits v 0 16) s.twin.probeUs
    if p + 100 ≤ bits v 16 16 then { s with twin := { s.twin with probeUs := p, takeoverUs := bits v 16 16 } } else s
  else s

def writeStr (o v : Nat) (s : State) : State :=
  let r := o % 0x10000
  if o < 0x180000 then
    if r = 0 then writePortCtrl (o / 0x10000) (BitVec.ofNat 32 v) s
    else if 0x4000 ≤ r ∧ r < 0x8000 then writeBindWord (o / 0x10000) ((r - 0x4000) / 8) (r % 8 / 4) v s
    else s
  else if o = 0x180000 then
    { s with links := { s.links with
        reqTimeout := keep (decide (20 ≤ bits v 0 16) && decide (bits v 0 16 ≤ 10000)) (bits v 0 16) s.links.reqTimeout } }
  else if 0x190000 ≤ o ∧ o < 0x198000 then
    updRoute ((o - 0x190000) / 8) (fun x => wordRoute (setWord (routeWord x) (o % 8 / 4) v)) s
  else s

def writePwr (o v : Nat) (s : State) : State :=
  if o ≠ 0 then s
  else
    let c := s.clocks
    let mv := fun (n : Nat) => decide (650 ≤ n) && decide (n ≤ 850)
    let f := keep (mv (bits v 10 10)) (bits v 10 10) c.floor
    let t := keep (mv (bits v 20 10)) (bits v 20 10) c.ceiling
    if f ≤ t then { s with clocks := { c with floor := f, ceiling := t } } else s

/-- The RWL registers that no row of their own names; the seal locks them (R6). -/
def writeLocked (off v : Nat) (s : State) : State :=
  let o := off % 0x100000
  if s.harbour.sealed then s
  else
    match off / 0x100000 with
    | 0x0 =>
      if o = 0x40 ∨ o = 0x44 then
        { s with harbour := { s.harbour with cfgAddr := BitVec.ofNat 64 (setWord s.harbour.cfgAddr.toNat ((o - 0x40) / 4) v) } }
      else s
    | 0x2 => writePwr o v s
    | 0x3 =>
      if 0x1000 ≤ o ∧ o < 0x1400 ∧ bits v 0 12 ≤ 2000 then
        { s with bobbin := { s.bobbin with pollGroups := NMap.set s.bobbin.pollGroups ((o - 0x1000) / 4) (bits v 0 12) } }
      else s
    | 0x4 =>
      if o = 8 then
        { s with lagoon := { s.lagoon with handoffMs := keep (bits v 0 16 != 0) (bits v 0 16) s.lagoon.handoffMs
                                           orphanS := keep (bits v 16 16 != 0) (bits v 16 16) s.lagoon.orphanS } }
      else s
    | 0x5 =>
      if o = 0 then
        { s with trans := { s.trans with
            drainBound := keep (decide (10 ≤ bits v 0 16) && decide (bits v 0 16 ≤ 1000)) (bits v 0 16) s.trans.drainBound } }
      else if o = 8 then
        { s with trans := { s.trans with
            grace := keep (decide (1 ≤ bits v 0 16) && decide (bits v 0 16 ≤ 1000)) (bits v 0 16) s.trans.grace } }
      else s
    | 0x7 => writeTrd o v s
    | 0x8 => writeStr o v s
    | 0x9 => writeStr (0x100000 + o) v s
    | 0xA => writeCsw o v s
    | 0xB => writeMem o v s
    | 0xE => writeSec o v s
    | _ => s

/-- The firmware mailbox registers, until an image runs (R799). -/
def writeMailbox (o v : Nat) (s : State) : State :=
  let h := s.harbour
  if h.boot = 3 then s
  else if o = 0x20 ∨ o = 0x24 then { s with harbour := { h with fwAddr := BitVec.ofNat 64 (setWord h.fwAddr.toNat ((o - 0x20) / 4) v) } }
  else if o = 0x28 then { s with harbour := { h with fwLen := BitVec.ofNat 32 v } }
  else s

/-- A 4-byte write of PF0 BAR0 by the map (R6, R795–R797): each register by its access code. A register with a row of its own acts as
that row; HBR_CFG_GO's read belongs to its row alone, and here only its refusal after the seal is seen. -/
def writeReg (off v : Nat) (s : State) : State :=
  let o := off % 0x100000
  let w := BitVec.ofNat 32 v
  if off = 0x4 then writeSeal w s
  else if off = 0x2C then fwGo w s
  else if off = 0x48 then (if w.getLsbD 0 && s.harbour.sealed then refuseWrite s else s)
  else if off < 0x30 then writeMailbox off v s
  else if off = 0x100000 then writeSrcCtrl w s
  else if 0x100100 ≤ off ∧ off < 0x100100 + 400 then writeDomain ((off - 0x100100) / 4) w s
  else if off = 0x200004 then writeStagger w s
  else if 0x300000 ≤ off ∧ off < 0x30004C then writeRing 0 o v s
  else if 0x302000 ≤ off ∧ off < 0x302400 then writeMsixAlloc ((off - 0x302000) / 4) w s
  else if 0x310000 ≤ off ∧ off < 0x318000 then writeMsix 0 (off - 0x310000) v s
  else if 0x400100 ≤ off ∧ off < 0x400100 + 1020 then writeVfBind ((off - 0x400100) / 4 + 1) w s
  else if off = 0x600000 then writeHedMode w s
  else if off = 0xA00000 then writePortCtrl 24 w s
  else if off = 0xA10000 then writePortCtrl 25 w s
  else if off = 0xC00000 then writeFlashCfg w s
  else if off = 0xF00000 then clearAlerts w s
  else writeLocked off v s

/-- A 4-byte write of a function's BAR0. -/
def writeBar0 (fn off v : Nat) (s : State) : State :=
  if fn = 0 then writeReg off v s
  else if off < 0x4C then writeRing fn off v s
  else if 0x4000 ≤ off ∧ off < 0xC000 then writeMsix fn (off - 0x4000) v s
  else s

/-- REGISTER_WRITE: an 8-byte write is two 4-byte writes, the lower address first (R795). -/
def execRegisterWrite (fn off size : Nat) (value : BitVec 64) (s : State) : Host.Outcome State Fault Refusal :=
  run (fun s =>
    if !accessOk off size then badAccess fn s
    else
      let s := writeBar0 fn off (word value.toNat 0) s
      if size = 8 then writeBar0 fn (off + 4) (word value.toNat 1) s else s) s

end Sys2Proof.Machine
end

