-- ==== Sys2Proof/Machine/Boot.lean ====
section
/-! DEFINITION. The firmware image and its start, the reset report (chapters 14 and 16), and the PCIe functions' resets (chapter 16,
R764, R765; chapter 18, R804). -/

namespace Sys2Proof.Machine

/-! ## The image (R680–R684, R799) -/

/-- The parts of an image (R681). -/
def imageLen (img : List Byte) : Nat := 128 + field img 12 4 + 64
def imageDigest (img : List Byte) : Nat := sha256Nat (img.take (128 + field img 12 4))
def imageKey (img : List Byte) : List Byte := (img.drop 64).take 64
def imageSig (img : List Byte) : Nat := beVal ((img.drop (128 + field img 12 4)).take 64)

/-- Why an image fails R682, as HBR_BOOT_STATUS codes it; 0 where it passes. -/
def imageFault (img : List Byte) : Nat :=
  if field img 0 4 ≠ 0x4B516412 ∨ field img 4 2 ≠ 1 then 1
  else if 2 ^ 23 < imageLen img ∨ field img 12 4 % 64 ≠ 0 ∨ img.length < imageLen img then 2
  else if sha256Nat (imageKey img) ≠ Config.vendorKeyHash then 3
  else if field img 7 1 < Config.fusedMinSvn then 4
  else if !Config.ecdsaVerify (beVal (imageKey img)) (imageDigest img) (imageSig img) then 5
  else 0

/-- An image passes: it lies in Harbour SRAM and waits for its start. -/
def acceptImage (source : Nat) (img : List Byte) (s : State) : State :=
  { s with harbour := { s.harbour with image := img.take (imageLen img), verified := true, boot := 2, bootSource := source,
                                       parts := [], partsTotal := 0 } }

/-- An image of a source is verified. A Causeway image that fails leaves a fetch from the mailbox under way. DEDUCED (log 51). -/
def verifyFrom (source : Nat) (img : List Byte) (s : State) : State :=
  let f := imageFault img
  if f = 0 then acceptImage source img s
  else
    let was := s.harbour.boot
    let s := refuseImage f { s with harbour := { s.harbour with parts := if source = 1 then [] else s.harbour.parts,
                                                                 partsTotal := if source = 1 then 0 else s.harbour.partsTotal } }
    if source = 1 ∧ was = 1 then { s with harbour := { s.harbour with boot := 1 } } else s

/-- FW_IMAGE_VERIFY: the mailbox's fetch (source 0) has returned `image`, or a Causeway image (source 1) has arrived whole. DEDUCED (log 51). -/
def execFwImageVerify (source : Nat) (image : HostRead) (s : State) : Host.Outcome State Fault Refusal :=
  run (fun s =>
    let h := s.harbour
    if source = 0 then
      if h.boot ≠ 1 then s
      else
        match image with
        | .data bs => if bs.length = h.fwLen.toNat then verifyFrom 0 bs s else s
        | _ => refuseImage 6 s
    else if (h.boot == 0 || h.boot == 1 || h.boot == 4) && h.partsTotal != 0 && h.parts.length == h.partsTotal then verifyFrom 1 h.parts s
    else s) s

/-- The ROM verifies the retained image after a warm reset; one that fails is discarded, and the ROM waits (R684). DEDUCED (log 50). -/
def verifyRetained (s : State) : State :=
  if s.harbour.resetKind ≠ 2 ∨ s.harbour.image = [] then s
  else
    let f := imageFault s.harbour.image
    if f = 0 then acceptImage s.harbour.bootSource s.harbour.image s
    else refuseImage f { s with harbour := { s.harbour with image := [] } }

/-! ## The reset report (R768, R769) -/

/-- One entry of the report. A cold reset reports every entry with state 4. -/
def reportEntry (cold : Bool) (e : JEntry) : List Byte :=
  leBytes e.ty 1 ++ leBytes (if cold then 4 else e.state) 1 ++ leBytes e.isle 2 ++ leBytes e.a 4 ++ leBytes e.b 8 ++ leBytes e.pos 8 ++
    List.replicate 40 0

/-- The cause of the last reset: the root stopped, a trip record, RESET_N or PWRGD. -/
def resetCause (h : Harbour) : Nat :=
  if h.jCause = 4 then 4 else if h.resetKind = 2 then 2 else if h.jCause = 3 then 3 else 1

/-- The 64 KiB window: header, entries, zeros. The crc is made with its field zero. -/
def resetReport (h : Harbour) : List Byte :=
  let l := h.journal.take 1023
  let warm := h.resetKind == 2
  let head := leBytes 1 2 ++ leBytes h.resetKind 1 ++ leBytes (resetCause h) 1 ++ leBytes l.length 2 ++ leBytes h.jPool 2 ++
    leBytes h.jEpoch.toNat 8 ++ leBytes h.jBeat.toNat 6 ++ leBytes warm.toNat 1 ++ List.replicate 37 0
  let entries := l.flatMap (reportEntry (!warm))
  let sum := crc crc32c (head ++ leBytes 0 4 ++ entries)
  head ++ leBytes sum 4 ++ entries ++ List.replicate (65472 - 64 * l.length) 0

/-! ## The start of Harbour firmware (R683, R757, R763, R768, R778, R806, R815) -/

/-- Isle 0's record as firmware sets it up after a cold reset. -/
def isle0Record (h : Harbour) : Isle :=
  { state := .active, timeShared := true, weight := 1024, ringQuota := 4096, transRoot := 0, bar2Base := 0, heddleQuota := 4194304,
    shuttleQuota := 8192, reefQuota := 16384, hbmQuota := 2932736, ddrQuota := 62783488, flashQuota := 3758096384, clusterMask := 0,
    keys := some h.isle0Key }

/-- Set up isle 0, unless a warm reset has kept it. -/
def setUpIsle0 (s : State) : State :=
  if (NMap.get? s.isles 0).isSome then s
  else
    let r := isle0Record s.harbour
    let s := { s with isles := NMap.set s.isles 0 r }
    match newTable 0 s with
    | some (off, s) => { s with isles := NMap.set s.isles 0 { r with transRoot := off } }
    | none => s

/-- What a warm reset rolled back or ended is reported: migrations (R554), and the rings of this device, which are gone (R507). -/
def tellOfReset (s : State) : State :=
  let s := (s.harbour.journal.filter (fun e => e.ty == 3)).foldl (fun s e =>
    raise (event evMigrationRolledBack 0 (e.a % 65536) (e.a / 65536 + e.b % 4096 * 4096) stAbortedReset) s) s
  let mine := ((s.lagoon.seqs.map (fun q => q.2.owner)).filter (fun r => r / 4096 == s.pool.id)).eraseDups
  ringsGone mine s

/-- The step of the staggered power-up that the start of firmware is: step 6, once steps 1 to 5 are done. -/
def settleStart (s : State) : State :=
  if s.harbour.boot = 3 ∧ s.clocks.stepDone = 5 then { s with clocks := { s.clocks with stepDone := 6 } } else s

/-- The journal once it has been reported: a cold reset empties it, a warm reset keeps the watermarks of a resync (R771). -/
def journalAfter (h : Harbour) : List JEntry := if h.resetKind = 2 then h.journal.filter (fun e => e.ty == 1) else []

/-- Harbour firmware starts. -/
def startFirmware (tableBase : Nat) (s : State) : State :=
  let h := s.harbour
  let s := if h.resetKind = 2 then tellOfReset s else s
  let s := { s with harbour :=
    { s.harbour with
      boot := 3, verified := false, measurement := imageDigest h.image, svn := field h.image 7 1, fwMajor := field h.image 6 1,
      compatId := field h.image 8 4, entry := field h.image 16 4, isleTable := tableBase, report := resetReport h
      journal := journalAfter h
      jCause := if h.resetKind = 2 ∧ h.jCause = 3 then 3 else 0 } }
  let s := setUpIsle0 s
  let s := if s.pool.id = 0xFFF then s else { s with pool := { s.pool with enumOut := some true } }
  let s := ((s.links.ports.map (·.1)).filter (portUp s)).foldl (fun s n => sendHello n s) s
  settleStart (startClaim noPort s)

/-- FIRMWARE_START: the verified image starts at its entry; firmware puts the isle record table at `tableBase`. -/
def execFirmwareStart (tableBase : Nat) (s : State) : Host.Outcome State Fault Refusal :=
  run (fun s =>
    if s.harbour.verified && s.harbour.boot == 2 && 1 ≤ s.clocks.stepDone && 0x2FE2600000 ≤ tableBase && tableBase < 0x3000000000 then
      startFirmware tableBase s
    else s) s

/-! ## Functions and their resets (R759, R764, R765, R804) -/

/-- A command leaves flight without a record (R765). -/
def dropSilently (k : CmdKey) (s : State) : State :=
  let s := releaseEngines k (abandon k s)
  let s := ((s.treadle.plans.filter (fun p => p.2.cmd == some k && p.2.state == .preparing)).map (·.1)).foldl (fun s h => stopPlan h 3 s) s
  let s := { s with treadle :=
    { s.treadle with
      admitQueue := s.treadle.admitQueue.filter (· != k)
      plans := s.treadle.plans.map (fun p => (p.1, if p.2.cmd = some k then { p.2 with cmd := none } else p.2)) } }
  let s := match sqOf s k with | some q => giveSlot q.cq s | none => s
  dropCmd k s

/-- Rings are destroyed at once: their commands end without records, and the plans that name them are stopped as by PLAN_STOP. DEDUCED (log 52). -/
def killRings (l : List Nat) (s : State) : State :=
  let s := l.foldl (fun s sq => updSq sq (fun q => { q with destroying := true }) s) s
  let s := l.foldl (fun s sq => ((ringCmds s sq).map (·.key)).foldl (fun s k => dropSilently k s) s) s
  let s := settlePlans (stopPlansOf (fun h p => (planRings h p).any l.contains) s)
  l.foldl (fun s sq => removeRing sq s) s

/-- The host rings of a function. -/
def hostRings (s : State) (fn : Nat) : List Nat := (s.bobbin.sqs.filter (fun q => q.2.fn == fn && q.2.host)).map (·.1)

/-- A function's BAR2 traffic is quiesced: what waits is answered with Unsupported Request or dropped (R765). -/
def quiesceBar2 (fn : Nat) (s : State) : State :=
  let waiting := s.links.parked.filter (fun r => r.origin == .bar2 fn)
  waiting.foldl (fun s r => refuse r stPermission (unpark r.id s)) s

/-- A function's polls end, and its registers and MSI-X state are reset, with a given count of vectors. -/
def resetFn (fn vectors : Nat) (s : State) : State :=
  { s with bobbin :=
    { s.bobbin with
      polls := s.bobbin.polls.filter (·.1 != fn)
      pollQueue := s.bobbin.pollQueue.filter (·.1 != fn)
      fns := NMap.upd s.bobbin.fns fn (fun _ => Fn.reset vectors) } }

/-- Reset a VF: its host rings go; its bound isle stays as it is. -/
def resetVf (fn : Nat) (s : State) : State :=
  match NMap.get? s.bobbin.fns fn with
  | none => s
  | some f => resetFn fn f.vectors (killRings (hostRings s fn) (quiesceBar2 fn s))

/-- Reset PF0: before the seal all its host rings go; after it the management rings are kept, and wait for Bus Master Enable (R764).
PF0's vector count is taken (R804). -/
def resetPf (s : State) : State :=
  let keep := s.harbour.sealed
  let l := (hostRings s 0).filter (fun sq => !(keep && (NMap.get? s.bobbin.sqs sq).any (·.management)))
  let s := killRings l (quiesceBar2 0 s)
  let s := { s with bobbin := { s.bobbin with sqs := s.bobbin.sqs.map (fun q =>
    if q.2.fn = 0 ∧ q.2.host then (q.1, { q.2 with awaitBme := true }) else q) } }
  resetFn 0 (msixCount s 0) s

/-- FLR of one function. DEDUCED (log 52). -/
def execFlr (fn : Nat) (s : State) : Host.Outcome State Fault Refusal :=
  run (fun s => pumpAll (if fn = 0 then resetPf s else resetVf fn s)) s

/-- The VFs that exist. -/
def vfs (s : State) : List Nat := (s.bobbin.fns.map (·.1)).filter (· != 0)

/-- Every VF goes. -/
def removeVfs (s : State) : State :=
  let s := (vfs s).foldl (fun s f => resetVf f s) s
  { s with bobbin := { s.bobbin with fns := s.bobbin.fns.filter (fun f => f.1 == 0), vfEnable := false } }

/-- PERST#: the link, PF0 and every VF are reset; the seal and the VF bindings stay. -/
def execPerst (s : State) : Host.Outcome State Fault Refusal :=
  run (fun s => pumpAll (resetPf (removeVfs s))) s

/-- VF Enable changes: set, every VF comes with the vectors that its count gives now (R804); cleared, every VF goes. -/
def execVfEnableChange (enable : Bool) (s : State) : Host.Outcome State Fault Refusal :=
  run (fun s =>
    if enable == s.bobbin.vfEnable then s
    else if enable then
      let new := (List.range 255).map (fun i => (i + 1, Fn.reset (msixCount s (i + 1))))
      { s with bobbin := { s.bobbin with vfEnable := true, fns := s.bobbin.fns.filter (fun f => f.1 == 0) ++ new } }
    else pumpAll (removeVfs s)) s

end Sys2Proof.Machine
end

