-- ==== Sys2Proof/Machine/Smbus.lean ====
section
/-! DEFINITION. The enumeration chain and the SMBus commands of the shelf controller (chapter 17, R778, R779; chapter 18, R813). -/

namespace Sys2Proof.Machine

/-- The device holds the enumeration token (R778). -/
def holdsToken (s : State) : Bool := s.pool.enumIn && s.pool.enumOut == some false

/-- The device answers at an address: at 0x2C while it holds the token without a pool id, and once committed only at its own. -/
def smbAnswers (s : State) (addr : Nat) : Bool :=
  1 ≤ s.clocks.stepDone &&
    (if s.pool.committed then s.pool.smbAddr == some addr else addr == 0x2C && holdsToken s && s.pool.id == 0xFFF)

/-- One transaction: where the device is addressed, its answer, or a NACK where the packet error code or the command's condition fails.
-/
def smbRun (b : Smb) (ok : State → Bool) (answer : State → List Byte) (act : State → State) (s : State) : State :=
  if !smbAnswers s b.addr then s
  else if b.pecOk && ok s then emit (.smbus (some (answer s))) (act s)
  else emit (.smbus none) s

/-- No data is read by a write or a send. -/
def noAnswer (_ : State) : List Byte := []

def execReadId (b : Smb) (s : State) : Host.Outcome State Fault Refusal :=
  run (smbRun b (fun _ => true) (fun _ => leBytes hbrId 4) id) s

/-- SET_POOL_ID; bits [15:12] of the word are not looked at (log 46). -/
def execSetPoolId (b : Smb) (value : BitVec 16) (s : State) : Host.Outcome State Fault Refusal :=
  run (smbRun b (fun s => holdsToken s && s.pool.id == 0xFFF && value.toNat % 4096 != 0xFFF) noAnswer
    (fun s => { s with pool := { s.pool with smbPool := some (value.toNat % 4096) } })) s

def execSetAddr (b : Smb) (value : BitVec 8) (s : State) : Host.Outcome State Fault Refusal :=
  run (smbRun b (fun s => holdsToken s && s.pool.id == 0xFFF && 0x08 ≤ value.toNat && value.toNat ≤ 0x77 && value.toNat != 0x2C) noAnswer
    (fun s => { s with pool := { s.pool with smbAddr := some value.toNat } })) s

/-- COMMIT takes the pool id and the address, passes the token on and starts the claim. -/
def execCommit (b : Smb) (s : State) : Host.Outcome State Fault Refusal :=
  run (smbRun b (fun s => s.pool.smbPool.isSome && s.pool.smbAddr.isSome) noAnswer
    (fun s => startClaim noPort { s with pool := { s.pool with id := s.pool.smbPool.getD 0xFFF, committed := true, enumOut := some true } })) s

/-- The 8 bytes of READ_STATUS. -/
def smbStatus (s : State) : List Byte :=
  leBytes (readReg s 0x10) 2 ++ leBytes (twinCode s.twin.state) 1 ++ leBytes s.harbour.boot 1 ++
    leBytes (signed s.thermal.tj.tenths 16) 2 ++ leBytes (s.thermal.warn.toNat + 2 * s.thermal.throttle.toNat) 1 ++ leBytes 0 1

def execReadStatus (b : Smb) (s : State) : Host.Outcome State Fault Refusal :=
  run (smbRun b (fun s => s.pool.committed) smbStatus id) s

/-- ENUM_IN has stayed high for 1 ms: the device takes it as high (R779). -/
def execEnumTokenReceived (s : State) : Host.Outcome State Fault Refusal :=
  runAlways (fun s => if s.pool.pwrgd then { s with pool := { s.pool with enumIn := true } } else s) s

/-- ENUM_IN is low. -/
def execEnumInLow (s : State) : Host.Outcome State Fault Refusal :=
  runAlways (fun s => { s with pool := { s.pool with enumIn := false } }) s

end Sys2Proof.Machine
end

