-- ==== Sys2Proof/Machine/Thermal.lean ====
section
/-! DEFINITION. Temperature and the supply setpoint (chapter 17, R790–R793; chapter 16, R755). -/

namespace Sys2Proof.Machine

/-- Whether an action that a threshold starts is in force after a reading, in units of 0.1 °C: it starts above `start`, or at it where
`at` is set, and ends 5 °C below. -/
def hold (was : Bool) (atIt : Bool) (start : Int) (t : Int) : Bool :=
  if was then decide (start - 50 < t) else if atIt then decide (start ≤ t) else decide (start < t)

/-- A thermal event of a die (R793). -/
def thermalEvent (code : Nat) (r : TempReading) (count1 : Nat) (s : State) : State :=
  raise (event code r.die 0 (r.tenths % 2 ^ 32).toNat count1) s

/-- A warning starts: every STARTED plan is paused with reason 2, and the event counts them. -/
def startWarning (r : TempReading) (s : State) : State :=
  let l := (s.treadle.plans.filter (fun p => p.2.state == .started)).map (·.1)
  let s := l.foldl (fun s h => pausePlan reDeadline s.pool.id h s) s
  let s := thermalEvent evThermalWarn r l.length s
  { s with thermal := { s.thermal with warn := true } }

/-- The throttle starts: no new Shuttle, Reef or DMA work is dispatched (`runnable`). -/
def startThrottle (r : TempReading) (s : State) : State :=
  let s := thermalEvent evThermalThrottle r 0 s
  { s with thermal := { s.thermal with throttle := true } }

/-- The highest readings of the dies and of the stacks, sampled each ms. DEDUCED (log 54). -/
def execThermalSample (tj hbm : TempReading) (s : State) : Host.Outcome State Fault Refusal :=
  run (fun s =>
    let t := s.thermal
    let wTj := hold t.warnTj false 1050 tj.tenths
    let wHbm := hold t.warnHbm false 950 hbm.tenths
    let th := hold t.throttled true 1150 tj.tenths
    let s := { s with thermal := { t with tj := tj, hbm := hbm, warnTj := wTj, warnHbm := wHbm, throttled := th
                                          refresh2x := hold t.refresh2x false 850 hbm.tenths } }
    let s := if !(t.warnTj || t.warnHbm) && (wTj || wHbm) then startWarning (if wTj then tj else hbm) s else s
    if !t.throttled && th then startThrottle tj s else s) s

/-- The comparator trips, in reset as well as in operation: THERMTRIP_N is latched low until PWRGD falls, dispatch stops, and every
transmitter is idle. Running firmware writes the trip record (R791, R792). DEDUCED (log 54). -/
def execThermalTrip (s : State) : Host.Outcome State Fault Refusal :=
  runAlways (fun s =>
    if !s.pool.pwrgd || s.pool.tripped then s
    else
      { s with
        pool := { s.pool with tripped := true }
        harbour := if s.harbour.boot = 3 ∧ awake s = true then { s.harbour with jCause := 3 } else s.harbour
        links := { s.links with ports := s.links.ports.map (fun p => (p.1, { p.2 with txIdle := true, state := 0 })) } }) s

/-- The least VDD_LOOM setpoint in mV that firmware may choose now (R374, R755). -/
def vloomLow (s : State) : Nat :=
  if s.treadle.plans.any (fun p => p.2.state == .started) then max s.clocks.floor 735 else s.clocks.floor

/-- Harbour firmware moves the setpoint in steps of 5 mV; a value that R755 forbids is not set. -/
def execVloomAdjust (mv : Nat) (s : State) : Host.Outcome State Fault Refusal :=
  run (fun s =>
    let c := s.clocks
    let far := if c.vloom ≤ mv then mv - c.vloom else c.vloom - mv
    if s.harbour.boot = 3 ∧ vloomLow s ≤ mv ∧ mv ≤ c.ceiling ∧ far % 5 = 0 then { s with clocks := { c with vloom := mv } } else s) s

end Sys2Proof.Machine
end

