-- ==== Sys2Proof/Machine/Power.lean ====
section
/-! DEFINITION. Power, the cold and the warm reset, and the staggered power-up (chapter 16, R753–R763, R768, R769). -/

namespace Sys2Proof.Machine

/-! ## The flash journal (R768, R769) -/

/-- Journal entries of the merges that hold a snapshot: their graphs are built, so they stand in pass D. -/
def journalMerges (s : State) : List JEntry :=
  (s.atolls.shards.filter (fun x => x.1 < twinIsle * 65536)).filterMap (fun x => x.2.merge.map (fun m =>
    { ty := 2, state := 1, isle := x.1 / 65536, a := x.1 % 65536, b := m.sideTail + m.tombTail * 2 ^ 32, pos := m.checkpoint }))

/-- The isle of a table. -/
def tableIsle (s : State) (tid : Nat) : Nat := match table? s tid with | some t => t.isle | none => 0

/-- The entry of a migration, which a reset rolls back. -/
def journalFerry (s : State) : List JEntry :=
  match s.emb.migration with
  | some m => [{ ty := 3, state := 2, isle := tableIsle s m.table, a := m.table + m.slot * 65536, b := m.pool, pos := m.cursor }]
  | none => []

/-- Whether the close of a step is committed here: this home has applied it. -/
def closedHere (s : State) (tid : Nat) (step : BitVec 32) : Bool :=
  (NMap.get? s.emb.lastClose tid).any (fun x => x.1 == step) && NMap.get? s.emb.openStep tid == some (step + 1)

/-- The closes that this device, as a home or as the lead, has not ended: table and step, with 1 where they are committed here. DESIGN CHOICE (log 19). -/
def openCloses (s : State) : List (Nat × Nat × Nat) :=
  let homes := (s.emb.closing.filter (· < 65536)).map (fun tid => (tid, (NMap.getD s.emb.openStep tid 0).toNat, 0))
  let leads := (s.bobbin.cmds.filter (fun (c : Cmd) => c.opcode == 0x0102 && c.lead.isNone && c.phase == Phase.running)).map (fun c =>
    (clTable c, (clStep c).toNat, (closedHere s (clTable c) (clStep c)).toNat))
  leads.foldl (fun l x => if l.any (fun y => y.1 == x.1) then l else l ++ [x]) homes

def journalCloses (s : State) : List JEntry :=
  (openCloses s).map (fun x => { ty := 4, state := x.2.2, isle := tableIsle s x.1, a := x.1, b := x.2.1, pos := 0 })

/-- The plans held, which every reset loses. -/
def journalPlans (s : State) : List JEntry :=
  (s.treadle.plans.filter (fun p => p.1 < 2 ^ 32 && p.2.state != .preparing && p.2.state != .tentative)).map (fun p =>
    { ty := 5, state := 3, isle := p.2.isle, a := p.1, b := 0, pos := 0 })

/-- The closes applied here that this reset interrupts: those whose lead's command is this device's own and still in flight, and
those of every other lead (R535; log 43). -/
def interruptAll (s : State) : State :=
  let inFlight := fun (tid : Nat) => s.bobbin.cmds.any (fun (c : Cmd) => c.opcode == 0x0102 && c.lead.isNone && clTable c == tid && c.phase != Phase.ended)
  let own := (interruptCloses (· == s.pool.id) s).emb.interrupted.filter (fun x => s.emb.interrupted.contains x || inFlight x.1)
  interruptCloses (· != s.pool.id) { s with emb := { s.emb with interrupted := own } }

/-- The journal as it stands in flash at a reset: running firmware has kept it up to date, and before that it is as it was. DESIGN CHOICE (log 19). -/
def journaled (s : State) : Harbour :=
  let h := s.harbour
  if h.boot ≠ 3 then h
  else
    { h with
      journal := h.journal.filter (fun e => e.ty == 1) ++ journalMerges s ++ journalFerry s ++ journalCloses s ++ journalPlans s
      jPool := s.pool.id, jEpoch := s.pool.epoch, jBeat := s.treadle.beat }

/-- What flash keeps of Harbour across every reset. -/
def keptJournal (h : Harbour) : Harbour :=
  { Harbour.reset with journal := h.journal, jPool := h.jPool, jEpoch := h.jEpoch, jBeat := h.jBeat, jCause := h.jCause }

/-! ## Power (R754, R759, R778) -/

/-- The state with nothing but the journal, the pins' levels, and the model's own fields. -/
def unpowered (s : State) : State :=
  { State.reset with
    harbour := keptJournal (journaled s)
    pool := { Pool.reset with enumIn := s.pool.enumIn, resetN := s.pool.resetN }
    out := s.out, free := s.free, pending := s.pending }

/-- PWRGD falls: what is not in flash is lost. -/
def execPowerOff (s : State) : Host.Outcome State Fault Refusal :=
  runAlways (fun s => if s.pool.pwrgd then unpowered (interruptAll s) else s) s

/-- PWRGD rises: the whole device is reset; isle 0's key pair is drawn (R308). -/
def execColdReset (keyDraw : Nat) (s : State) : Host.Outcome State Fault Refusal :=
  runAlways (fun s =>
    if s.pool.pwrgd then s
    else
      let s := unpowered s
      { s with
        harbour := { s.harbour with resetKind := 1, isle0Key := keyDraw % 2 ^ 512 }
        pool := { s.pool with pwrgd := true, enumOut := if s.pool.resetN then some false else none } }) s

/-! ## Warm reset (R759–R763) -/

/-- An isle after a warm reset: ACTIVE, or CREATED until its keys were loaded. DEDUCED (log 53). -/
def keptIsle (r : Isle) : Isle :=
  if r.state = .quiescing ∨ r.state = .resetting then { r with state := if r.keys.isSome then .active else .created } else r

/-- The store after a warm reset: contents, poison, pages and regions; the scratchpads and every counter are lost. -/
def keptStore (t : Store) : Store :=
  let out := fun (a : Nat) => a < scratchBase || scratchEnd ≤ a
  { t with
    cells := Memory.clear t.cells scratchBase (scratchEnd - scratchBase), poison := t.poison.filter out, lost := t.lost.filter out
    pages := t.pages.map (fun p => (p.1, { p.2 with counter := 0, idle := 0, move := none }))
    regions := t.regions.map (fun r => (r.1, { r.2 with cursor := none }))
    hbmReady := false, ddrReady := false, speedCap := 4, eccTransient := 0 }

def keptFlash (f : Flash) : Flash :=
  { f with formatting := false, opSelect := 0, readTransient := 0, progTransient := 0, eraseTransient := 0, reads := [] }

def keptTrans (t : Trans) : Trans :=
  { Trans.reset with
    tlb := t.tlb.filter (·.pinned), windows := t.windows.map (fun w => (w.1, { w.2 with leaving := false }))
    drainBound := t.drainBound, grace := t.grace, nextWd := t.nextWd }

/-- The directory is written into the spill area and restored; its agents are declared lost when RESET_N rises (R762). -/
def keptHeddle (h : Heddle) : Heddle :=
  { Heddle.reset with
    dir := h.dir.map (fun e => (e.1, { e.2 with extSharers := false }))
    agents := (h.agents.filter (fun a => a.2.isle < twinIsle)).map (fun a => (a.1, { a.2 with lost := false, cmd := none })) }

def keptTreadle (t : Treadle) : Treadle :=
  { Treadle.reset with period := t.period, bg := t.bg, us := t.us, prepare := t.prepare, nextPlan := t.nextPlan }

def keptLinks (l : Links) : Links :=
  { Links.reset with binds := l.binds, vfBinds := l.vfBinds, reqTimeout := l.reqTimeout, nextId := l.nextId }

def keptTwin (t : Twin) : Twin :=
  { Twin.reset with
    hbMiss := t.hbMiss, probeUs := t.probeUs, takeoverUs := t.takeoverUs, nextItem := t.nextItem
    mirror := { Mirror.empty with marks := t.mirror.marks } }

/-- Sequences with the fills of their last append (R462); rings are gone, and their homes are still to be told. -/
def keptLagoon (l : Lagoon) : Lagoon :=
  let own := fun (pk : Nat) => pk / 2 ^ 39 < twinIsle
  let gone := (l.ringHomes.filter (fun x => x.1 < 4096)).foldl (fun m x =>
    NMap.set m (16384 + x.1) (x.2.foldl (fun a p => insertNat p a) (NMap.getD m (16384 + x.1) []))) (l.ringHomes.filter (fun x => 16384 ≤ x.1))
  { l with
    seqs := (l.seqs.filter (fun q => q.1 < 65536)).map (fun q => (q.1, { q.2 with mutating := [] }))
    gens := l.gens.filter (fun g => g.1 < 65536), pages := l.pages.filter (fun p => own p.2.2.2)
    mapPages := l.mapPages.filter (fun p => own p.2), ringHomes := gone }

/-- Staged updates and open steps; reservations, the migration and forwarded slots are gone. -/
def keptEmb (e : Emb) : Emb :=
  { Emb.reset with
    openStep := e.openStep.filter (fun x => x.1 < 65536), shares := e.shares.filter (fun x => x.staged && x.table < 65536)
    staged := e.staged.filter (fun x => x.table < 65536), lastClose := e.lastClose.filter (fun x => x.1 < 65536)
    interrupted := e.interrupted.filter (fun x => x.1 < 65536), dropped := e.dropped.filter (fun x => x.1 < twinIsle)
    counters := e.counters.filter (fun x => x.1 < 65536 * 4096), holdEpochs := e.holdEpochs, rateGbps := e.rateGbps }

/-- Shards with their state lines; the navigation caches are empty, and a merge keeps its snapshot and its written segments (R576,
R577, R609). -/
def keptAtolls (a : Atolls) : Atolls :=
  { shards := (a.shards.filter (fun x => x.1 < twinIsle * 65536)).map (fun x =>
      (x.1, { x.2 with nav := [], oldSlots := [], merge := x.2.merge.map (fun m => { m with cmd := none }) }))
    threads := [] }

/-- Reset entry: the line caches are written back, and the commands in flight give back what they hold. -/
def resetEntry (s : State) : State :=
  let s := s.heddle.caches.foldl dropCached s
  dropMirror ((s.bobbin.cmds.map (·.key)).foldl (fun s k => abandon k s) s)

/-- The device at the falling edge of RESET_N: transmitters idle, outputs released, and what a warm reset keeps. Timeouts, holds,
periods and shares keep what software programmed (R5); every other register returns to its reset value (log 47). -/
def warmReset (s0 : State) : State :=
  let s0 := interruptAll s0
  let h := journaled s0
  let s := resetEntry s0
  { State.reset with
    harbour := { keptJournal h with image := h.image, bootSource := h.bootSource, isle0Key := h.isle0Key, resetKind := 2, inEntry := true }
    pool := { Pool.reset with
      id := s.pool.id, epoch := s.pool.epoch, smbPool := s.pool.smbPool, smbAddr := s.pool.smbAddr, committed := s.pool.committed
      enumIn := s.pool.enumIn, tripped := s.pool.tripped, pwrgd := true, resetN := false }
    clocks := { Clocks.reset with stepUs := s.clocks.stepUs }
    store := keptStore s.store, flash := keptFlash s.flash
    tide := { Tide.reset with epochMs := s.tide.epochMs, warmupEpochs := s.tide.warmupEpochs }
    isles := s.isles.map (fun x => (x.1, keptIsle x.2))
    trans := keptTrans s.trans, heddle := keptHeddle s.heddle
    bobbin := { Bobbin.reset with pollGroups := s.bobbin.pollGroups }
    treadle := keptTreadle s.treadle, links := keptLinks s.links, twin := keptTwin s.twin
    maps := { cur := s.maps.cur, prev := none, grace := false }
    lagoon := keptLagoon s.lagoon, emb := keptEmb s.emb, atolls := keptAtolls s.atolls
    out := s0.out, free := s.free, pending := s0.pending }

/-- RESET_N falls. While an earlier reset entry still runs after a short rise, the rise is undone. -/
def execWarmReset (s : State) : Host.Outcome State Fault Refusal :=
  runAlways (fun s =>
    if !s.pool.pwrgd then s
    else if s.harbour.inEntry then { s with harbour := { s.harbour with entryRise := false } }
    else if !s.pool.resetN then s
    else warmReset s) s

/-- A rise of RESET_N takes effect: ENUM_OUT is driven low, and every external agent is declared lost (R762, R778). -/
def resetRise (s : State) : State :=
  let s := { s with pool := { s.pool with resetN := true, enumOut := some false }
                    harbour := { s.harbour with inEntry := false, entryRise := false } }
  (s.heddle.agents.map (·.1)).foldl (fun s i => loseAgent none s i) s

/-- RESET_N rises; before reset entry ends, the rise waits (R761). -/
def execResetNRise (s : State) : Host.Outcome State Fault Refusal :=
  runAlways (fun s =>
    if !s.pool.pwrgd || s.pool.resetN then s
    else if s.harbour.inEntry then { s with harbour := { s.harbour with entryRise := true } }
    else resetRise s) s

/-- Reset entry ends. -/
def execResetEntryEnd (s : State) : Host.Outcome State Fault Refusal :=
  runAlways (fun s =>
    if !s.harbour.inEntry then s
    else if s.harbour.entryRise then resetRise s
    else { s with harbour := { s.harbour with inEntry := false } }) s

/-! ## The staggered power-up (R757, R758, R784, R831) -/

/-- A run of domain numbers. -/
def doms (first n : Nat) : List Nat := (List.range n).map (first + ·)

/-- Step 1: the monitors, the setpoint and the Harbour domains; after a warm reset the retained image is verified. DEDUCED (log 50). -/
def stepRom (s : State) : State :=
  verifyRetained (startDomains (doms 94 6) { s with clocks := { s.clocks with oscAlive := true, refclkAlive := true, vloom := 750 } })

/-- Step 2: the PLL is locked, the root runs, and CD94–CD99 move to it. -/
def stepPll (s : State) : State :=
  startDomains [0] { s with clocks := { s.clocks with pllLocked := true, rootAlive := true
                                                      domSel := (doms 94 6).foldl (fun x d => putBit x d false) s.clocks.domSel } }

/-- Step 5: the Causeway ports start to train. -/
def stepCauseway (s : State) : State :=
  let s := startDomains [50, 51] s
  [24, 25].foldl (fun s n => if (port? s n).any (·.enable) then startPort n s else s) s

/-- The DDR speed: the slowest DIMM's, the cap, and 5,600 MT/s at two DIMMs a channel (R259, R260). -/
def ddrSpeedOf (cap perChannel speed : Nat) : Nat := min (min speed cap) (if perChannel = 2 then 3 else 4)

/-- Step 8: the DDR channels train. A warm reset keeps the population found before. -/
def stepDdr (d : DdrFound) (s : State) : State :=
  let t := s.store
  let keep := s.harbour.resetKind == 2 && t.dimms != 0
  let fit := d.uniform && (d.perChannel == 1 || d.perChannel == 2) && 1 ≤ d.size && d.size ≤ 4
  let t :=
    if keep then { t with ddrSpeed := ddrSpeedOf t.speedCap t.dimms d.speed }
    else if fit then { t with popError := false, dimms := d.perChannel, dimmSize := d.size, ddrSpeed := ddrSpeedOf t.speedCap d.perChannel d.speed }
    else { t with popError := d.perChannel != 0 || !d.uniform, dimms := 0, dimmSize := 0, ddrSpeed := 0 }
  startDomains (doms 62 8) { s with store := { t with ddrReady := true } }

/-- Step 9: the scratchpads are zeroed. -/
def stepShuttle (s : State) : State :=
  let out := fun (a : Nat) => a < scratchBase || scratchEnd ≤ a
  { s with store := { s.store with cells := Memory.clear s.store.cells scratchBase (scratchEnd - scratchBase)
                                   poison := s.store.poison.filter out, lost := s.store.lost.filter out } }

/-- Step 10: the flash channels train. After a cold reset the device takes what training finds: the channels and their format. -/
def stepFlash (f : StepFound) (s : State) : State :=
  let s := startDomains (doms 70 24) s
  if s.harbour.resetKind = 2 ∧ s.flash.chans.any (·.2.present) then s
  else
    let chan := fun (k : Nat) => match f.chans[k]? with
      | some c => { Chan.reset with present := c.present, capacity := if c.present then c.capacity % 2 ^ 15 else 0, divider := c.divider % 4 }
      | none => Chan.reset
    let s := { s with flash := { s.flash with chans := (List.range 16).map (fun k => (k, chan k)) } }
    let ok := f.formatted && 2 ≤ (s.flash.chans.filter (·.2.present)).length && f.opSelect < 2
    freshSpares { s with flash := { s.flash with formatted := ok, opApplied := if ok then f.opSelect else 0, rawGib := if ok then rawGib s else 0 } }

/-- The units of one step. -/
def powerStep (n : Nat) (f : StepFound) (s : State) : State :=
  match n with
  | 1 => stepRom s
  | 2 => stepPll s
  | 3 => startDomains [1] s
  | 4 => startDomains [52, 53] s
  | 5 => stepCauseway s
  | 7 => startDomains (doms 54 8) { s with store := { s.store with hbmReady := true } }
  | 8 => stepDdr f.ddr s
  | 9 => stepShuttle s
  | 10 => stepFlash f s
  | _ => s

/-- Whether step `n` is the one that falls due: the steps run in order, and those from 7 on need Harbour firmware. -/
def stepDue (s : State) (n : Nat) : Bool := n == s.clocks.stepDone + 1 && n ≤ 10 && n != 6 && (n < 7 || s.harbour.boot == 3)

/-- POWERUP_STEP: the next whole step, or the next group of step 11. Step 6 is FIRMWARE_START. -/
def execPowerupStep (n : Nat) (found : StepFound) (s : State) : Host.Outcome State Fault Refusal :=
  run (fun s =>
    if n = 11 then (if s.clocks.portsGo && 10 ≤ s.clocks.stepDone then startGroup s else s)
    else if !stepDue s n then s
    else
      let s := powerStep n found s
      let s := settleStart { s with clocks := { s.clocks with stepDone := n } }
      if n = 10 ∧ s.clocks.portsGo = true then startGroup s else s) s

end Sys2Proof.Machine
end

