-- ==== Sys2Proof/Machine/Dispatch.lean ====
section
/-! DEFINITION. One arm per command of the table, each a call of that command's meaning. -/

namespace Sys2Proof.Machine

/-- The effect of one command on everything but the queue. -/
def exec (i : Instr) (s : State) : Host.Outcome State Fault Refusal :=
  match i with
  | .nop k => Sys2Proof.Machine.execNop k s
  | .copy k bursts bad => Sys2Proof.Machine.execCopy k bursts bad s
  | .fill k bursts => Sys2Proof.Machine.execFill k bursts s
  | .tileCopy k bursts => Sys2Proof.Machine.execTileCopy k bursts s
  | .check k bursts => Sys2Proof.Machine.execCheck k bursts s
  | .atomicBatch k => Sys2Proof.Machine.execAtomicBatch k s
  | .fence k => Sys2Proof.Machine.execFence k s
  | .fenceComplete k => Sys2Proof.Machine.execFenceComplete k s
  | .release k => Sys2Proof.Machine.execRelease k s
  | .acquire k => Sys2Proof.Machine.execAcquire k s
  | .acquireReread k => Sys2Proof.Machine.execAcquireReread k s
  | .acquireTimeout k => Sys2Proof.Machine.execAcquireTimeout k s
  | .weave k => Sys2Proof.Machine.execWeave k s
  | .weavePhaseStart k => Sys2Proof.Machine.execWeavePhaseStart k s
  | .gatherAcquire k => Sys2Proof.Machine.execGatherAcquire k s
  | .writeRelease k => Sys2Proof.Machine.execWriteRelease k s
  | .embGather k => Sys2Proof.Machine.execEmbGather k s
  | .embUpdate k => Sys2Proof.Machine.execEmbUpdate k s
  | .embStepClose k => Sys2Proof.Machine.execEmbStepClose k s
  | .embStats k => Sys2Proof.Machine.execEmbStats k s
  | .kvAppend k => Sys2Proof.Machine.execKvAppend k s
  | .attnDecode k => Sys2Proof.Machine.execAttnDecode k s
  | .attnCombine k => Sys2Proof.Machine.execAttnCombine k s
  | .seqCreate k => Sys2Proof.Machine.execSeqCreate k s
  | .seqFork k => Sys2Proof.Machine.execSeqFork k s
  | .seqPublish k => Sys2Proof.Machine.execSeqPublish k s
  | .seqHandoffOffer k => Sys2Proof.Machine.execSeqHandoffOffer k s
  | .seqHandoffAccept k => Sys2Proof.Machine.execSeqHandoffAccept k s
  | .seqRelease k => Sys2Proof.Machine.execSeqRelease k s
  | .seqQuery k => Sys2Proof.Machine.execSeqQuery k s
  | .handoffExpiry handle => Sys2Proof.Machine.execHandoffExpiry handle s
  | .orphanReclaim handle => Sys2Proof.Machine.execOrphanReclaim handle s
  | .ringGoneNotice h rings => Sys2Proof.Machine.execRingGoneNotice h rings s
  | .atollSearch k => Sys2Proof.Machine.execAtollSearch k s
  | .atollInsert k => Sys2Proof.Machine.execAtollInsert k s
  | .atollDelete k => Sys2Proof.Machine.execAtollDelete k s
  | .atollMerge k => Sys2Proof.Machine.execAtollMerge k s
  | .mergeCommit k => Sys2Proof.Machine.execMergeCommit k s
  | .oldRootFree isle atoll => Sys2Proof.Machine.execOldRootFree isle atoll s
  | .atollCreate k => Sys2Proof.Machine.execAtollCreate k s
  | .regionAlloc k => Sys2Proof.Machine.execRegionAlloc k s
  | .regionFree k => Sys2Proof.Machine.execRegionFree k s
  | .map k => Sys2Proof.Machine.execMap k s
  | .unmap k => Sys2Proof.Machine.execUnmap k s
  | .withdrawalStart => Sys2Proof.Machine.execWithdrawalStart s
  | .withdrawalSweepDone id => Sys2Proof.Machine.execWithdrawalSweepDone id s
  | .drainEnd id => Sys2Proof.Machine.execDrainEnd id s
  | .drainBoundExpiry id => Sys2Proof.Machine.execDrainBoundExpiry id s
  | .withdrawalComplete id => Sys2Proof.Machine.execWithdrawalComplete id s
  | .pinTier k => Sys2Proof.Machine.execPinTier k s
  | .poisonClear k => Sys2Proof.Machine.execPoisonClear k s
  | .planAdmit k => Sys2Proof.Machine.execPlanAdmit k s
  | .planStart k => Sys2Proof.Machine.execPlanStart k s
  | .planStop k => Sys2Proof.Machine.execPlanStop k s
  | .isleCreate k => Sys2Proof.Machine.execIsleCreate k s
  | .isleChange k => Sys2Proof.Machine.execIsleChange k s
  | .isleDestroy k => Sys2Proof.Machine.execIsleDestroy k s
  | .bindSet k => Sys2Proof.Machine.execBindSet k s
  | .isleActivate k => Sys2Proof.Machine.execIsleActivate k s
  | .isleReset k => Sys2Proof.Machine.execIsleReset k s
  | .unitReset k => Sys2Proof.Machine.execUnitReset k s
  | .mapInstall k => Sys2Proof.Machine.execMapInstall k s
  | .portRetrain k => Sys2Proof.Machine.execPortRetrain k s
  | .agentEvict k => Sys2Proof.Machine.execAgentEvict k s
  | .ringCreate k => Sys2Proof.Machine.execRingCreate k s
  | .ringDestroy k => Sys2Proof.Machine.execRingDestroy k s
  | .rowMigrate k => Sys2Proof.Machine.execRowMigrate k s
  | .ferryHoldEnd => Sys2Proof.Machine.execFerryHoldEnd s
  | .ferryCopyDone table slot rows => Sys2Proof.Machine.execFerryCopyDone table slot rows s
  | .twinPair k => Sys2Proof.Machine.execTwinPair k s
  | .twinPairTimeout k => Sys2Proof.Machine.execTwinPairTimeout k s
  | .resyncCopyDone => Sys2Proof.Machine.execResyncCopyDone s
  | .routeSet k => Sys2Proof.Machine.execRouteSet k s
  | .attest k draw => Sys2Proof.Machine.execAttest k draw s
  | .keyAgree k draw => Sys2Proof.Machine.execKeyAgree k draw s
  | .isleKeyLoad k => Sys2Proof.Machine.execIsleKeyLoad k s
  | .expelCert k => Sys2Proof.Machine.execExpelCert k s
  | .doorbellPoll fn line => Sys2Proof.Machine.execDoorbellPoll fn line s
  | .doorbellPollReturn fn line data => Sys2Proof.Machine.execDoorbellPollReturn fn line data s
  | .watchedWakeup off => Sys2Proof.Machine.execWatchedWakeup off s
  | .descriptorFetch context => Sys2Proof.Machine.execDescriptorFetch context s
  | .descriptorArrival k desc arg => Sys2Proof.Machine.execDescriptorArrival k desc arg s
  | .descriptorReread k desc arg => Sys2Proof.Machine.execDescriptorReread k desc arg s
  | .ringErrorRecord sq ok => Sys2Proof.Machine.execRingErrorRecord sq ok s
  | .completionWrite k ok => Sys2Proof.Machine.execCompletionWrite k ok s
  | .msixModerationTimeout cq => Sys2Proof.Machine.execMsixModerationTimeout cq s
  | .msixUnmask fn vec => Sys2Proof.Machine.execMsixUnmask fn vec s
  | .eventPost => Sys2Proof.Machine.execEventPost s
  | .ringSetupCreate fn => Sys2Proof.Machine.execRingSetupCreate fn s
  | .ringSetupDestroy fn sq => Sys2Proof.Machine.execRingSetupDestroy fn sq s
  | .sealWrite value => Sys2Proof.Machine.execSealWrite value s
  | .fwGo value => Sys2Proof.Machine.execFwGo value s
  | .fwImageVerify source image => Sys2Proof.Machine.execFwImageVerify source image s
  | .firmwareStart tableBase => Sys2Proof.Machine.execFirmwareStart tableBase s
  | .cfgGo value blob => Sys2Proof.Machine.execCfgGo value blob s
  | .portsGo value => Sys2Proof.Machine.execPortsGo value s
  | .flashFormat value => Sys2Proof.Machine.execFlashFormat value s
  | .flashFormatDone => Sys2Proof.Machine.execFlashFormatDone s
  | .alertClear value => Sys2Proof.Machine.execAlertClear value s
  | .portDisable port value => Sys2Proof.Machine.execPortDisable port value s
  | .portEnable port value => Sys2Proof.Machine.execPortEnable port value s
  | .strBindWrite port entry value => Sys2Proof.Machine.execStrBindWrite port entry value s
  | .hedModeWrite value => Sys2Proof.Machine.execHedModeWrite value s
  | .vfBindWrite vf value => Sys2Proof.Machine.execVfBindWrite vf value s
  | .msixAllocWrite fn value => Sys2Proof.Machine.execMsixAllocWrite fn value s
  | .refSelectWrite value => Sys2Proof.Machine.execRefSelectWrite value s
  | .domainSelectWrite dom value => Sys2Proof.Machine.execDomainSelectWrite dom value s
  | .clockSwitchDone dom => Sys2Proof.Machine.execClockSwitchDone dom s
  | .trdBeatLoRead size => Sys2Proof.Machine.execTrdBeatLoRead size s
  | .cswEpochLoRead size => Sys2Proof.Machine.execCswEpochLoRead size s
  | .registerWrite fn off size value => Sys2Proof.Machine.execRegisterWrite fn off size value s
  | .bar2Read fn off len bad => Sys2Proof.Machine.execBar2Read fn off len bad s
  | .bar2Write fn off bytes => Sys2Proof.Machine.execBar2Write fn off bytes s
  | .readId b => Sys2Proof.Machine.execReadId b s
  | .setPoolId b value => Sys2Proof.Machine.execSetPoolId b value s
  | .setAddr b value => Sys2Proof.Machine.execSetAddr b value s
  | .commit b => Sys2Proof.Machine.execCommit b s
  | .readStatus b => Sys2Proof.Machine.execReadStatus b s
  | .enumTokenReceived => Sys2Proof.Machine.execEnumTokenReceived s
  | .coldReset keyDraw => Sys2Proof.Machine.execColdReset keyDraw s
  | .warmReset => Sys2Proof.Machine.execWarmReset s
  | .resetNRise => Sys2Proof.Machine.execResetNRise s
  | .powerupStep n found => Sys2Proof.Machine.execPowerupStep n found s
  | .powerOff => Sys2Proof.Machine.execPowerOff s
  | .perst => Sys2Proof.Machine.execPerst s
  | .flr fn => Sys2Proof.Machine.execFlr fn s
  | .thermalSample tj hbm => Sys2Proof.Machine.execThermalSample tj hbm s
  | .thermalTrip => Sys2Proof.Machine.execThermalTrip s
  | .oscTrim code => Sys2Proof.Machine.execOscTrim code s
  | .clkRefLost cause => Sys2Proof.Machine.execClkRefLost cause s
  | .refSwitchBack => Sys2Proof.Machine.execRefSwitchBack s
  | .rootStopped => Sys2Proof.Machine.execRootStopped s
  | .vloomAdjust mv => Sys2Proof.Machine.execVloomAdjust mv s
  | .signalDetect port => Sys2Proof.Machine.execSignalDetect port s
  | .portUp port half reversed delay => Sys2Proof.Machine.execPortUp port half reversed delay s
  | .trainingFailed port => Sys2Proof.Machine.execTrainingFailed port s
  | .lossOfSignal port => Sys2Proof.Machine.execLossOfSignal port s
  | .flitReceive port flit => Sys2Proof.Machine.execFlitReceive port flit s
  | .retireReq port half => Sys2Proof.Machine.execRetireReq port half s
  | .retireAck port half => Sys2Proof.Machine.execRetireAck port half s
  | .retrain port => Sys2Proof.Machine.execRetrain port s
  | .echo port stamp => Sys2Proof.Machine.execEcho port stamp s
  | .echoReply port stamp delay => Sys2Proof.Machine.execEchoReply port stamp delay s
  | .linkAdaptation port delay => Sys2Proof.Machine.execLinkAdaptation port delay s
  | .rdShared h directory => Sys2Proof.Machine.execRdShared h directory s
  | .rdOwn h => Sys2Proof.Machine.execRdOwn h s
  | .upgrade h => Sys2Proof.Machine.execUpgrade h s
  | .dirty h => Sys2Proof.Machine.execDirty h s
  | .wrBack h line => Sys2Proof.Machine.execWrBack h line s
  | .rdUncached h bad => Sys2Proof.Machine.execRdUncached h bad s
  | .wrLine h line => Sys2Proof.Machine.execWrLine h line s
  | .wrPartial h mask line => Sys2Proof.Machine.execWrPartial h mask line s
  | .atomic h op a c => Sys2Proof.Machine.execAtomic h op a c s
  | .rdRun h => Sys2Proof.Machine.execRdRun h s
  | .wrRun h lines => Sys2Proof.Machine.execWrRun h lines s
  | .rspAck h => Sys2Proof.Machine.execRspAck h s
  | .rspData h line => Sys2Proof.Machine.execRspData h line s
  | .status h code detail => Sys2Proof.Machine.execStatus h code detail s
  | .progress h => Sys2Proof.Machine.execProgress h s
  | .retry h backoff => Sys2Proof.Machine.execRetry h backoff s
  | .readData h code first lines => Sys2Proof.Machine.execReadData h code first lines s
  | .runCont h first lines => Sys2Proof.Machine.execRunCont h first lines s
  | .atomicResult h code prior => Sys2Proof.Machine.execAtomicResult h code prior s
  | .subcmd h desc data => Sys2Proof.Machine.execSubcmd h desc data s
  | .subcmdDone h code detail count0 count1 data => Sys2Proof.Machine.execSubcmdDone h code detail count0 count1 data s
  | .hello port m => Sys2Proof.Machine.execHello port m s
  | .idClaim port c => Sys2Proof.Machine.execIdClaim port c s
  | .takeoverClaim port c => Sys2Proof.Machine.execTakeoverClaim port c s
  | .idConflict port poolId nonce => Sys2Proof.Machine.execIdConflict port poolId nonce s
  | .claimStands => Sys2Proof.Machine.execClaimStands s
  | .heartbeat port src beat epoch => Sys2Proof.Machine.execHeartbeat port src beat epoch s
  | .imagePart port offset total bytes => Sys2Proof.Machine.execImagePart port offset total bytes s
  | .probe port src => Sys2Proof.Machine.execProbe port src s
  | .probeAck port src => Sys2Proof.Machine.execProbeAck port src s
  | .fenceNotice port src => Sys2Proof.Machine.execFenceNotice port src s
  | .planPrepare port src handle plan isle => Sys2Proof.Machine.execPlanPrepare port src handle plan isle s
  | .planPrepareAnswer port src handle answer => Sys2Proof.Machine.execPlanPrepareAnswer port src handle answer s
  | .planCommit port src handle => Sys2Proof.Machine.execPlanCommit port src handle s
  | .planAbort port src handle => Sys2Proof.Machine.execPlanAbort port src handle s
  | .prepareTimeout handle => Sys2Proof.Machine.execPrepareTimeout handle s
  | .tentativeExpiry handle => Sys2Proof.Machine.execTentativeExpiry handle s
  | .pauseNotice port src => Sys2Proof.Machine.execPauseNotice port src s
  | .commitNotice port src table slot newHome va epoch step => Sys2Proof.Machine.execCommitNotice port src table slot newHome va epoch step s
  | .certMessage port src cert => Sys2Proof.Machine.execCertMessage port src cert s
  | .beat port number root hops phaseErr => Sys2Proof.Machine.execBeat port number root hops phaseErr s
  | .beatBoundary slack => Sys2Proof.Machine.execBeatBoundary slack s
  | .pickOverrun k => Sys2Proof.Machine.execPickOverrun k s
  | .beatInputFailover => Sys2Proof.Machine.execBeatInputFailover s
  | .beatUnsynced cause => Sys2Proof.Machine.execBeatUnsynced cause s
  | .requestTimeout id => Sys2Proof.Machine.execRequestTimeout id s
  | .progressDue id => Sys2Proof.Machine.execProgressDue id s
  | .snoopTimeout off => Sys2Proof.Machine.execSnoopTimeout off s
  | .agentSweepDone idx => Sys2Proof.Machine.execAgentSweepDone idx s
  | .epochHoldExpiry id => Sys2Proof.Machine.execEpochHoldExpiry id s
  | .graceExpiry => Sys2Proof.Machine.execGraceExpiry s
  | .tlbWalkDone isle page tlb => Sys2Proof.Machine.execTlbWalkDone isle page tlb s
  | .tieringEpoch => Sys2Proof.Machine.execTieringEpoch s
  | .warmupEnd => Sys2Proof.Machine.execWarmupEnd s
  | .promotionCommit isle page => Sys2Proof.Machine.execPromotionCommit isle page s
  | .moveCommit isle page => Sys2Proof.Machine.execMoveCommit isle page s
  | .flashReadDone off outcome restored => Sys2Proof.Machine.execFlashReadDone off outcome restored s
  | .flashProgramDone off outcome => Sys2Proof.Machine.execFlashProgramDone off outcome s
  | .flashEraseDone chan outcome => Sys2Proof.Machine.execFlashEraseDone chan outcome s
  | .channelFailed chan => Sys2Proof.Machine.execChannelFailed chan s
  | .garbageCollection chan spare => Sys2Proof.Machine.execGarbageCollection chan spare s
  | .patrolScrub off corrected outcome => Sys2Proof.Machine.execPatrolScrub off corrected outcome s
  | .flashScrub off outcome restored => Sys2Proof.Machine.execFlashScrub off outcome restored s
  | .telemetrySample => Sys2Proof.Machine.execTelemetrySample s
  | .causewayLost => Sys2Proof.Machine.execCausewayLost s
  | .probeTimeout => Sys2Proof.Machine.execProbeTimeout s
  | .causewayJournal port item => Sys2Proof.Machine.execCausewayJournal port item s
  | .twinAcknowledgement port id ok => Sys2Proof.Machine.execTwinAcknowledgement port id ok s
  | .backOffExpiry id => Sys2Proof.Machine.execBackOffExpiry id s
  | .completionTimeout k arg => Sys2Proof.Machine.execCompletionTimeout k arg s
  | .busMasterEnableSet fn => Sys2Proof.Machine.execBusMasterEnableSet fn s
  | .vfEnableChange enable => Sys2Proof.Machine.execVfEnableChange enable s
  | .enumInLow => Sys2Proof.Machine.execEnumInLow s
  | .pllLocked => Sys2Proof.Machine.execPllLocked s
  | .resetEntryEnd => Sys2Proof.Machine.execResetEntryEnd s
  | .planArm port src handle start => Sys2Proof.Machine.execPlanArm port src handle start s
  | .planStopNotice port src handle atCycleEnd => Sys2Proof.Machine.execPlanStopNotice port src handle atCycleEnd s
  | .planMemberAck port src handle code => Sys2Proof.Machine.execPlanMemberAck port src handle code s
  | .commitNoticeAck port src table slot => Sys2Proof.Machine.execCommitNoticeAck port src table slot s
  | .resyncWatermark poolId region mark => Sys2Proof.Machine.execResyncWatermark poolId region mark s
  | .mergeCheckpoint k => Sys2Proof.Machine.execMergeCheckpoint k s

end Sys2Proof.Machine
end

