-- ==== Sys2Proof/Safety.lean ====
section
/-! DEFINITION. What a safe run is, and the words statements are made of: the state a meaning leaves, a command that may run, and
runs of several steps. -/

namespace Sys2Proof.Machine

/-- A step answers a next state. -/
def Goes (o : Host.Outcome State Fault Refusal) : Prop := ∃ t, o = .next t

/-- The state an outcome holds, where it is a next state. -/
def next? : Host.Outcome State Fault Refusal → Option State
  | .next t => some t
  | .fault _ => none
  | .refused _ => none

/-- `n` steps of the block, none of which may stop. -/
def runSteps : Nat → State → Option State
  | 0, s => some s
  | n + 1, s => (next? (step s)).bind (runSteps n)

/-- The state that a meaning leaves whose effect on everything but the queue is `u`: the events that find a free slot of the
events ring are posted (R359), and the queue is that of `s`. -/
def settled (s u : State) : State := { flushEvents u with pending := s.pending }

/-- Command `c` of opcode `op` stands under key `k` and may run: the device is awake, nothing fetched before holds the command
back, and no throttle stops it (R180, R186, R790). -/
abbrev Runs (s : State) (k : CmdKey) (op : Nat) (c : Cmd) : Prop :=
  awake s = true ∧ cmd? s k = some c ∧ c.opcode = op ∧ runnable s c = true

/-- A Strait request arrives at a port that takes it, passes every check before its service (R57–R60, R87, R624, R650, R666, R825),
and is bound to an ACTIVE isle; `v` is the state then. -/
abbrev Arrives (s : State) (r : Req) (isle : Nat) (v : State) : Prop :=
  awake s = true ∧ r.hdr.port < 24 ∧ (∃ u, receive r.hdr (heldPool s r.pool) s = (true, u) ∧ v = takeId u) ∧
    portClosed v r.hdr.port r.hdr.src = false ∧ isPartner v r.pool = false ∧
    (∃ caching, bindOf v (heldPool v r.pool) r.hdr.port r.hdr.src r.hdr.stream = some (isle, caching) ∧ (r.kind.caching = true → caching = true)) ∧
    r.malformed = false ∧ r.mismatch = false ∧ isMine v r.pool = true ∧ epochVerdict v r.hdr.epoch = 0 ∧ isleActive v isle = true

/-- An arrived request as it is served: with its number and its isle. -/
def admitted (r : Req) (isle : Nat) (v : State) : Req := { r with id := v.links.nextId - 1, isle := isle }

/-- The pages of a request are translated, permit it and are reached (R88, R112, R123, R163, R190, R721, R823): `l` are its pieces with
their entries, and `t` is the state in which it is performed, its accesses counted (R267). -/
abbrev Reaches (v : State) (r : Req) (rights : Nat) (l : List (Nat × Nat × Nat)) (t : State) : Prop :=
  ∃ va l0 w, target v r = .inl (va, rights) ∧ translate v r none (pieces va r.size) = .ok l0 ∧
    (hasRights (8 * rights) r.kind.need && l0.all (fun p => hasRights p.2.2 r.kind.need)) = true ∧
    (r.kind.caching = true → (bit rights 3 && l0.all (fun p => eCoherent p.2.2)) = true) ∧ (takenOver v r l0).1 = stOk ∧
    (ordered r = true → earlierPending v r = false) ∧ reachAll r l0 v = (.all l, w) ∧
    t = l.foldl (fun s p => touchPage (eOff p.2.2 / pageSize) (burstsOf p.1 p.2.1) s) w ∧ t.heddle.txns.length < 8192

/-- The rows that act in every condition of the device: a reset, a power event, a pin's level, the thermal trip (R748, R753). -/
def actsAsleep : Instr → Bool
  | .enumTokenReceived | .enumInLow | .coldReset _ | .warmReset | .resetNRise | .resetEntryEnd | .powerOff | .thermalTrip => true
  | _ => false

end Sys2Proof.Machine
end

