-- ==== Sys2Proof/Certificates/Slice0/Obligations.lean ====
section
/-! DEFINITION. The statements for the provers, one proposition each. `settled s u` is the state a meaning leaves whose effect is
`u`; `Runs s k op c` says that command `c` of opcode `op` stands under key `k` of an awake device and may run. -/

open Sys2Proof Sys2Proof.Machine

/-- For every command c and state s: a step of s with c in front of its queue is exec c of s with the queue's rest, and a step on
an empty queue leaves the state as it is. That the block idles on an empty queue is the model's choice (log 1).
(01_loom_architecture.md, notes/assumptions/1.md) -/
def Obligations.StepRunsFrontCommand : Prop :=
  ∀ (c : Instr) (rest : List Instr) (s : State),
    step { s with pending := c :: rest } = exec c { s with pending := rest } ∧
    (s.pending = [] → step s = .next s)

/-- No command of the table stops the block: for every command with every operand and every state, exec answers a next state,
whose queue is the queue it was given. Where the spec turns a command away it does so with a status, an event or no effect,
never by a stop of the block. (01_loom_architecture.md, 07_rings_and_doorbells.md, notes/assumptions/7.md) -/
def Obligations.EveryCommandAnswersNextState : Prop :=
  ∀ (c : Instr) (s : State), ∃ t, exec c s = .next t ∧ t.pending = s.pending

/-- For every state s, as many steps as s has waiting commands all answer next states, and the state they reach has an empty
queue; every further step leaves that state as it is. (01_loom_architecture.md, notes/assumptions/1.md) -/
def Obligations.QueueRunsToItsEnd : Prop :=
  ∀ s : State, ∃ t, runSteps s.pending.length s = some t ∧ t.pending = [] ∧ ∀ n, runSteps (s.pending.length + n) s = some t

/-- While PWRGD is low, RESET_N is low, or the root has stopped and no reset has restarted it, every command but the power, reset,
enumeration pin and thermal trip rows leaves the whole state as it is. (R748, R753, R757, R759) -/
def Obligations.AsleepDeviceKeepsItsState : Prop :=
  ∀ (c : Instr) (s : State), awake s = false → actsAsleep c = false → exec c s = .next s

/-- For every state whose store is in canonical form and every step that answers a next state, the store of the next state is in
canonical form. Every one of the 225 commands is covered, with every operand. (What an unlisted address reads as is the
model's choice, log 2.) (R3, R37, R80, notes/assumptions/2.md) -/
def Obligations.StoreStaysCanonical : Prop :=
  ∀ s t : State, Memory.wf s.store.cells = true → step s = .next t → Memory.wf t.store.cells = true

/-- At reset the store is canonical and lists no cell, no command waits, no isle record is held, no command is in flight, and a
read of each register named by its BAR0 offset gives the reset value of its table: HBR_ID, HBR_POOL_ID, the clock, power,
MSI-X, translation, Heddle, Treadle, port, request timeout, twin, memory, Tide, flash, manager and telemetry registers. (R5,
R46, R313, 16_clocks_power_and_reset.md, 18_setup_registers.md, notes/assumptions/3.md) -/
def Obligations.ResetLeaves : Prop :=
  Memory.wf State.reset.store.cells = true ∧ State.reset.store.cells = [] ∧ State.reset.pending = [] ∧ State.reset.isles = [] ∧
  State.reset.bobbin.cmds = [] ∧
  ∀ r ∈ [(0x000000, 0x4BA16412), (0x000008, 0), (0x00000C, 0), (0x000010, 0xFFF), (0x100000, 0), (0x100004, 0),
         (0x200000, 750 + 650 * 2 ^ 10 + 850 * 2 ^ 20), (0x200004, 2 * 2 + 2000 * 2 ^ 8), (0x200008, 0), (0x302000, 64), (0x302004, 1),
         (0x500000, 100), (0x500008, 20), (0x600000, 0), (0x600004, 0), (0x700000, 1 + 31 * 2 ^ 16), (0x700004, 0),
         (0x700008, 40 + 100 * 2 ^ 16), (0x70000C, 50), (0x800000, 5), (0x800004, 0), (0x980000, 100), (0xA20000, 3),
         (0xA20004, 200 + 500 * 2 ^ 16), (0xA20008, 0xFFF * 2 ^ 4 + 0xFFF * 2 ^ 16), (0xB00000, 0), (0xB00004, 4), (0xB00100, 3),
         (0xB00104, 100 + 20 * 2 ^ 16), (0xB00108, 256 + 16 * 2 ^ 16), (0xB0010C, 16 + 50 * 2 ^ 16),
         (0xB00110, 5 + 8 * 2 ^ 8 + 5 * 2 ^ 16 + 8 * 2 ^ 24), (0xB00114, 16384 + 4096 * 2 ^ 16), (0xC00000, 0), (0xC00004, 0),
         (0xC00100, 0), (0xE00000, 0), (0xF00000, 0), (0xF00004, 0)],
    readReg State.reset r.1 = r.2

/-- Raising an event appends it to the held events while fewer than 1,024 are held. With 1,024 or more held it drops the oldest,
appends the new one and counts one more dropped event. No other part of the state changes. (R359) -/
def Obligations.HeldEventsAreAtMost1024 : Prop :=
  ∀ (e : Event) (s : State),
    (s.bobbin.held.length < 1024 → raise e s = { s with bobbin := { s.bobbin with held := s.bobbin.held ++ [e] } }) ∧
    (1024 ≤ s.bobbin.held.length →
      raise e s = { s with bobbin := { s.bobbin with held := s.bobbin.held.tail ++ [e], dropped := s.bobbin.dropped + 1 } } ∧
      (raise e s).bobbin.held.length = s.bobbin.held.length)

/-- Where the events ring has a completion ring with a free, unreserved slot: if events were dropped, the next record posted is
EVENT_OVERFLOW with their number in count0, the dropped count becomes zero and every held event stays held; otherwise it is
the record of the oldest held event, which leaves the list. Each is one write of the record's 32 bytes at slot written mod
depth, and counts one record written. With no events ring or no free slot nothing is posted and the state stays as it is.
(R359, R353, R360) -/
def Obligations.DroppedEventsArePostedBeforeHeldOnes : Prop :=
  ∀ s : State,
    (postable s = false → flushEvents s = s) ∧
    (∀ (q : Nat) (c : Cq), eventsCq s = some (q, c) → c.free = true → c.msixEn = false → NMap.get? s.bobbin.cqs q = some c →
      ∀ e : Event,
        ((0 < s.bobbin.dropped ∧ e = event evOverflow 0 0 (s.bobbin.dropped % 2 ^ 32) 0) ∨
          (s.bobbin.dropped = 0 ∧ s.bobbin.held.head? = some e)) →
        postNext s = some { s with
          bobbin := { s.bobbin with
            held := if 0 < s.bobbin.dropped then s.bobbin.held else s.bobbin.held.tail
            dropped := 0
            cqs := NMap.upd s.bobbin.cqs q (fun x => { x with written := x.written + 1 }) }
          out := s.out ++ [.hostWrite c.fn (c.base + BitVec.ofNat 64 (c.written.toNat % 2 ^ c.log2 * 32))
            (recordBytes (e.code + 65536 * e.tagHigh) e.status (c.written.toNat % 65536)
              (recordFlags (recordPhase c.written.toNat c.log2) false true) e.unit e.source e.count0 e.count1 s.treadle.beat.toNat)] })

/-- For every tag, status, alive, flags, unit, source, counts and beat in their widths, the record has 32 bytes; reading each
field little-endian at its place of the table gives it back; bytes 26-27 are zero; and bytes 28-31 hold the CRC-32C of the
record with that field zero. (R353, R3) -/
def Obligations.CompletionRecordLayout : Prop :=
  ∀ tag status alive flags unit source c0 c1 beat : Nat,
    tag < 2 ^ 32 → status < 2 ^ 16 → alive < 2 ^ 16 → flags < 2 ^ 8 → unit < 2 ^ 8 → source < 2 ^ 16 → c0 < 2 ^ 32 → c1 < 2 ^ 32 →
    beat < 2 ^ 48 →
    let b := recordBytes tag status alive flags unit source c0 c1 beat
    b.length = 32 ∧ field b 0 4 = tag ∧ field b 4 2 = status ∧ field b 6 2 = alive ∧ field b 8 1 = flags ∧ field b 9 1 = unit ∧
    field b 10 2 = source ∧ field b 12 4 = c0 ∧ field b 16 4 = c1 ∧ field b 20 6 = beat ∧ field b 26 2 = 0 ∧
    b.drop 28 = leBytes (crc crc32c (b.take 28 ++ leBytes 0 4)) 4

/-- In a canonical store, after bytes are written from address a, address a + i reads as byte i and every address outside reads as
before; after the n addresses from a are cleared, they read as zero and every other address reads as before. (R3, R37,
notes/assumptions/2.md) -/
def Obligations.StoreReadAfterWrite : Prop :=
  ∀ (m : List Host.Cell) (a x : Nat), Memory.wf m = true →
    (∀ bs : List Byte, Memory.read (Memory.writes m a bs) x =
      if a ≤ x ∧ x < a + bs.length then bs.getD (x - a) 0 else Memory.read m x) ∧
    (∀ n : Nat, Memory.read (Memory.clear m a n) x = if a ≤ x ∧ x < a + n then 0 else Memory.read m x)

/-- In a canonical store, after a device page is allocated each of its bytes reads as zero, no line of it is poisoned or lost, and
the page is recorded for the isle with its first counter value; every byte outside the page reads as before. (R80, R669, R734,
notes/assumptions/10.md) -/
def Obligations.NewPageReadsAsZero : Prop :=
  ∀ (p isle region : Nat) (vpage : Option Nat) (n : BitVec 16) (s : State), Memory.wf s.store.cells = true →
    (∀ x, Memory.read (allocPage p isle vpage region n s).store.cells x =
      if x / pageSize = p then 0 else Memory.read s.store.cells x) ∧
    (∀ l, l / pageSize = p → isPoisoned (allocPage p isle vpage region n s) l = false ∧ isLost (allocPage p isle vpage region n s) l = false) ∧
    (∃ g, getPage (allocPage p isle vpage region n s) p = some g ∧ g.isle = isle ∧ g.vpage = vpage ∧ g.counter = n ∧ g.move = none)

/-- A command in flight that came from a ring and has not ended, ended with a status and two counts, stands under its key as ended
with the status modulo 2^16 and the counts modulo 2^32 and no cluster; every command of another key is as before; it holds no
Reef thread, no ACQUIRE entry, no wake-up and no flash read; and nothing outside the commands, the Reef threads, Heddle's
acquires and the flash reads changes. A command that has ended, and a key that names none, change nothing. (R23, R160, R353) -/
def Obligations.EndedCommandHoldsItsStatus : Prop :=
  ∀ (k : CmdKey) (st a b : Nat) (s : State),
    (∀ c, cmd? s k = some c → c.phase ≠ .ended → c.lead = none →
      cmd? (endCmd k st a b s) k =
        some { c with phase := .ended, status := st % 65536, count0 := a % 2 ^ 32, count1 := b % 2 ^ 32, clusters := [], slots := [] } ∧
      (∀ k', k' ≠ k → cmd? (endCmd k st a b s) k' = cmd? s k') ∧
      endCmd k st a b s = { s with
        bobbin := { s.bobbin with cmds := (endCmd k st a b s).bobbin.cmds }
        atolls := { s.atolls with threads := s.atolls.threads.filter (fun t => t.2.2 != k) }
        heddle := { s.heddle with acquires := s.heddle.acquires.filter (fun x => x.1 != k), wakeCmds := s.heddle.wakeCmds.filter (· != k) }
        flash := { s.flash with reads := s.flash.reads.filter (fun r => r.1 != k) } }) ∧
    (∀ c, cmd? s k = some c → c.phase = .ended → endCmd k st a b s = s) ∧
    (cmd? s k = none → endCmd k st a b s = s)

/-- A well-formed NOP that may run ends with ST_OK and both counts zero. A well-formed FENCE begins to run; once every command
fetched earlier from its ring has ended (device scope), or none of them is left in flight (pool scope), it ends with ST_OK. A
well-formed RELEASE whose earlier commands are visible as its scope requires and whose flag can be written writes its 8-byte
value there and ends with ST_OK. Nothing else changes (counts of FENCE and RELEASE are free, log 8). (R331, R180, R181, R182,
R183) -/
def Obligations.NopFenceAndRelease : Prop :=
  ∀ (s : State) (k : CmdKey) (c : Cmd),
    (Runs s k 0x0001 c → descArgBlock c.desc = false → c.zero 16 63 = true →
      exec (.nop k) s = .next (settled s (endCmd k stOk 0 0 s))) ∧
    (Runs s k 0x0030 c → fenceFieldsOk c = true →
      exec (.fence k) s = .next (settled s (updCmd k (fun x => { x with phase := .running }) s))) ∧
    (Runs s k 0x0030 c → c.phase = .running →
      ((c.fld 16 0 2 = 1 ∧ ∀ x ∈ earlier s c.key, x.phase = .ended) ∨ (c.fld 16 0 2 ≠ 1 ∧ earlier s c.key = [])) →
      exec (.fenceComplete k) s = .next (settled s (endFree k stOk s))) ∧
    (∀ u v, Runs s k 0x0031 c → releaseFieldsOk c = true → releaseDone s c = true →
      access k c.isle [⟨.load, true, c.va 24, 8⟩] (startCmd k s) = (.ok, u) →
      vwrite k c.isle (c.va 24) (leBytes (c.fld 32 0 64) 8) u = (false, v) →
      exec (.release k) s = .next (settled s (endFree k stOk v)))

/-- A well-formed ACQUIRE, and a reread of a running one that holds no entry or was woken, reads its flag. Where the value meets
the condition it ends with ST_OK and the 64 bits in its counts; otherwise it keeps the value read and takes an ACQUIRE entry
where the flag is coherent and one is free. At its timeout a running ACQUIRE whose timeout is not 0 ends with ST_TIMEOUT and
the last value read. (R184, R185, R187, R247, R248) -/
def Obligations.AcquireReadsUntilItsConditionHolds : Prop :=
  ∀ (s : State) (k : CmdKey) (c : Cmd),
    (∀ u, Runs s k 0x0032 c → acquireFieldsOk c = true → c.phase = .ready →
      access k c.isle [⟨.load, false, c.va 24, 8⟩] (startCmd k s) = (.ok, u) → vstatus u (cmdNow u c) (c.va 24) 8 = stOk →
      exec (.acquire k) s = .next (settled s
        (let v := vnat u (cmdNow u c) (c.va 24) 8
         let w := updCmd k (fun x => { x with fwd := [], pages := [] })
           { u with heddle := { u.heddle with wakeCmds := u.heddle.wakeCmds.filter (· != k) } }
         if (if c.fld 17 0 1 = 0 then v = c.fld 32 0 64 else c.fld 32 0 64 ≤ v) then endCmd64 k stOk v w
         else takeEntry k c.isle (c.va 24) (updCmd k (fun x => { x with aux := [v] }) w)))) ∧
    (∀ u, Runs s k 0x0032 c → c.phase = .running → (holdsEntry s k = false ∨ k ∈ s.heddle.wakeCmds) →
      access k c.isle [⟨.load, false, c.va 24, 8⟩] s = (.ok, u) → vstatus u (cmdNow u c) (c.va 24) 8 = stOk →
      exec (.acquireReread k) s = .next (settled s
        (let v := vnat u (cmdNow u c) (c.va 24) 8
         let w := updCmd k (fun x => { x with fwd := [], pages := [] })
           { u with heddle := { u.heddle with wakeCmds := u.heddle.wakeCmds.filter (· != k) } }
         if (if c.fld 17 0 1 = 0 then v = c.fld 32 0 64 else c.fld 32 0 64 ≤ v) then endCmd64 k stOk v w
         else takeEntry k c.isle (c.va 24) (updCmd k (fun x => { x with aux := [v] }) w)))) ∧
    (∀ v l, Runs s k 0x0032 c → c.phase = .running → c.fld 20 0 32 ≠ 0 → c.aux = v :: l →
      exec (.acquireTimeout k) s = .next (settled s (endCmd64 k stTimeout v s)))

/-- For a well-formed COPY, FILL or CHECK that may run with a byte left and no budget holding it, whose burst can be made: the
burst copies the source bytes to the destination, after the lines that failed on its reads were read once more, writes the
pattern bytes at their distance from the first destination byte, or runs the CRC over the bytes read; done grows by the burst.
When no byte is left COPY and FILL end with the worst status met and the bytes done as their 64-bit count (ST_OK where none
failed), and CHECK ends as its result requires; otherwise the command waits for its next burst. (R146, R147, R153, R154, R155,
R674, R677, R678) -/
def Obligations.CopyFillAndCheckTakeOneBurst : Prop :=
  ∀ (s u : State) (k : CmdKey) (c : Cmd),
    let r := { c with phase := Phase.running }
    (∀ bad, Runs s k 0x0010 c → copyFieldsOk c = true → overlap (c.va 16) (c.fld 32 0 64) (c.va 24) (c.fld 32 0 64) = false →
      c.done < c.fld 32 0 64 →
      let v := startCmd k (bad.foldl lineFault s)
      let sv := c.va 16 + c.done
      let dv := c.va 24 + c.done
      cmd? v k = some r → budgetHolds v r [sv, dv] = false →
      copyBurst k r sv dv (burstLen sv dv (c.fld 32 0 64 - c.done)) (coversPage (c.va 24) (c.fld 32 0 64) dv) v = (.ok, u) →
      ∀ d, cmd? (spendBudget r [sv, dv] u) k = some d → d.desc = c.desc →
      exec (.copy k 1 bad) s = .next (settled s
        (if c.fld 32 0 64 ≤ d.done then endCmd64 k d.worst d.done (spendBudget r [sv, dv] u) else spendBudget r [sv, dv] u))) ∧
    (Runs s k 0x0011 c → fillFieldsOk c = true → c.done < c.fld 32 0 64 →
      let dv := c.va 16 + c.done
      let n := burstLen dv dv (c.fld 32 0 64 - c.done)
      budgetHolds (startCmd k s) r [dv] = false →
      readyPiece k c.isle .dma true (coversPage (c.va 16) (c.fld 32 0 64) dv) dv n (startCmd k s) = (.ok, u) →
      let w := vwrite k c.isle dv (patternBytes (c.fld 40 0 64) c.done n) u
      let t := spendBudget r [dv] (progress k n (if w.1 then stPoison else stOk) (issue k [dv / pageSize] w.2))
      ∀ d, cmd? t k = some d → d.desc = c.desc →
      exec (.fill k 1) s = .next (settled s (if c.fld 32 0 64 ≤ d.done then endCmd64 k d.worst d.done t else t))) ∧
    (Runs s k 0x0018 c → checkFieldsOk c = true →
      (c.phase = .ready → c.va 56 ≠ 0 → xlatRange s c.isle (c.va 56) 16 2 = stOk) → c.done < c.fld 32 0 64 →
      let va := c.va 24 + c.done
      let n := burstLen va va (c.fld 32 0 64 - c.done)
      budgetHolds (startCmd k s) r [va] = false →
      readyPiece k c.isle .dma false false va n (startCmd k s) = (.ok, u) →
      let x := cmdNow u r
      goodPrefix u x va n = none →
      let reg := crcRun (crcOfCode (x.fld 16 0 2)) (checkReg x) (vread u x va n)
      let t := spendBudget x [va] (updCmd k (fun y => { y with done := y.done + n, aux := [stOk, reg] }) (issue k [va / pageSize] u))
      ∀ d, cmd? t k = some d → d.desc = c.desc →
      exec (.check k 1) s = .next (settled s (if c.fld 32 0 64 ≤ d.done then checkEnd k d t else t)))

/-- A well-formed, not overlapping TILE_COPY that is dispatched and whose every page part is reachable records every page of the
tile and makes its first burst from the first byte of source row 0 to that of destination row 0; one whose translation fails
anywhere moves nothing and ends with the status and the lowest failing address. A burst that completes the tile ends the
command with the worst status met and the bytes done. (R148, R149, R150, R151) -/
def Obligations.TileCopyTranslatesThenTakesOneBurst : Prop :=
  ∀ (s u : State) (k : CmdKey) (c : Cmd), Runs s k 0x0012 c → tileFieldsOk c = true → tileOverlap c = false → c.phase = .ready →
    let parts := failingParts s c.isle 1 (tileSrc c) ++ failingParts s c.isle 2 (tileDst c)
    (∀ va st, lowestPart parts = some (va, st) →
      exec (.tileCopy k 1) s = .next (settled s (endCmd64 k st va (faultEvent c.isle va st s)))) ∧
    (parts = [] →
      let t := issue k ((tileSrc c ++ tileDst c).flatMap (fun r => pagesOf r.1 r.2)).eraseDups (startCmd k s)
      ∀ r, cmd? t k = some r → r.desc = c.desc → r.done = 0 → r.isle = c.isle → budgetHolds t r [c.va 16, c.va 24] = false →
      copyBurst k r (c.va 16) (c.va 24) (burstLen (c.va 16) (c.va 24) (tileRow c))
        (tileRow c == tileDp c && coversPage (c.va 24) (tileRow c * tileRows c) (c.va 24)) t = (.ok, u) →
      ∀ d, cmd? (spendBudget r [c.va 16, c.va 24] u) k = some d → d.desc = c.desc →
      exec (.tileCopy k 1) s = .next (settled s
        (if tileRow c * tileRows c ≤ d.done then endCmd64 k d.worst d.done (spendBudget r [c.va 16, c.va 24] u)
         else spendBudget r [c.va 16, c.va 24] u)))

/-- A well-formed ATOMIC_BATCH whose entries and results are reachable and whose list reads clean: before its first entry an entry
that fails its check ends it with that status, none performed, and the entry's index; otherwise its entries are performed in
list order. When the last is done it ends with ST_OK, the entries performed and 0xFFFFFFFF, or with ST_POISON and the index of
the first poisoned entry. A well-formed POISON_CLEAR of one reachable line ends with ST_OK: one line cleared where it was
poisoned or lost, else one line left. (R220, R224, R225, R228, R229, R672, R673) -/
def Obligations.AtomicBatchAndPoisonClear : Prop :=
  ∀ (s u : State) (k : CmdKey) (c : Cmd),
    (Runs s k 0x0020 c → batchFieldsOk c = true →
      access k c.isle [⟨.load, false, c.va 24, 64 * c.fld 16 0 32⟩, ⟨.load, true, c.va 32, 16 * c.fld 16 0 32⟩] (startCmd k s) = (.ok, u) →
      vstatus u (cmdNow u c) ((cmdNow u c).va 24) (64 * c.fld 16 0 32) = stOk →
      (∀ i, (cmdNow u c).done = 0 →
        (List.range (c.fld 16 0 32)).find? (fun i => entryStatus u (cmdNow u c).isle (vread u (cmdNow u c) ((cmdNow u c).va 24 + 64 * i) 64) != stOk)
          = some i →
        exec (.atomicBatch k) s = .next (settled s
          (endCmd k (entryStatus u (cmdNow u c).isle (vread u (cmdNow u c) ((cmdNow u c).va 24 + 64 * i) 64)) 0 i u))) ∧
      ((cmdNow u c).done = c.fld 16 0 32 → cmd? u k = some (cmdNow u c) → (cmdNow u c).desc = c.desc →
        exec (.atomicBatch k) s = .next (settled s
          (if (cmdNow u c).aux.getD 1 0 = 0 then endCmd k stOk ((cmdNow u c).aux.getD 0 0) 0xFFFFFFFF u
           else endCmd k stPoison ((cmdNow u c).aux.getD 0 0) ((cmdNow u c).aux.getD 1 0 - 1) u)))) ∧
    (Runs s k 0x0405 c → poisonFieldsOk c = true → c.fld 32 0 64 = 64 →
      access k c.isle [⟨.dma, true, c.va 24, 64⟩] (startCmd k s) = (.ok, u) →
      ∀ e, walk u c.isle (c.va 24 / pageSize) = .entry e →
      let t := clearLine (through u c.isle (c.va 24) e) (bit (c.fld 16 0 8) 0) (eOff e + c.va 24 % pageSize) u
      exec (.poisonClear k) s = .next (settled s
        (if t.1 then endCmd k stOk 1 0 (awaitItems k u.twin.nextItem t.2) else endCmd k stOk 0 1 (awaitItems k u.twin.nextItem t.2))))

/-- A store of one to 64 bytes inside one line which no line cache holds in M, in a canonical store: where it covers only part of
a poisoned or lost line it is refused and changes nothing; otherwise the bytes read back at their offsets, every other byte
reads as before, a whole line loses its poison and lost marks, and the marks of every other line stay. (R3, R166, R256, R670,
notes/assumptions/2.md) -/
def Obligations.LineStoreWritesExactlyItsBytes : Prop :=
  ∀ (mir : Bool) (off : Nat) (bs : List Byte) (s : State), Memory.wf s.store.cells = true → bs ≠ [] → off % 64 + bs.length ≤ 64 →
    s.heddle.caches.any (fun c => c.off == lineOf off && c.state == .m) = false →
    ((bs.length ≠ 64 ∧ lineStatus s (lineOf off) ≠ stOk) → storeLine mir off bs s = (true, s)) ∧
    (¬ (bs.length ≠ 64 ∧ lineStatus s (lineOf off) ≠ stOk) →
      (storeLine mir off bs s).1 = false ∧
      (∀ x, Memory.read (storeLine mir off bs s).2.store.cells x =
        if off ≤ x ∧ x < off + bs.length then bs.getD (x - off) 0 else Memory.read s.store.cells x) ∧
      (bs.length = 64 → lineStatus (storeLine mir off bs s).2 (lineOf off) = stOk) ∧
      (∀ l, l ≠ lineOf off → lineStatus (storeLine mir off bs s).2 l = lineStatus s l))

/-- A dispatched WEAVE whose chain keeps its rules and finds clusters takes them, leaves their working areas undefined, and runs
from stage 0 with empty slots. A chain whose last stage is done ends with ST_OK, the items finished and 0, or with ST_POISON,
the items not poisoned and the lowest poisoned item. A chain that stands at a later phase goes on at WEAVE_PHASE_START. A
GATHER that waits for its flag goes on where the value read meets its condition, and otherwise takes an entry. A WRITE that
waits for its release writes its flag and goes on with the next stage. (R432, R436, R437, R441, R446, R447, R450) -/
def Obligations.WeaveRunsItsChain : Prop :=
  ∀ (s u : State) (k : CmdKey) (c : Cmd), Runs s k 0x0040 c →
    (c.phase = .ready → weaveOk s c = true → ∀ l, chooseClusters s c true (c.fld 32 0 64) = .ok l →
      exec (.weave k) s = .next (settled s (weaveLoop k 9 (updCmd k (fun x => { x with aux := [0], slots := emptySlots x })
        (l.foldl (scrubScratch (scratchOff c) (scratchLen c)) (takeClusters k c.isle l (startCmd k s))))))) ∧
    (c.phase = .running → c.clusters ≠ [] → stageCount c ≤ c.done →
      exec (.weave k) s = .next (settled s
        (match c.aux.drop 1 with
         | [] => endWeave k c stOk (itemCount c) 0 s
         | d :: r => endWeave k c stPoison (itemCount c - (r.length + 1)) d s))) ∧
    (c.phase = .running → c.clusters ≠ [] → c.done < stageCount c → startsPhase s c c.done = true → c.aux.headD 0 = 0 →
      exec (.weavePhaseStart k) s = .next (settled s (weaveLoop k 9 (setSync k 1 s)))) ∧
    (awaitsFlag s c = true → access k c.isle [⟨.load, false, sgFlagVa (atStage c), 8⟩] s = (.ok, u) →
      vstatus u (cmdNow u c) (sgFlagVa (atStage c)) 8 = stOk →
      let v := vnat u (cmdNow u c) (sgFlagVa (atStage c)) 8
      let w := updCmd k (fun x => { x with fwd := [], pages := [] })
        { u with heddle := { u.heddle with wakeCmds := u.heddle.wakeCmds.filter (· != k) } }
      exec (.gatherAcquire k) s = .next (settled s
        (if (if sgCond (atStage c) = 0 then v = sgFlag (atStage c) else sgFlag (atStage c) ≤ v) then
          weaveLoop k 9 (setSync k 2 { w with heddle := { w.heddle with acquires := w.heddle.acquires.filter (fun a => a.1 != k) } })
         else takeEntry k c.isle (sgFlagVa (atStage c)) w))) ∧
    (∀ v, c.phase = .running → c.aux.headD 0 = 3 → (sgScope (atStage c) = 2 → c.unacked = []) →
      access k c.isle [⟨.shuttle (itemCluster c 0), true, sgFlagVa (atStage c), 8⟩] s = (.ok, u) →
      vwrite k c.isle (sgFlagVa (atStage c)) (leBytes (sgFlag (atStage c)) 8) u = (false, v) →
      exec (.writeRelease k) s = .next (settled s
        (weaveLoop k 9 (setSync k 0 (updCmd k (fun x => { x with done := x.done + 1, fwd := [] }) v)))))

/-- On slots that hold FP32 vectors: SCALE multiplies each element by its immediate; ADD and MUL combine the two slots element by
element, a single element standing for every element; RELU keeps a number above zero, gives zero for every other number, and a
NaN for a NaN; the reduce stage leaves one element, the tree sum. (R435, R419, R420) -/
def Obligations.WeaveSlotStagesCompute : Prop :=
  ∀ (g item : Nat) (sl : List (Nat × SlotVal)),
    let x := (slotOf sl (sgA g)).vals
    let y := (slotOf sl (sgB g)).vals
    (sgKind g = 0x03 → (slotStage g item sl).vals = x.map (fun v => fMul v (sgImm g))) ∧
    (sgKind g = 0x04 → y.length = x.length → x.length ≠ 1 → (slotStage g item sl).vals = List.zipWith fAdd x y) ∧
    (sgKind g = 0x05 → y.length = x.length → x.length ≠ 1 → (slotStage g item sl).vals = List.zipWith fMul x y) ∧
    (∀ b, sgKind g = 0x05 → y = [b] → (slotStage g item sl).vals = x.map (fun v => fMul v b)) ∧
    (sgKind g = 0x06 → (slotStage g item sl).vals = x.map (fun v => if isNan v then nan32 else if fLt 0 v then v else 0)) ∧
    (sgKind g = 0x0D → (slotStage g item sl).vals = [treeSum x])

/-- A home that serves a lead's EMB_GATHER of rows it homes, all reachable and clean, answers ST_OK with the rows' bytes in order
and counts one read for each. A home that serves a reservation of the open step with room keeps the share and answers ST_OK. A
home that serves a prepare of the open step with no unstaged share closes the step to new shares and answers ST_OK with the
step. A lead whose second phase is answered by every home with ST_OK ends EMB_UPDATE with the contributions applied and those
dropped, and EMB_STEP_CLOSE with the sums of its homes' counts. (R23, R517, R521, R529, R530, R535, R536, R543) -/
def Obligations.EmbeddingCommandsServeTheirShares : Prop :=
  ∀ (s u : State) (k : CmdKey) (c : Cmd),
    (∀ h t d, Runs s k 0x0100 c → c.lead = some h → table? (startCmd k s) (gaTable c) = some t →
      let rows := subWords c.data
      let n := vecLen t.fmt t.width
      rows.find? (fun r => !homeHere (startCmd k s) c.isle (rowHome t r)) = none →
      rows.find? (fun r => typedRange (startCmd k s) c.isle (rowVa t r) n 2 != stOk) = none →
      access k c.isle (rows.map (fun r => ⟨.load, false, rowVa t r, n⟩)) (startCmd k s) = (.ok, u) →
      cmd? u k = some d → rows.find? (fun r => vstatus u { d with isle := c.isle } (rowVa t r) n != stOk) = none →
      exec (.embGather k) s = .next (settled s (endCmd k stOk 0 0 (updCmd k
        (fun x => { x with data := { words := [], bytes := rows.flatMap (fun r => vread u { d with isle := c.isle } (rowVa t r) n) } })
        (rows.foldl (fun v r => bumpSlot (homeKey c.isle (gaTable c) * 4096 + slotIndex t r) 1 0 v) u))))) ∧
    (∀ h t n, Runs s k 0x0101 c → c.lead = some h → subPhase c.data = 0 → subWords c.data = [n] →
      table? (startCmd k s) (gaTable c) = some t →
      let hk := homeKey c.isle (gaTable c)
      NMap.get? (startCmd k s).emb.openStep hk = some (upStep c) → hk ∉ (startCmd k s).emb.closing →
      share? (startCmd k s) hk h.src (upSeq c) (upStep c) = none →
      typedRange (startCmd k s) c.isle t.stagingVa t.stagingLen 2 = stOk →
      stagingUsed (startCmd k s) hk + n ≤ t.stagingLen / recordSize t →
      leadOf s c = h.src →
      exec (.embUpdate k) s = .next (settled s (endCmd k stOk 0 0 (updCmd k (fun x => { x with data := noData })
        { startCmd k s with emb := { s.emb with shares := s.emb.shares ++
          [{ table := hk, step := upStep c, src := h.src, useq := upSeq c, count := n, staged := false }] } })))) ∧
    (Runs s k 0x0101 c → c.lead = none → c.aux.headD 0 = 2 → allAnswered c = true → (∀ x ∈ c.subs, x.status = some stOk) →
      exec (.embUpdate k) s = .next (settled s (endCmd k stOk (c.subs.map (fun x => x.counts.1)).sum (c.aux.getD 1 0) s))) ∧
    (∀ h, Runs s k 0x0102 c → c.lead = some h → subPhase c.data = 0 →
      let hk := homeKey c.isle (clTable c)
      NMap.get? (startCmd k s).emb.openStep hk = some (clStep c) →
      (startCmd k s).emb.shares.any (fun x => x.table == hk && !x.staged) = false →
      exec (.embStepClose k) s = .next (settled s (endCmd k stOk (clStep c).toNat 0 (updCmd k (fun x => { x with data := noData })
        { startCmd k s with emb := { s.emb with closing := insertNat hk s.emb.closing } })))) ∧
    (Runs s k 0x0102 c → c.lead = none → c.aux.headD 0 = 2 → allAnswered c = true → (∀ x ∈ c.subs, x.status = some stOk) →
      exec (.embStepClose k) s = .next (settled s
        (endCmd k stOk (c.subs.map (fun x => x.counts.1)).sum (c.subs.map (fun x => x.counts.2)).sum s)))

/-- A well-formed EMB_STATS on a table of its isle whose record can be written writes it at its address and ends with ST_OK, the
number of slots this device homes, and the open step (0 where it homes none). With clear set it then removes the table's slot
counters and the isle's dropped counter; without, counters stay. (R518, R543, R544) -/
def Obligations.EmbStatsWritesTheTableRecord : Prop :=
  ∀ (s u : State) (k : CmdKey) (c : Cmd) (t : Table), Runs s k 0x0103 c → statsFieldsOk c = true →
    cmdTable s c (c.fld 16 0 16) = .inl t → access k c.isle [⟨.load, true, c.va 24, 32832⟩] (startCmd k s) = (.ok, u) →
    let tid := c.fld 16 0 16
    let held := slotsHeld u t
    let v := vput k c.isle (c.va 24) (statsRecord u c.isle tid t) u
    let step := if held = [] then 0 else ((NMap.get? u.emb.openStep tid).getD 0).toNat
    (c.fld 18 0 1 = 1 → exec (.embStats k) s = .next (settled s (endCmd k stOk held.length step
      { v with emb := { v.emb with counters := v.emb.counters.filter (fun e => e.1 / 4096 != tid)
                                   dropped := NMap.del v.emb.dropped c.isle } }))) ∧
    (c.fld 18 0 1 = 0 → exec (.embStats k) s = .next (settled s (endCmd k stOk held.length step v)))

/-- A home serves an offer from the owner ring of an OWNED sequence that no mutating command holds: OFFERED with that target. It
serves an accept by the target of an OFFERED sequence, or of an ORPHANED one by any ring: the ring owns it, the target is
cleared, and the length is in count0; every other accept ends with ST_NOT_OWNER and changes nothing of the sequence. It serves
a release: one reference less, the rest in count0, destroyed at zero. It serves a publish of a new key by the owner ring with
the right length: the key is registered, one reference more, sealed, and the handle answered. (R496, R498, R501, R503, R504,
R505) -/
def Obligations.SequenceHomeServesItsCommands : Prop :=
  ∀ (s : State) (k : CmdKey) (c : Cmd) (h : Hdr) (q : KvSeq) (ring key : Nat) (rest : List Nat), c.lead = some h → seq? s c.isle (kvHandle c) = some q →
    let slot := hSlot (kvHandle c)
    let r := startCmd k s
    let ended := fun (a b : Nat) (d : SubData) (t : State) => endCmd k stOk a b (updCmd k (fun x => { x with data := d }) t)
    (Runs s k 0x0206 c → subWords c.data = ring :: rest → q.owner = ring → q.ostate = 0 → q.mutating = [] →
      exec (.seqHandoffOffer k) s = .next (settled s (ended 0 0 noData
        (putSeq c.isle slot { q with ostate := 1, target := c.fld 24 0 24 } r)))) ∧
    (Runs s k 0x0207 c → subWords c.data = ring :: rest → ((q.ostate = 1 ∧ q.target = ring) ∨ q.ostate = 2) →
      exec (.seqHandoffAccept k) s = .next (settled s (ended q.length 0 noData
        (putSeq c.isle slot { q with owner := ring, ostate := 0, target := 0, ownerGone := false } r)))) ∧
    (Runs s k 0x0207 c → subWords c.data = ring :: rest → ¬ ((q.ostate = 1 ∧ q.target = ring) ∨ q.ostate = 2) →
      exec (.seqHandoffAccept k) s = .next (settled s (endCmd k stNotOwner 0 0 (updCmd k (fun x => { x with data := noData }) r)))) ∧
    (Runs s k 0x0208 c → subPhase c.data = 0 → c.fld 24 0 1 = 0 →
      exec (.seqRelease k) s = .next (settled s (ended (q.refs - 1) 0 { words := seqWords q, bytes := [] }
        (if q.refs - 1 = 0 then destroySeq c.isle (kvHandle c) r else putSeq c.isle slot { q with refs := q.refs - 1 } r)))) ∧
    (Runs s k 0x0205 c → pbLookup c = false → subWords c.data = ring :: key :: rest → q.owner = ring → q.ostate = 0 → q.length = pbTokens c →
      registered r c.isle key = none → registrySize r < 65536 →
      exec (.seqPublish k) s = .next (settled s (ended (kvHandle c % 2 ^ 32) (kvHandle c / 2 ^ 32) noData
        (putSeq c.isle slot { q with keys := q.keys ++ [key], refs := q.refs + 1, isSealed := true } r))))

/-- A well-formed SEQ_CREATE whose devices are members, with slot n the lowest free, makes the sequence there with the slot's
generation, owned by the issuing ring with one reference, and ends with ST_OK and its handle in the counts. A SEQ_FORK whose
holders all answered with ST_OK ends with ST_OK and the new handle. A SEQ_QUERY whose home answered and whose result can be
written writes the 64-byte record and ends with ST_OK, the length, and the owner word's low 32 bits. (R459, R460, R497, R500,
R502) -/
def Obligations.SequenceLeadCommandsComplete : Prop :=
  ∀ (s u : State) (k : CmdKey) (c : Cmd),
    (∀ n, Runs s k 0x0203 c → createFieldsOk c (createSeq s k c) = true →
      (∀ p ∈ (createSeq s k c).place, p.1 = s.pool.id ∨ p.1 ∈ s.pool.members) → freeSlot s = some n →
      let g := NMap.getD s.lagoon.gens n 0
      exec (.seqCreate k) s = .next (settled s (endCmd64 k stOk (s.pool.id * 2 ^ 52 + n * 2 ^ 32 + g.toNat)
        (nameHome k s.pool.id (putSeq c.isle n { createSeq s k c with gen := g } s))))) ∧
    (∀ new r, Runs s k 0x0204 c → c.lead = none → c.aux = 2 :: new :: r → allAnswered c = true → (∀ x ∈ c.subs, x.status = some stOk) →
      exec (.seqFork k) s = .next (settled s (endCmd64 k stOk new s))) ∧
    (∀ x, Runs s k 0x0209 c → c.lead = none → c.aux ≠ [] → c.subs = [x] → x.status = some stOk →
      access k c.isle [⟨.load, true, c.va 24, 64⟩] (startCmd k s) = (.ok, u) →
      let q := seqOfWords x.answer.words
      exec (.seqQuery k) s = .next (settled s
        (endCmd k stOk q.length (ownerWord q % 2 ^ 32) (vput k c.isle (c.va 24) (queryRecord (kvHandle c) q) u))))

/-- A KV_APPEND whose holders wrote every vector ends, where its home is this device, with ST_OK, pos + n and the pages taken; a
holder serving the write phase writes the vectors and answers. An ATTN_DECODE whose spans are all answered, none failing but
by poison, finishes its entries; ATTN_COMBINE, on clusters it holds, with clean input records, combines for each head the
partials of the records as a tree, writes the heads in the output format and ends with ST_OK, the record count and 0xFFFFFFFF.
(R467, R468, R475, R479, R480, R485) -/
def Obligations.KvAppendAndAttentionComplete : Prop :=
  ∀ (s u v : State) (k : CmdKey) (c : Cmd),
    (∀ n st taken, Runs s k 0x0200 c → c.lead = none → c.aux = [3, st, taken] → allAnswered c = true → (∀ x ∈ c.subs, x.status = some stOk) →
      isMine s (hPool (kvHandle c)) = true → n = kvPos c + kvN c →
      exec (.kvAppend k) s = .next (settled s (endCmd k stOk n taken s))) ∧
    (∀ h r, Runs s k 0x0200 c → c.lead = some h → subPhase c.data = 2 → writeKv k c.isle (subWords c.data) c.data.bytes (startCmd k s) = (r, u) →
      exec (.kvAppend k) s = .next (settled s (endServed k r u))) ∧
    (Runs s k 0x0201 c → c.lead = none → ∀ rest, c.aux = 3 :: rest → allAnswered c = true →
      (∀ x ∈ c.subs, x.status = some stOk ∨ x.status = some stPoison) →
      exec (.attnDecode k) s = .next (settled s (attnFinish k c (entrySeqs (atCount c) c.data.words) s))) ∧
    (Runs s k 0x0202 c → combineFieldsOk c = true → c.clusters ≠ [] →
      access k c.isle [⟨.shuttle (c.clusters.headD 0), false, c.va 24, cbCount c * cbRecord c⟩,
        ⟨.shuttle (c.clusters.headD 0), true, c.va 32, cbHeads c * headLen (cbMode c) (cbDim c)⟩] (startCmd k (startCmd k s)) = (.ok, u) →
      ∀ d, cmd? u k = some d → d.desc = c.desc → d.isle = c.isle →
      (∀ r, r < cbCount c → vstatus u d (c.va 24 + r * cbRecord c) (cbRecord c) = stOk) →
      let part := fun (hd r : Nat) => decodeVec 0 (cbDim c + 2)
        (vread u d (c.va 24 + r * cbRecord c + hd * headLen 2 (cbDim c)) (headLen 2 (cbDim c)))
      vwrite k c.isle (c.va 32) ((List.range (cbHeads c)).flatMap (fun hd =>
        headBytes (cbMode c) (treeParts ((List.range (cbCount c)).map (part hd))))) u = (false, v) →
      exec (.attnCombine k) s = .next (settled s (endCmd k stOk (cbCount c) 0xFFFFFFFF v)))

/-- For a sequence homed here: at HANDOFF_EXPIRY an OFFERED one whose owner is there becomes OWNED by it with no target, with the
event HANDOFF_REVERTED; one whose owner is gone becomes ORPHANED with SEQ_ORPHANED. At ORPHAN_RECLAIM an ORPHANED one is
destroyed, dropped at its holders, and SEQ_RECLAIMED is raised. A notice of gone rings from a member orphans every OWNED
sequence that one of its rings owns and marks an OFFERED one's owner gone. (R506, R507, R508, R510) -/
def Obligations.LagoonTimersAndNotices : Prop :=
  ∀ (s : State), awake s = true → ∀ (handle isle : Nat) (q : KvSeq),
    (homedSeq s handle = some (isle, q) →
      (q.ostate = 1 → q.ownerGone = false → exec (.handoffExpiry handle) s = .next (settled s
        (raise (event 0x0501 0 q.isle (handle % 2 ^ 32) (handle / 2 ^ 32)) (putSeq isle (hSlot handle) { q with ostate := 0, target := 0 } s)))) ∧
      (q.ostate = 1 → q.ownerGone = true → exec (.handoffExpiry handle) s = .next (settled s
        (raise (event 0x0502 0 q.isle (handle % 2 ^ 32) (handle / 2 ^ 32))
          (putSeq isle (hSlot handle) { q with ostate := 2, target := 0, ownerGone := true } s)))) ∧
      (q.ostate = 2 → exec (.orphanReclaim handle) s = .next (settled s
        (raise (event 0x0503 0 q.isle (handle % 2 ^ 32) (handle / 2 ^ 32)) (dropAtHolders handle q (destroySeq isle handle s)))))) ∧
    (∀ (h : Hdr) (ring slot : Nat), h.src ∈ s.pool.members → ring / 4096 = h.src → s.lagoon.seqs = [(slot, q)] → slot < 65536 → q.owner = ring →
      (q.ostate = 0 → exec (.ringGoneNotice h [ring]) s = .next (settled s
        (orphan q.isle (handleOf s.pool.id (slot % 65536) q.gen.toNat) q s))) ∧
      (q.ostate = 1 → exec (.ringGoneNotice h [ring]) s = .next (settled s (putSeq q.isle slot { q with ownerGone := true } s))))

/-- A home that serves a delete of one id without a tombstone, with room in its log, logs the tombstone at tomb_tail, advances it,
and answers ST_OK with one logged. It serves an insert of one item whose vector is accepted, that has no tombstone and no side
entry, with room: it appends the encoded item at side_tail, advances it, and answers ST_OK with one inserted. It answers a
search with what its shard found. A lead whose shards all answered a search with ST_OK finishes it from their answers. (R571,
R575, R579, R587, R596, R598) -/
def Obligations.AtollHomeServesSearchInsertAndDelete : Prop :=
  ∀ (s u : State) (k : CmdKey) (c : Cmd) (h : Hdr) (sh : Shard),
    (∀ i, Runs s k 0x0302 c → c.lead = some h → shard? s c.isle (asId c) = some sh → subWords c.data = [i] →
      (∀ t ∈ sh.tombs, t.2 ≠ i) → sh.tombs.length + 1 ≤ sh.tombCap →
      exec (.atollDelete k) s = .next (settled s (endCmd k stOk 1 0 (updCmd k (fun x => { x with data := noData })
        (syncShard c.isle (asId c) { sh with tombs := sh.tombs ++ [((sh.tombTail + 0) % 2 ^ 32, i)], tombTail := (sh.tombTail + 1) % 2 ^ 32 }
          (startCmd k s)))))) ∧
    (∀ v rest, Runs s k 0x0301 c → c.lead = some h → shard? s c.isle (asId c) = some sh → subPhase c.data = 1 → aiCount c = 1 →
      subWords c.data = sh.dims :: sh.metric :: rest → v = decodeVec 0 sh.dims ((c.data.bytes.drop 64).take (4 * sh.dims)) →
      vecRefused sh.metric v = false → (∀ t ∈ sh.tombs, t.2 ≠ field c.data.bytes 0 8) → (∀ x ∈ sh.sides, x.id ≠ field c.data.bytes 0 8) →
      sh.sides.length + 1 ≤ sh.sideCap →
      exec (.atollInsert k) s = .next (settled s (endCmd k stOk 1 0 (updCmd k (fun x => { x with data := noData })
        (syncShard c.isle (asId c) { sh with
          sides := sh.sides ++ [{ seq := (sh.sideTail + 0) % 2 ^ 32, id := field c.data.bytes 0 8, norm := (encodeItem sh.metric sh.so v).2
                                  attrs := (List.range 8).map (fun j => field c.data.bytes (16 + 4 * j) 4)
                                  codes := (encodeItem sh.metric sh.so v).1 }]
          sideTail := (sh.sideTail + 1) % 2 ^ 32 } (startCmd k s)))))) ∧
    (∀ d, Runs s k 0x0300 c → c.lead = some h → subPhase c.data = 1 →
      homeSearch k c.isle c c.data (startCmd k s) = (.done stOk 0 0 0 d, u) →
      exec (.atollSearch k) s = .next (settled s (endCmd k stOk 0 0 (updCmd k (fun x => { x with data := d }) u)))) ∧
    (∀ rest, Runs s k 0x0300 c → c.lead = none → c.aux = 2 :: rest → allAnswered c = true → (∀ x ∈ c.subs, x.status = some stOk) →
      exec (.atollSearch k) s = .next (settled s (searchFinish k c s)))

/-- A well-formed ATOLL_CREATE of an Atoll not held here, on areas of the right type, whose scale table is reachable, clean and in
range, with fewer than 256 shards held, makes an empty shard (no nodes, no side entries, no tombstones, generation 0, root A
active), writes its state line and roots, the create bytes and the scale table into the metadata area, and ends with ST_OK,
the segment slots, and the metadata bytes used. (R569, R573, R574, R575, R578) -/
def Obligations.AtollCreateMakesAnEmptyShard : Prop :=
  ∀ (s u : State) (k : CmdKey) (c d : Cmd), Runs s k 0x0304 c → createAtollOk c = true → areasStatus s c = stOk →
    NMap.get? s.atolls.shards (c.isle * 65536 + field c.arg 0 2) = none →
    access k c.isle [⟨.reef, false, crSo c, 8 * crDims c⟩] (startCmd k s) = (.ok, u) →
    cmd? u k = some d → d.arg = c.arg → d.isle = c.isle → vstatus u d (crSo c) (8 * crDims c) = stOk →
    let tab := vread u d (crSo c) (8 * crDims c)
    let so := (List.range (crDims c)).map (fun i => (field tab (8 * i) 4, field tab (8 * i + 4) 4))
    (∀ p ∈ so, soOk p = true) → u.atolls.shards.length < 256 →
    let none' : Root := { nodes := 0, live := 0, entry := 0xFFFFFFFF, segs := [] }
    let sh : Shard := { dims := crDims c, metric := crMetric c, degree := crDegree c, sideCap := crSide c, tombCap := crTomb c
                        navPages := crNav c, recordVa := crRecord c, slots := crRecordLen c / segSize, metaVa := crMeta c, so := so
                        active := false, merging := false, gen := 0, sideHead := 0, sideTail := 0, tombHead := 0, tombTail := 0
                        rootA := none', rootB := none', sides := [], tombs := [], nav := [], merge := none, oldSlots := [] }
    exec (.atollCreate k) s = .next (settled s
      (endCmd k stOk sh.slots (metaBytes sh.slots sh.dims sh.sideCap sh.tombCap sh.navPages)
        (vput k c.isle (crMeta c + 0x1000) tab (vput k c.isle (crMeta c + 0xC0) (c.arg.take 24)
          (syncShard c.isle (field c.arg 0 2) sh u)))))

/-- A dispatched ATOLL_MERGE on a shard without a merge, with 512 Reef threads free, fewer than four merges running and slots
enough, builds the new graph from a snapshot of its logs and takes 512 threads. A checkpoint of a segment without records
notes an empty segment; one with records writes them to the lowest free slot. With every segment written the commit makes the
other root active with the new graph, drops the snapshot's side entries and tombstones, adds one to the generation, keeps the
old slots until OLD_ROOT_FREE frees them, and ends with ST_OK (ST_DATA_LOST where records were lost), the live items and the
removed ones. (R603, R604, R606, R607, R608, R610) -/
def Obligations.AtollMergeStartsCheckpointsAndCommits : Prop :=
  ∀ (s : State) (k : CmdKey) (c : Cmd) (sh : Shard),
    (∀ a, Runs s k 0x0303 c → c.phase = .ready → mergeFieldsOk c = true → amDiscard c = false → cmdAtoll s c (asId c) = .inl a →
      shard? s c.isle (asId c) = some sh → sh.merge = none → 512 ≤ reefFree s c.isle →
      (s.atolls.shards.filter (fun x => match x.2.merge with | some m => mergeRuns s m | none => false)).length < 4 →
      ceilDiv (sh.root.nodes + sh.sides.length) 4096 ≤ sh.slots - (usedSlots sh).length →
      let b := buildMerge s c.isle sh (amBeam c)
      exec (.atollMerge k) s = .next (settled s (syncShard c.isle (asId c)
        { sh with merging := true, merge := some { cmd := some k, sideTail := sh.sideTail, tombTail := sh.tombTail, graph := b.1, removed := b.2.2.1
                                                   lost := b.2.2.2, entry := b.2.1, written := [], checkpoint := 0 } }
        (startCmd k { s with atolls := { s.atolls with threads := s.atolls.threads ++ [(c.isle, 512, k)] } })))) ∧
    (∀ isle id m, awake s = true → mergeOf s k = some (isle, id, sh, m) → m.checkpoint < m.segCount →
      (∀ r ∈ (m.graph.drop (m.checkpoint * 4096)).take 4096, r = none) →
      exec (.mergeCheckpoint k) s = .next (settled s (putShard isle id
        { sh with merge := some { m with written := m.written ++ [0xFFFFFFFF], checkpoint := m.checkpoint + 1 } } s))) ∧
    (∀ isle id m, awake s = true → mergeOf s k = some (isle, id, sh, m) → m.segCount ≤ m.checkpoint →
      let new : Root := { nodes := m.graph.length, live := (m.graph.filter (·.isSome)).length, entry := m.entry, segs := m.written }
      exec (.mergeCommit k) s = .next (settled s (endCmd k (if 0 < m.lost then stDataLost else stOk) new.live m.removed (syncShard isle id
        { sh with active := !sh.active, merging := false, merge := none, gen := sh.gen + 1, sideHead := m.sideTail, tombHead := m.tombTail
                  sides := sh.sides.drop (seqDist (BitVec.ofNat 32 m.sideTail) (BitVec.ofNat 32 sh.sideHead))
                  tombs := sh.tombs.drop (seqDist (BitVec.ofNat 32 m.tombTail) (BitVec.ofNat 32 sh.tombHead)), nav := []
                  oldSlots := sh.oldSlots ++ sh.root.segs.filter (· != 0xFFFFFFFF)
                  rootA := if sh.active then new else sh.rootA, rootB := if sh.active then sh.rootB else new } s)))) ∧
    (∀ isle id, awake s = true → NMap.get? s.atolls.shards (isle * 65536 + id) = some sh →
      exec (.oldRootFree isle id) s = .next (settled s
        { s with atolls := { s.atolls with shards := NMap.set s.atolls.shards (isle * 65536 + id) { sh with oldSlots := [] } } }))

/-- A well-formed unmirrored REGION_ALLOC of unmapped pages whose id is free (lowest first: the model's choice, log 10), whose
tables fit and whose pages are all placed ends with ST_OK, the id, and the number of pages placed in the hinted tier; the
region is held and its pages are mapped. MAP form 0 installs the 32 pages of a cluster's scratchpad window; form 1, on a
management ring and a free window id, installs the window; form 2 pins or unpins every page of the range. A PIN_TIER that has
dealt with every page and skipped none ends with ST_OK, the pages moved and the pages found there. (R75, R77, R78, R128, R129,
R130, notes/assumptions/10.md) -/
def Obligations.RegionCommandsComplete : Prop :=
  ∀ (s u v : State) (k : CmdKey) (c : Cmd),
    (∀ id ps, Runs s k 0x0400 c → allocFieldsOk c = true → raMirrored c = false →
      let vp0 := c.va 16 / pageSize
      let vps := (List.range (raLen c / pageSize)).map (fun i => vp0 + i)
      let coherent := bit (c.fld 32 0 8) 0
      (∀ p ∈ vps, mapped s c.isle p = false) → lowestFree (regionsOf s c.isle) 1 1048576 = some id → ensureTables c.isle vps s = some u →
      placePages c.isle id (allocOrder (raHint c) (raPin c)) vps u = some (ps, v) →
      let r : Region := { isle := c.isle % twinIsle, va := c.va 16, len := raLen c, coherent := coherent, ty := raType c, mirrored := false
                          replica := if c.fld 36 15 1 = 1 then some (c.fld 36 0 12) else none, cursor := none }
      exec (.regionAlloc k) s = .next (settled s (endCmd k stOk id
        (ps.filter (inTier (if raHint c = 1 then .ddr else if raHint c = 2 then .flash else .hbm))).length
        (noteEntries k c.isle vps (twinFor k 4 (regionWords c.isle id r) [] (setRegion c.isle id (some r)
          (mapPlaced c.isle (typeRights (raType c)) vp0 (raPin c) coherent false (raType c) ps v))))))) ∧
    (Runs s k 0x0402 c → mapFieldsOk c = true → c.fld 16 0 2 = 0 →
      let vp0 := c.va 24 / pageSize
      let vps := (List.range 32).map (fun i => vp0 + i)
      (∀ p ∈ vps, mapped s c.isle p = false) → (c.isle = 0 ∨ dedicatedTo s (c.fld 18 0 12) = some c.isle) → ensureTables c.isle vps s = some u →
      exec (.map k) s = .next (settled s (endFree k stOk (noteEntries k c.isle vps ((List.range 32).foldl (fun s i =>
        putEntry c.isle (vp0 + i) (mkEntry (c.fld 22 0 3) false false false false true 0
          (0x4000000000 + c.fld 18 0 12 * 0x200000 + i * pageSize)) s) u))))) ∧
    (Runs s k 0x0402 c → mapFieldsOk c = true → c.fld 16 0 2 = 1 → onManagement s k = true → NMap.get? s.trans.windows (c.fld 18 0 12) = none →
      let w : Window := { isle := c.fld 20 0 14, rights := c.fld 22 0 4, pages := c.fld 32 0 64 / pageSize, base := c.va 24, leaving := false }
      exec (.map k) s = .next (settled s (endFree k stOk (twinFor k 7 [c.fld 18 0 12, w.isle, w.rights, w.pages, w.base] []
        { s with trans := { s.trans with windows := NMap.set s.trans.windows (c.fld 18 0 12) w } })))) ∧
    (Runs s k 0x0402 c → mapFieldsOk c = true → c.fld 16 0 2 = 2 →
      let vps := pagesOf (c.va 24) (c.fld 32 0 64)
      (∀ p ∈ vps, ∃ e, walk s c.isle p = .entry e) →
      (c.fld 17 0 1 = 0 → pinPages c.isle vps s = some u →
        exec (.map k) s = .next (settled s (endFree k stOk (noteEntries k c.isle vps u)))) ∧
      (c.fld 17 0 1 = 1 → (∀ p ∈ vps, planUses s c.isle p = false) →
        exec (.map k) s = .next (settled s (endFree k stOk (noteEntries k c.isle vps (vps.foldl (unpinPage c.isle) s)))))) ∧
    (∀ n moved found r, Runs s k 0x0404 c → c.aux = n :: moved :: found :: 0 :: r → (pagesOf (c.va 24) (c.fld 32 0 64)).length ≤ n →
      exec (.pinTier k) s = .next (settled s (endCmd k stOk moved found s)))

/-- REGION_FREE of its isle's region, and UNMAP of mapped pages that nothing withdraws, start a withdrawal of those pages when
none is pinned, and end with ST_PERMISSION when one is; UNMAP of a window on a management ring starts its withdrawal. A
waiting withdrawal starts while fewer than 16 are active. Its sweep drops the TLB entries of its pages and, with no command to
cut and no line to recall, ends; its drain ends when nothing tracked is left and no flash read is open, or at its bound. At
its completion an unmirrored range's entries are cleared and its command is answered: for an UNMAP with ST_OK, the commands
cut and the pages withdrawn. (R84, R118, R133, R134, R135, R136, R138, R140, R141, R142) -/
def Obligations.WithdrawalsStartDrainAndComplete : Prop :=
  ∀ (s : State) (k : CmdKey) (c : Cmd),
    (∀ r, Runs s k 0x0401 c → c.phase ≠ .running → descArgBlock c.desc = false → c.zero 20 63 = true →
      NMap.get? (regionsOf s c.isle) (c.fld 16 0 32) = some r → r.isle = c.isle % twinIsle →
      let vps := regionPages s c.isle (c.fld 16 0 32) r
      ((∀ p ∈ vps, pinnedPage s c.isle p = false) →
        exec (.regionFree k) s = .next (settled s (startWd (some k) 2 c.isle vps [] (c.fld 16 0 32) (startCmd k s)))) ∧
      ((∃ p ∈ vps, pinnedPage s c.isle p = true) → exec (.regionFree k) s = .next (settled s (endFree k stPermission s)))) ∧
    (Runs s k 0x0403 c → c.phase ≠ .running → unmapFieldsOk c = true → c.fld 16 0 1 = 0 →
      let vps := pagesOf (c.va 24) (c.fld 32 0 64)
      (∀ p ∈ vps, mapped s c.isle p = true ∧ withdrawing s c.isle p = false) →
      ((∀ p ∈ vps, pinnedPage s c.isle p = false) →
        exec (.unmap k) s = .next (settled s (startWd (some k) 0 c.isle vps [] 0 (startCmd k s)))) ∧
      ((∃ p ∈ vps, pinnedPage s c.isle p = true) → exec (.unmap k) s = .next (settled s (endFree k stPermission s)))) ∧
    (∀ w, Runs s k 0x0403 c → c.phase ≠ .running → unmapFieldsOk c = true → c.fld 16 0 1 = 1 → onManagement s k = true →
      NMap.get? s.trans.windows (c.fld 18 0 12) = some w → w.leaving = false →
      exec (.unmap k) s = .next (settled s (startWd (some k) 1 w.isle [] [c.fld 18 0 12] 0 (startCmd k s)))) ∧
    (∀ w, awake s = true → s.trans.withdrawals.find? (fun x => x.phase == 0) = some w → activeWds s < 16 →
      exec .withdrawalStart s = .next (settled s (updWd w.id (fun w => { w with phase := 1 }) s))) ∧
    (∀ id w u, awake s = true → wd? s id = some w →
      (w.phase = 1 →
        let swept := w.vpages.foldl (fun s p => tlbDrop (fun t => t.covers w.isle p) s) (updWd id (fun w => { w with phase := 2 }) s)
        (∀ x ∈ swept.bobbin.cmds, stops w x = false) → cutRequests w swept = u → wdLines u w = [] →
        exec (.withdrawalSweepDone id) s = .next (settled s (updWd id (fun w => { w with recalls := [] }) u))) ∧
      (w.phase = 2 → wdLines s w = [] → (∀ x ∈ s.bobbin.cmds, ¬ (stops w x = true ∧ flashOpen s w x = true)) →
        exec (.drainEnd id) s = .next (settled s (endDrain w s))) ∧
      (w.phase = 2 → wdLines s w = [] → s.flash.reads = [] →
        exec (.drainBoundExpiry id) s = .next (settled s (endDrain { w with cut := 0 } (updWd id (fun w => { w with recalls := [] }) s)))) ∧
      (w.phase = 3 → w.cmd = some k → w.windows = [] → (∀ p ∈ w.vpages, ∀ e, entryOf s w.isle p = some e → eMirrored e = false) →
        exec (.withdrawalComplete id) s = .next (settled s (finishWds id (noteEntries k w.isle w.vpages (clearRange w.isle w.vpages s))))) ∧
      (w.cmd = some k → (w.kind = 0 → finishWd s id = endCmd k stOk w.cut w.vpages.length (dropWd id s)) ∧
        (w.kind = 1 → finishWd s id = endCmd k stOk w.cut 0 (dropWd id s))))

/-- A well-formed ISLE_CREATE of a free id whose clusters are free and within quota takes a level-1 table and ends with ST_OK and
the id, the isle CREATED. ISLE_CHANGE, with no Shuttle command before it and no scratchpad mapping to withdraw, writes the
changed record and ends with ST_OK. ISLE_KEY_LOAD of a CREATED isle with a rising sequence number loads the two keys when the
wrapped block opens with the transport key and they differ; it ends with ST_CHECK_MISMATCH when it does not open.
ISLE_ACTIVATE makes a CREATED isle with keys ACTIVE, and answers every other isle with ST_PERMISSION. ISLE_DESTROY sets an
isle RESETTING and starts to withdraw all it maps; of a bound isle it ends with ST_PERMISSION. An ISLE_RESET whose isle has no
ring and no command left makes it ACTIVE and ends with ST_OK and the commands it ended. (R48, R49, R50, R51, R52, R62,
02_isles_and_device_memory.md, 15_twins_failover_and_security.md) -/
def Obligations.IsleCommandsComplete : Prop :=
  ∀ (s : State) (k : CmdKey) (c : Cmd),
    (∀ off u, Runs s k 0x0F01 c → c.hasArg (fun n => n == 64) = true → c.zero 32 63 = true → isleBlockOk c.arg = true →
      let i := field c.arg 0 2 % 2 ^ 14
      let r := isleOfBlock c.arg .created 0 none
      i ≠ 0 → NMap.get? s.isles i = none → maskTaken s i r.clusterMask = false → maskThreads r.clusterMask ≤ r.shuttleQuota →
      newTable i { s with isles := NMap.set s.isles i r } = some (off, u) →
      exec (.isleCreate k) s = .next (settled s
        (endCmd k stOk i 0 (ownClusters i r.clusterMask (setIsle (some k) i (some { r with transRoot := off }) u))))) ∧
    (∀ old, Runs s k 0x0F02 c → c.phase = .ready → c.hasArg (fun n => n == 64) = true → c.zero 32 63 = true → isleBlockOk c.arg = true →
      let i := field c.arg 0 2 % 2 ^ 14
      let new := isleOfBlock c.arg old.state old.transRoot old.keys
      let u := updCmd k (fun c => { c with aux := [1] }) (startCmd k s)
      (∀ w ∈ s.trans.withdrawals, w.cmd ≠ some k) → shuttleBefore s k i = [] → NMap.get? s.isles i = some old →
      changeStatus u i old new = stOk → scratchPages u i (old.clusterMask &&& ~~~new.clusterMask) = [] →
      exec (.isleChange k) s = .next (settled s (endCmd k stOk 0 0 (ownClusters i new.clusterMask (setIsle (some k) i (some new) u))))) ∧
    (∀ key r, Runs s k 0x0F42 c → keyLoadFieldsOk c = true → s.trust.transport = some key →
      let i := field c.arg 0 2 % 2 ^ 14
      let b := fun (o n : Nat) => beVal ((c.arg.drop o).take n)
      NMap.get? s.isles i = some r → i ≠ 0 → r.state = .created → (∀ x, s.trust.lastKeySeq = some x → x < field c.arg 4 4) →
      exec (.isleKeyLoad k) s = .next (settled s (match Config.gcmUnwrap key (b 8 12) (b 0 8) (b 32 64) (b 96 16) with
        | none => endFree k stCheckMismatch s
        | some keys =>
          if keys / 2 ^ 256 % 2 ^ 256 = keys % 2 ^ 256 then badDesc k s
          else
            let u := setIsle (some k) i (some { r with keys := some (keys % 2 ^ 512) }) s
            endFree k stOk { u with trust := { u.trust with lastKeySeq := some (field c.arg 4 4) } }))) ∧
    (Runs s k 0x0F05 c → isleOnlyOk c = true →
      let i := c.fld 16 0 14
      (∀ r, NMap.get? s.isles i = some r → r.state = .created → r.keys.isSome = true →
        exec (.isleActivate k) s = .next (settled s (endCmd k stOk 0 0 (setIsle (some k) i (some { r with state := .active }) s)))) ∧
      ((∀ r, NMap.get? s.isles i = some r → r.state ≠ .created ∨ r.keys = none) →
        exec (.isleActivate k) s = .next (settled s (endFree k stPermission s)))) ∧
    (∀ r, Runs s k 0x0F03 c → isleOnlyOk c = true → c.phase ≠ .running →
      let i := c.fld 16 0 14
      let u := setIsle (some k) i (some { r with state := .resetting }) (startCmd k s)
      NMap.get? s.isles i = some r →
      (i ≠ 0 → (r.state = .created ∨ r.state = .active) → bound s i = false → (∀ q ∈ s.bobbin.sqs, q.2.isle ≠ i) →
        (∀ p ∈ s.treadle.plans, ¬ (p.2.held = true ∧ p.2.isle = i)) →
        exec (.isleDestroy k) s = .next (settled s (startWd (some k) 4 i ((mappedPages u i).filter (fun p => !withdrawing u i p))
          ((u.trans.windows.filter (fun w => w.2.isle == i && !w.2.leaving)).map (·.1)) i
          (updCmd k (fun c => { c with aux := [(u.store.regions.filter (fun g => g.2.isle == i)).length] }) u)))) ∧
      (bound s i = true → exec (.isleDestroy k) s = .next (settled s (endFree k stPermission s)))) ∧
    (∀ n rest r, Runs s k 0x0F06 c → isleOnlyOk c = true → c.phase = .running → c.aux = n :: rest →
      let i := c.fld 16 0 14
      (∀ q ∈ s.bobbin.sqs, q.2.isle ≠ i) → (∀ x ∈ s.bobbin.cmds, x.isle ≠ i) → NMap.get? s.isles i = some r →
      exec (.isleReset k) s = .next (settled s (endFirst k stOk n (setIsle (some k) i (some { r with state := .active }) s))))

/-- A well-formed PLAN_ADMIT whose turn it is, whose plan can be read, has the length and the check its header and descriptor
name, and parses, is judged by the admission checks: a plan that fails ends with ST_ADMIT_REFUSED, the reason and pick in
count0, the resource and beat in count1; a plan of this device alone is admitted under a new handle, in count0. PLAN_START of
such a plan, admitted or paused, on a good start beat and a locked beat, starts it and ends with ST_OK; on a bad start beat it
ends with ST_BAD_DESCRIPTOR. PLAN_STOP of it makes it stop at the next boundary, or at the end of the cycle. (R388, R389,
R391, R392, R393, R397, R398) -/
def Obligations.PlanCommandsComplete : Prop :=
  ∀ (s u : State) (k : CmdKey) (c d : Cmd),
    (∀ t, Runs s k 0x0500 c → admitFieldsOk c = true → admitTurn s k = true → (∀ p ∈ s.treadle.plans, p.2.cmd ≠ some k) →
      access k c.isle [⟨.load, false, c.va 16, c.fld 24 0 32⟩] (startCmd k s) = (.ok, u) →
      cmd? u k = some d → d.desc = c.desc → d.isle = c.isle → vstatus u d (c.va 16) (c.fld 24 0 32) = stOk →
      let bs := vread u d (c.va 16) (c.fld 24 0 32)
      bs.length = planLength bs → crc crc32c bs = c.fld 28 0 32 → parsePlan bs = some t →
      let a := planChecks u t u.pool.id 0 c.isle
      (a.yes = false → exec (.planAdmit k) s = .next (settled s
        (endCmd k stAdmitRefused (a.reason + 256 * a.pick) (a.resource + 65536 * a.beat) u))) ∧
      (a.yes = true → t.members.length = 1 → exec (.planAdmit k) s = .next (settled s (endCmd k stOk (takeHandle u).1 0
        (putPlan (takeHandle u).1
          { text := t, state := .admitted, isle := c.isle, me := 0, order := 0, startBeat := 0, cmd := none, waiting := [], refusals := []
            stopping := 0, pausing := none, owes := [] } (takeHandle u).2))))) ∧
    (∀ h p, Runs s k 0x0501 c → descArgBlock c.desc = false → c.zero 20 23 = true → c.rz 24 48 16 = true → c.zero 32 63 = true →
      (∀ p ∈ s.treadle.plans, p.2.cmd ≠ some k) → planNamed s c = .inr h → plan? s h = some p → p.cmd = none →
      let start := BitVec.ofNat 48 (c.fld 24 0 48)
      ((p.state = .admitted ∨ p.state = .paused) → startOk s p start = true → (s.treadle.locked = true ∨ s.treadle.root = true) → p.others = [] →
        exec (.planStart k) s = .next (settled s (endFree k stOk (armPlan h start s)))) ∧
      (startOk s p start = false → exec (.planStart k) s = .next (settled s (badDesc k s)))) ∧
    (∀ h p, Runs s k 0x0502 c → descArgBlock c.desc = false → c.rz 20 1 7 = true → c.zero 21 63 = true →
      (∀ p ∈ s.treadle.plans, p.2.cmd ≠ some k) → planNamed s c = .inr h → plan? s h = some p → p.cmd = none → p.state ≠ .preparing →
      p.stopping = 0 → p.others = [] →
      exec (.planStop k) s = .next (settled s
        (updPlan h (fun p => { p with stopping := max p.stopping (c.fld 20 0 1 + 1), waiting := p.others, refusals := [] })
          (updPlan h (fun p => { p with cmd := some k }) (startCmd k s)))))

/-- A member that can hold a plan keeps it tentative and answers yes; one that cannot answers its refusal and keeps nothing. The
lead's last yes admits the plan and sends COMMIT; a no, or the prepare timeout, drops it, sends ABORT and ends PLAN_ADMIT with
the refusal (the timeout's is MEMBER_MISMATCH with the silent member's index). COMMIT admits a tentative plan and is
acknowledged; a COMMIT of an unknown plan is refused; ABORT and TENTATIVE_EXPIRY drop a tentative plan. A pause notice marks
the admitted and started plans with that member. Arming starts an admitted plan on a locked member; a stop notice marks the
plan; the last acknowledgement ends PLAN_ADMIT. (R400, R402, R403, R404, R391, R393, 14_membership_and_epochs.md) -/
def Obligations.PlanMessagesAdmitArmAndStopMembers : Prop :=
  ∀ (s : State), awake s = true → ∀ (port src h : Nat),
    (∀ bytes t isle, plan? s h = none → parsePlan bytes = some t →
      let me := t.members.idxOf s.pool.id
      let a := planChecks s t src me isle
      (a = planYes → exec (.planPrepare port src h bytes isle) s = .next (settled s (sendManage src .planAnswer [h, 1, 0, 0, 0, 0]
        (putPlan h (newPlan t .tentative isle me 0 none []) s)))) ∧
      (a.yes = false → exec (.planPrepare port src h bytes isle) s = .next (settled s
        (sendManage src .planAnswer [h, 0, a.reason, a.pick, a.resource, a.beat] s)))) ∧
    (∀ p k, plan? s h = some p → p.state = .preparing → p.cmd = some k → p.refusals = [] →
      (∀ a, p.waiting = [p.memberOf src] → a.yes = true →
        exec (.planPrepareAnswer port src h a) s = .next (settled s (notePlan h (tellMembers p p.others .planCommit [planHandle h]
          (updPlan h (fun p => { p with state := .admitted, waiting := p.others })
            (updPlan h (fun q => { q with waiting := q.waiting.filter (· != p.memberOf src), refusals := q.refusals ++ [] }) s)))))) ∧
      (∀ i, p.waiting = [i] → exec (.prepareTimeout h) s = .next (settled s
        (endCmd k stAdmitRefused (6 + 256 * i) 0 (dropPlan h (tellMembers p p.others .planAbort [planHandle h]
          (updPlan h (fun p => { p with waiting := [], refusals := p.refusals ++ p.waiting.map (fun i => (i, 6, i, 0, 0)) }) s))))))) ∧
    (∀ p, plan? s h = some p → p.state = .tentative →
      exec (.planCommit port src h) s = .next (settled s (sendManage src .planAck [h, 0]
        (notePlan h (updPlan h (fun p => { p with state := .admitted }) s)))) ∧
      exec (.planAbort port src h) s = .next (settled s (dropPlan h s)) ∧
      exec (.tentativeExpiry h) s = .next (settled s (dropPlan h s))) ∧
    (plan? s h = none → plan? s (h + 2 ^ 32) = none →
      exec (.planCommit port src h) s = .next (settled s (sendManage src .planAck [h, 6] s)) ∧
      exec (.planArm port src h 0) s = .next (settled s (sendManage src .planAck [h, 6] s)) ∧
      exec (.planStopNotice port src h false) s = .next (settled s (sendManage src .planAck [h, 0] s))) ∧
    (∀ p, s.treadle.plans = [(h, p)] → src ∈ p.text.members → (p.state = .admitted ∨ p.state = .started) → p.pausing = none →
      exec (.pauseNotice port src) s = .next (settled s
        { s with treadle := { s.treadle with plans := [(h, { p with pausing := some (7, src) })] } })) ∧
    (∀ p, plan? s h = some p → p.state = .admitted → p.stopping = 0 →
      (∀ start, (s.treadle.locked = true ∨ s.treadle.root = true) →
        exec (.planArm port src h start) s = .next (settled s (sendManage src .planAck [h, 0] (armPlan h start s)))) ∧
      (∀ atEnd, exec (.planStopNotice port src h atEnd) s = .next (settled s
        (updPlan h (fun p => { p with stopping := if atEnd then 2 else 1, owes := p.owes ++ [src] }) s))) ∧
      (∀ k c, p.cmd = some k → cmd? s k = some c → c.opcode = 0x0500 → p.waiting = [p.memberOf src] → p.refusals = [] →
        exec (.planMemberAck port src h 0) s = .next (settled s (endCmd k stOk (planHandle h) 0 (updPlan h (fun p => { p with cmd := none })
          (updPlan h (fun q => { q with waiting := q.waiting.filter (· != p.memberOf src), refusals := q.refusals ++ [] }) s))))))

/-- On a member, a marker on its input port within 64 ns is taken; the 64th in a row of an unlocked device locks it, takes the
marker's beat number and raises BEAT_LOCKED; one beyond 64 ns declares it unsynced. Without a plan, a beat boundary advances
the beat and the silent counts, loads no budget, and sends markers where the device emits them. After 4 beats without a marker
the alternate input is taken; after 16 the device is unsynced: unlocked, with the event, and a pause notice to the members of
its plans. A pick whose record is late overruns: it is marked and counted, and only once. (R363, R364, R366, R368, R369, R410,
R412) -/
def Obligations.BeatMarkersLockAndLoseSync : Prop :=
  ∀ (s : State), awake s = true →
    (∀ (port root hops : Nat) (number : BitVec 48) (err : Int), s.treadle.root = false → portUp s port = true → port = s.treadle.primary →
      s.treadle.onAlternate = false →
      let seen := { s.treadle with phaseErr := err, hops := hops % 16, rootId := root % 4096 }
      (err.natAbs ≤ 64 → s.treadle.locked = false → s.treadle.run = 63 →
        exec (.beat port number root hops err) s = .next (settled s (raise (event 0x0404 port 0 (err % 2 ^ 32).toNat 0)
          { s with treadle := { seen with run := 64, locked := true, unsynced := false, beat := number, sinceMarker := 0 } }))) ∧
      (err.natAbs ≤ 64 → s.treadle.locked = true →
        exec (.beat port number root hops err) s = .next (settled s
          { s with treadle := { seen with run := min (s.treadle.run + 1) 64, sinceMarker := 0 } })) ∧
      (64 < err.natAbs → s.treadle.unsynced = false →
        let u := declareUnsynced { s with treadle := { seen with run := 0 } }
        exec (.beat port number root hops err) s = .next (settled s { u with treadle := { u.treadle with sinceMarker := 0 } }))) ∧
    (∀ slack, s.treadle.plans = [] →
      exec (.beatBoundary slack) s = .next (settled s (sendMarkers (reloadBudgets { s with
        treadle := { s.treadle with beat := s.treadle.beat + 1, slack := BitVec.ofInt 16 slack,
                                    sinceMarker := if s.treadle.root then 0 else s.treadle.sinceMarker + 1 }
        twin := { s.twin with silent := s.twin.silent + 1 } })))) ∧
    (s.treadle.root = false → s.treadle.onAlternate = false → s.treadle.alternate < 26 → 4 ≤ s.treadle.sinceMarker →
      exec .beatInputFailover s = .next (settled s { s with treadle := { s.treadle with onAlternate := true } })) ∧
    (∀ cause, s.treadle.root = false → s.treadle.unsynced = false → 16 ≤ s.treadle.sinceMarker →
      exec (.beatUnsynced cause) s = .next (settled s (declareUnsynced s)) ∧
      (s.treadle.plans = [] → declareUnsynced s = raise (event 0x0402 (if s.treadle.onAlternate then s.treadle.alternate else s.treadle.primary) 0
          (s.treadle.phaseErr % 2 ^ 32).toNat (s.treadle.sinceMarker % 2 ^ 32))
        { s with treadle := { s.treadle with locked := false, unsynced := true, run := 0 } })) ∧
    (∀ k c, cmd? s k = some c → beatsLate s c ≠ 0 →
      (c.overrun = false → exec (.pickOverrun k) s = .next (settled s
        (updCmd k (fun c => { c with overrun := true }) { s with treadle := { s.treadle with overruns := s.treadle.overruns + 1 } }))) ∧
      (c.overrun = true → exec (.pickOverrun k) s = .next (settled s s)))

/-- For every awake state, whatever plans, picks and commands it holds: BEAT_BOUNDARY answers a next state whose beat counter, a
48-bit number, is the old one plus one modulo 2^48, and whose memory, isles and regions are those it had. The device stays
awake. (R363, R368, R370) -/
def Obligations.EachBoundaryAdvancesTheBeatByOne : Prop :=
  ∀ (s : State) (slack : Int), awake s = true →
    ∃ t, exec (.beatBoundary slack) s = .next t ∧ t.treadle.beat.toNat = (s.treadle.beat.toNat + 1) % 2 ^ 48 ∧ awake t = true ∧
      t.store = s.store ∧ t.isles = s.isles ∧ t.pending = s.pending

/-- For every well-formed UNMAP of form 0 that may run and has not begun: if some page of its range is not mapped in the command's
isle or is already being withdrawn, it ends with ST_NOT_MAPPED in the state it met, so no withdrawal, no entry and no page
changes. If every page is mapped and none is being withdrawn, it either starts one withdrawal of exactly the range's pages,
with the command running, or ends with ST_PERMISSION, and does not end with ST_NOT_MAPPED. (R133) -/
def Obligations.UnmapNeedsMappedPages : Prop :=
  ∀ (s : State) (k : CmdKey) (c : Cmd), Runs s k 0x0403 c → c.phase ≠ .running → unmapFieldsOk c = true → c.fld 16 0 1 = 0 →
    let vps := pagesOf (c.va 24) (c.fld 32 0 64)
    ((∃ p ∈ vps, mapped s c.isle p = false ∨ withdrawing s c.isle p = true) →
      exec (.unmap k) s = .next (settled s (endFree k stNotMapped s)) ∧
      (settled s (endFree k stNotMapped s)).trans = s.trans ∧ (settled s (endFree k stNotMapped s)).store = s.store) ∧
    ((∀ p ∈ vps, mapped s c.isle p = true ∧ withdrawing s c.isle p = false) →
      (exec (.unmap k) s = .next (settled s (startWd (some k) 0 c.isle vps [] 0 (startCmd k s))) ∧
        (startWd (some k) 0 c.isle vps [] 0 (startCmd k s)).trans.withdrawals.length = s.trans.withdrawals.length + 1) ∨
      exec (.unmap k) s = .next (settled s (endFree k stPermission s)))

/-- BIND_SET writes the binding of a VF that owns no ring, and of a Strait entry that holds no agent and brings none, and ends
with ST_OK; of a VF that owns a ring it ends with ST_PERMISSION. AGENT_EVICT of a caching agent begins its removal. ROUTE_SET
writes the route entry. UNIT_RESET resets the unit. MAP_INSTALL of a map that can be read, has its check, parses and keeps the
records it must, with the next epoch (or with force one 1 to 127 ahead), installs it and ends with ST_OK and the epoch; with
another epoch it ends with ST_STALE_EPOCH. PORT_RETRAIN of an enabled port that is neither up nor training takes it to DOWN
with all lanes, for a new attempt. (R95, R250, R638, R704, R767, R811, R812, 04_epochs_translation_and_windows.md,
18_setup_registers.md) -/
def Obligations.ManagementCommandsOfBindingsMapsAndUnits : Prop :=
  ∀ (s u : State) (k : CmdKey) (c d : Cmd),
    (Runs s k 0x0F04 c → bindFieldsOk c = true → c.phase ≠ .running → c.fld 16 0 1 = 0 →
      (vfOwnsRing s (c.fld 18 0 11) = false →
        exec (.bindSet k) s = .next (settled s (endCmd k stOk 0 0 (putVfBind (c.fld 18 0 11) (BitVec.ofNat 32 (c.fld 24 0 32)) s)))) ∧
      (vfOwnsRing s (c.fld 18 0 11) = true → exec (.bindSet k) s = .next (settled s (endFree k stPermission s)))) ∧
    (Runs s k 0x0F04 c → bindFieldsOk c = true → c.phase ≠ .running → c.fld 16 0 1 = 1 → agentAt s (c.fld 17 0 5) (c.fld 18 0 11) = none →
      bindCaching (c.fld 24 0 64) = false →
      exec (.bindSet k) s = .next (settled s (endCmd k stOk 0 0 (twinFor k 8 [c.fld 17 0 5 * 2048 + c.fld 18 0 11, c.fld 24 0 64] []
        (changeBind (c.fld 17 0 5) (c.fld 18 0 11) (BitVec.ofNat 64 (c.fld 24 0 64)) (some k) (startCmd k s)))))) ∧
    (∀ i, Runs s k 0x0F0A c → descArgBlock c.desc = false → c.rz 16 5 3 = true → c.zero 17 17 = true → c.rz 18 11 5 = true → c.zero 20 63 = true →
      c.fld 16 0 5 < 24 → c.phase ≠ .running → agentAt s (c.fld 16 0 5) (c.fld 18 0 11) = some i →
      bindCaching (NMap.getD s.links.binds (c.fld 16 0 5 * 2048 + c.fld 18 0 11) 0).toNat = true →
      exec (.agentEvict k) s = .next (settled s (loseAgent (some k) (startCmd k s) i))) ∧
    (Runs s k 0x0F31 c → routeFieldsOk c = true →
      exec (.routeSet k) s = .next (settled s (endFree k stOk (updRoute (c.fld 16 0 12) (fun _ => wordRoute (c.fld 24 0 64)) s)))) ∧
    (Runs s k 0x0F07 c → descArgBlock c.desc = false → c.zero 18 63 = true → unitOk (c.fld 16 0 8) (c.fld 17 0 8) = true →
      exec (.unitReset k) s = .next (settled s (endCmd k stOk 0 0 (settlePlans (resetUnit false (c.fld 16 0 8) (c.fld 17 0 8) s))))) ∧
    (∀ m, Runs s k 0x0F08 c → installFieldsOk c = true → s.emb.migration = none →
      access k 0 [⟨.load, false, c.va 16, c.fld 24 0 32⟩] (startCmd k s) = (.ok, u) → cmd? u k = some d → d.desc = c.desc →
      vstatus u { d with isle := 0 } (c.va 16) (c.fld 24 0 32) = stOk →
      let bs := vread u { d with isle := 0 } (c.va 16) (c.fld 24 0 32)
      crc crc32c bs = c.fld 28 0 32 → parseMap bs = some m → mapKeeps u.maps.cur m = true →
      let dist := (m.epoch - u.maps.cur.epoch).toNat
      let force := c.fld 32 0 1 = 1
      ((if force then 1 ≤ dist ∧ dist ≤ 127 else dist = 1) →
        exec (.mapInstall k) s = .next (settled s (installMap (!decide force) m (endCmd k stOk m.epoch.toNat 0 u)))) ∧
      (¬ (if force then 1 ≤ dist ∧ dist ≤ 127 else dist = 1) → exec (.mapInstall k) s = .next (settled s (endStale k u)))) ∧
    (∀ p, Runs s k 0x0F09 c → descArgBlock c.desc = false → c.zero 17 63 = true → c.fld 16 0 8 < 26 → c.phase ≠ .running →
      port? s (c.fld 16 0 8) = some p → p.enable = true → p.cmd = none → p.state ≠ 1 → p.state ≠ 2 → p.state ≠ 3 →
      exec (.portRetrain k) s = .next (settled s
        (updPort (c.fld 16 0 8) (fun p => { p with state := 0, los := true, retired := 0, warm := false, fallback := false, suspended := true })
          (updPort (c.fld 16 0 8) (fun p => { p with attempts := 0, failures := 0, cmd := some k, txIdle := false, started := true }) (startCmd k s)))))

/-- An ATTEST and a KEY_AGREE whose result area isle 0 can write end with ST_OK: the report over the nonce stands there, or the
result of the key agreement, and the transport key is replaced and the key sequence forgotten. EXPEL_CERT of a well-formed
certificate ends with ST_OK when it is accepted, ST_STALE_EPOCH when its epoch is not the known one, and ST_PERMISSION
otherwise; a certificate that arrives on a Strait port of a joined device is judged in the same way. Signatures and keys are
free functions (log 4) and the hash is the model's (log 6). (R686, R687, R694, R695, R696, R697, notes/assumptions/4.md,
notes/assumptions/6.md) -/
def Obligations.TrustCommandsComplete : Prop :=
  ∀ (s u : State) (k : CmdKey) (c : Cmd),
    (∀ draw, Runs s k 0x0F40 c → attestFieldsOk c = true → access k 0 [⟨.load, true, c.va 48, 256⟩] (startCmd k s) = (.ok, u) →
      exec (.attest k draw) s = .next (settled s (endFree k stOk
        (vput k 0 (c.va 48) (attestReport u (leBytes (c.fld 16 0 256) 32) draw) u)))) ∧
    (∀ draw, Runs s k 0x0F41 c → agreeFieldsOk c = true → access k 0 [⟨.load, true, agreeVa c, 128⟩] (startCmd k s) = (.ok, u) →
      let peer := beVal (c.arg.take 64)
      let v := nextFree (vput k 0 (agreeVa c) (agreeResult u draw peer) u)
      exec (.keyAgree k draw) s = .next (settled s (endFree k stOk
        { v with trust := { v.trust with transport := some (transportKey draw peer), lastKeySeq := none } }))) ∧
    (∀ x, Runs s k 0x0F43 c → certFieldsOk c = true → parseCert c.arg = some x →
      let r := takeCert noPort c.arg x (startCmd k s)
      exec (.expelCert k) s = .next (settled s
        (endFree k (if r.1 = 0 then stOk else if r.1 = 2 then stStaleEpoch else stPermission) r.2))) ∧
    (∀ port src bytes x, awake s = true → portUp s port = true → port < 24 → s.harbour.boot = 3 → s.pool.joined = true → parseCert bytes = some x →
      exec (.certMessage port src bytes) s = .next (settled s (takeCert port bytes x s).2))

/-- A well-formed RING_CREATE whose setup record passes the checks zeroes its store doorbells and completion ring, creates the
ring with the lowest free ids, and ends with ST_OK, the SQ id and the CQ id; one whose record fails ends with the failing
check's status and creates nothing. The setup registers of a function do the same and leave the status and ids there. A
RING_DESTROY of another ring that may be destroyed marks it and, once its commands are gone, removes it; the registers do the
same. (R316, R317, R319, R322, R324, R325, R326, 07_rings_and_doorbells.md) -/
def Obligations.RingsAreCreatedAndDestroyed : Prop :=
  ∀ (s u : State),
    (∀ k c, Runs s k 0x0F10 c → c.hasArg (fun n => n == 64) = true → c.zero 32 63 = true →
      let r := leVal c.arg
      let isle := r % 2 ^ 14
      (setupStatus s 0 isle true false r = stOk → devReady isle (setupPieces r) (startCmd k s) = (.ok, u) →
        let n := createRing 0 isle r (setupZero isle r u)
        exec (.ringCreate k) s = .next (settled s (endCmd k stOk n.1 n.2.1 n.2.2))) ∧
      (setupStatus s 0 isle true false r ≠ stOk →
        exec (.ringCreate k) s = .next (settled s (endFree k (setupStatus s 0 isle true false r) s)))) ∧
    (∀ k c, Runs s k 0x0F11 c → c.phase ≠ .running → descArgBlock c.desc = false → c.rz 16 12 4 = true → c.zero 18 63 = true →
      (destroyRefusal s (c.fld 16 0 12) (some k.sq) none = none →
        exec (.ringDestroy k) s = .next (settled s (beginDestroy (c.fld 16 0 12) (some k) none (startCmd k s)))) ∧
      (∀ st, destroyRefusal s (c.fld 16 0 12) (some k.sq) none = some st →
        exec (.ringDestroy k) s = .next (settled s (endFree k st s)))) ∧
    (∀ fn f isle, awake s = true → setupActs s fn = true → fnDestroying s fn = false → NMap.get? s.bobbin.fns fn = some f → fnIsle s fn = some isle →
      (setupStatus s fn isle true true f.ringRec = stOk → devReady isle (setupPieces f.ringRec) s = (.ok, u) →
        let n := createRing fn isle f.ringRec (setupZero isle f.ringRec u)
        exec (.ringSetupCreate fn) s = .next (settled s (updFn fn (fun f => { f with sqId := n.1, cqId := n.2.1 })
          (updFn fn (fun f => { f with busy := false, status := stOk }) n.2.2)))) ∧
      (setupStatus s fn isle true true f.ringRec ≠ stOk →
        exec (.ringSetupCreate fn) s = .next (settled s
          (updFn fn (fun g => { g with busy := false, status := setupStatus s fn isle true true f.ringRec }) s)))) ∧
    (∀ fn f sq, awake s = true → setupActs s fn = true → NMap.get? s.bobbin.fns fn = some f → f.busy = false →
      (destroyRefusal s sq none (some fn) = none → exec (.ringSetupDestroy fn sq) s = .next (settled s
        (beginDestroy sq none (some fn) (updFn fn (fun f => { f with busy := true }) s)))) ∧
      (∀ st, destroyRefusal s sq none (some fn) = some st → exec (.ringSetupDestroy fn sq) s = .next (settled s
        (updFn fn (fun f => { f with busy := false, status := st }) s))))

/-- For every state and completion ring (there is one of each id), and every 8-byte doorbell value that is accepted: when index −
consumed, modulo 2^32, is at most written − consumed, modulo 2^32, the ring's consumed count becomes index and its count of
ignored values stays; otherwise its consumed count stays and one more value is counted as ignored. Neither changes what is
written, and a head doorbell's poll that returns a line with one slot of this ring has exactly this effect on the ring. (R336) -/
def Obligations.CqDoorbellTakesItsIndex : Prop :=
  ∀ (s : State) (fn : Nat) (line : BitVec 64) (q : Nat) (c : Cq) (bs : List Byte),
    awake s = true → s.bobbin.polls = [(fn, line)] → s.bobbin.pollQueue = [] → s.bobbin.cqs = [(q, c)] → c.dbHost = true → c.fn = fn → c.dbLine = line →
    (∀ x ∈ s.bobbin.sqs, sqOnLine fn line x.2 = false) →
    let b := (bs.drop (8 * c.dbSlot)).take 8
    let index := BitVec.ofNat 32 (field b 0 4)
    doorbellOk b c.alive = true →
    ∃ t c', exec (.doorbellPollReturn fn line (.data bs)) s = .next t ∧ NMap.get? t.bobbin.cqs q = some c' ∧
      ((index - c.consumed).toNat ≤ (c.written - c.consumed).toNat → c'.consumed = index ∧ c'.ignored = c.ignored) ∧
      (¬ (index - c.consumed).toNat ≤ (c.written - c.consumed).toNat → c'.consumed = c.consumed ∧ c'.ignored = c.ignored + 1)

/-- A poll of a line that a live doorbell uses issues one 64-byte read while fewer than 64 are outstanding, else waits and counts
as late; its return takes the doorbells of the line, and a failed return stops the rings of the line. A wake-up of a clean
watched line takes its doorbells. A fetch serves the next fetchable ring, up to 8 descriptors in one read, counting a
transient fault of the ring context and fencing the device on a lasting one. A host descriptor that arrives with a good check
and alive value, allowed for its ring and without an argument block, is dispatched; one with a bad check is read once more,
and the second time ends with ST_CHECK_MISMATCH and its sequence number. A completion timeout of a descriptor read stops its
ring; one of an argument block ends its command with ST_TIMEOUT. (R337, R339, R340, R342, R345, R346, R347, R348, R350) -/
def Obligations.DoorbellsAreTakenAndDescriptorsFetched : Prop :=
  ∀ (s : State), awake s = true →
    (∀ (fn : Nat) (line : BitVec 64),
      ((s.bobbin.sqs.any (fun q => sqOnLine fn line q.2) = true ∨ s.bobbin.cqs.any (fun q => cqOnLine fn line q.2) = true) → s.twin.state ≠ .fenced →
        (∃ f, NMap.get? s.bobbin.fns fn = some f ∧ f.bme = true) →
        (s.bobbin.polls.length < 64 → exec (.doorbellPoll fn line) s = .next (settled s
          { s with bobbin := { s.bobbin with polls := s.bobbin.polls ++ [(fn, line)] }, out := s.out ++ [.hostRead fn line 64] })) ∧
        (64 ≤ s.bobbin.polls.length → exec (.doorbellPoll fn line) s = .next (settled s
          { s with bobbin := { s.bobbin with pollQueue := s.bobbin.pollQueue ++ [(fn, line)], latePolls := s.bobbin.latePolls + 1 } }))) ∧
      (s.bobbin.polls.contains (fn, line) = true → s.bobbin.pollQueue = [] →
        let u := { s with bobbin := { s.bobbin with polls := removeOne (fn, line) s.bobbin.polls } }
        (∀ bs, exec (.doorbellPollReturn fn line (.data bs)) s = .next (settled s (takeLine (sqOnLine fn line) (cqOnLine fn line) bs u))) ∧
        exec (.doorbellPollReturn fn line .refused) s = .next (settled s
          (((u.bobbin.sqs.filter (fun q => sqOnLine fn line q.2 && !q.2.destroying)).map (·.1)).foldl (fun s sq => sqError sq stPermission s) u)))) ∧
    (∀ off, s.heddle.wakeups.contains off = true → lineStatus s off = stOk → cacheDirty s off = none →
      let on := fun (dbHost : Bool) (isle : Nat) (line : BitVec 64) => !dbHost && offOf s isle (line.toNat / 64 * 64) == some off
      exec (.watchedWakeup off) s = .next (settled s (takeLine (fun q => on q.dbHost q.isle q.dbLine) (fun q => on q.dbHost q.isle q.dbLine)
        (leBytes (readLine s off).toNat 64) { s with heddle := { s.heddle with wakeups := s.heddle.wakeups.filter (· != off) } }))) ∧
    (∀ sq q q' f, f ≠ Media.lasting → nextRing s = some sq → NMap.get? s.bobbin.sqs sq = some q → q.host = true →
      let c := if f = Media.transient then countTransient s else s
      let u := fetchRun sq 8 { c with bobbin := { s.bobbin with lastServed := sq } }
      NMap.get? u.bobbin.sqs sq = some q' →
      exec (.descriptorFetch f) s = .next (settled s (emit (.hostRead q.fn (q.base + BitVec.ofNat 64 (q.fetched.toNat % 2 ^ q.log2 * 64))
        (64 * (q'.fetched - q.fetched).toNat)) (noteRing sq u))) ∧
      exec (.descriptorFetch .lasting) s = .next (settled s (fenceFault 3 s))) ∧
    (∀ k c q bs, cmd? s k = some c → c.lead = none → c.desc = 0 → sqOf s k = some q → q.host = true → bs.length = 64 →
      let u := updCmd k (fun c => { c with desc := leVal bs, pages := [], fwd := [] }) s
      let d := leVal bs
      (crc crc32c (splice bs 12 [0, 0, 0, 0]) = field bs 12 4 → field bs 8 2 = k.seq.toNat % 65536 → bits d 20 12 = 0 → bits d 80 16 = 0 →
        assignedOps.contains (bits d 0 16) = true → (bits d 0 16 < 0x0F00 ∨ q.management = true) → isleActive u q.isle = true →
        descScheduled d = pickRing u k.sq → argRefOk q d = true → descArgBlock d = false →
        (c.phase = .fetching → exec (.descriptorArrival k (.data bs) .refused) s = .next (settled s (dispatchCmd k d [] false u))) ∧
        (c.phase = .rereading → exec (.descriptorReread k (.data bs) .refused) s = .next (settled s (dispatchCmd k d [] true u)))) ∧
      (crc crc32c (splice bs 12 [0, 0, 0, 0]) ≠ field bs 12 4 →
        (c.phase = .fetching → exec (.descriptorArrival k (.data bs) .refused) s = .next (settled s (readAgain k q u))) ∧
        (c.phase = .rereading → exec (.descriptorReread k (.data bs) .refused) s = .next (settled s
          (endCmd k stCheckMismatch k.seq.toNat (Config.freeWord u.free).toNat (nextFree u)))))) ∧
    (∀ k c q, cmd? s k = some c → c.lead = none → sqOf s k = some q → q.host = true → (c.phase = .fetching ∨ c.phase = .rereading) →
      (c.desc = 0 → exec (.completionTimeout k false) s = .next (settled s (sqReadFailed k stTimeout s))) ∧
      (c.desc ≠ 0 → refHost c.desc = true → exec (.completionTimeout k true) s = .next (settled s (endFree k stTimeout s))))

/-- The record of an ended command that is due is written with one 32-byte write at slot written mod depth, counts one record
written, gives back its reservation, counts towards the interrupt when the descriptor asks for one, and the command leaves
flight; when the write fails, every ring of the completion ring stops. A stopped ring whose commands are gone writes its
ring-error record once. A moderation time with counted records sends the vector. Unmasking a vector of the function sends it
when it was pending; enabling bus mastering does so for every unmasked pending vector and lets the function's host rings fetch
again. EVENT_POST only posts events. Enabling VFs makes 255 functions with their vectors; disabling them removes them. (R344,
R350, R351, R352, R353, R354, R355, R356, R359, 07_rings_and_doorbells.md) -/
def Obligations.RecordsAreWrittenAndVectorsSent : Prop :=
  ∀ (s : State), awake s = true →
    (∀ k c q cq, cmd? s k = some c → sqOf s k = some q → recordDue s c = true → NMap.get? s.bobbin.cqs q.cq = some cq → cq.broken = false → cq.host = true →
      (let w := updCq q.cq (fun c => { c with written := c.written + 1 }) (emit (.hostWrite cq.fn
          (cq.base + BitVec.ofNat 64 (cq.written.toNat % 2 ^ cq.log2 * 32)) (cmdRecord s c cq cq.written.toNat)) s)
        let g := giveSlot q.cq (appendCommit k w)
        exec (.completionWrite k true) s = .next (settled s
          (leaveFlight k (if descInterrupt c.desc || c.forceIrq then countIrq q.cq g else g)))) ∧
      exec (.completionWrite k false) s = .next (settled s
        (leaveFlight k (cqBroken q.cq ((Config.freeWord s.free).toNat % 65536) (appendCommit k (nextFree s)))))) ∧
    (∀ sq q cq cause, NMap.get? s.bobbin.sqs sq = some q → NMap.get? s.bobbin.cqs q.cq = some cq → q.err = some cause → q.errRecord = true →
      ringCmds s sq = [] → cq.free = true → cq.host = true →
      let w := updCq q.cq (fun c => { c with written := c.written + 1 }) (emit (.hostWrite cq.fn
        (cq.base + BitVec.ofNat 64 (cq.written.toNat % 2 ^ cq.log2 * 32))
        (recordBytes 1 cause (cq.written.toNat % 65536) (recordFlags (recordPhase cq.written.toNat cq.log2) false true) 0 (sq % 4096)
          (baseOf s sq).toNat 0 s.treadle.beat.toNat)) s)
      exec (.ringErrorRecord sq true) s = .next (settled s
        (noteCq q.cq (ringErrorEvent sq (updSq sq (fun q => { q with errRecord := false }) (countIrq q.cq w)))))) ∧
    (∀ q cq, NMap.get? s.bobbin.cqs q = some cq → cq.msixEn = true → cq.modTime ≠ 0 → 0 < cq.counted →
      exec (.msixModerationTimeout q) s = .next (settled s (sendMsix cq.fn cq.msixVector (updCq q (fun c => { c with counted := 0 }) s)))) ∧
    (∀ fn vec f, NMap.get? s.bobbin.fns fn = some f →
      (vec < f.vectors →
        let m := NMap.getD f.msix vec Msix.reset
        let u := updFn fn (fun f => { f with msix := NMap.set f.msix vec { m with masked := false, pending := false } }) s
        exec (.msixUnmask fn vec) s = .next (settled s (if m.pending then sendMsix fn vec u else u))) ∧
      ((∀ m ∈ f.msix, m.2.pending = false ∨ m.2.masked = true) →
        let u := updFn fn (fun f => { f with bme := true }) s
        exec (.busMasterEnableSet fn) s = .next (settled s { u with bobbin := { u.bobbin with
          sqs := u.bobbin.sqs.map (fun q => if q.2.fn = fn ∧ q.2.host then (q.1, { q.2 with awaitBme := false }) else q) } }))) ∧
    exec .eventPost s = .next (settled s s) ∧
    (s.bobbin.vfEnable = false → exec (.vfEnableChange true) s = .next (settled s { s with bobbin := { s.bobbin with
      vfEnable := true
      fns := s.bobbin.fns.filter (fun f => f.1 == 0) ++ (List.range 255).map (fun i => (i + 1, Fn.reset (msixCount s (i + 1)))) } })) ∧
    (s.bobbin.vfEnable = true → exec (.vfEnableChange false) s = .next (settled s (pumpAll (removeVfs s))))

/-- On an unsealed device: a seal write whose four checks pass sets the seal. HED_MODE takes its mode while no entry has caching
set; a VF binding is written while the VF owns no ring; a vector count is written when the sum stays within 2,048 and VFs are
disabled. Enabling a disabled port and disabling an enabled one set its controls and start or stop it. A binding's two words
are written in turn. A source selection turns the reference; a domain's source is flipped at once when forced without a unit,
else when the switch is done. A format of an unoccupied flash area empties it and begins; its end makes the flash formatted
with fresh spares. Alert bits written 1 are cleared, sealed or not. (R6, R783, R798, R804, R806, R807, R808, R809,
16_clocks_power_and_reset.md, 18_setup_registers.md) -/
def Obligations.SetupWritesTakeEffectBeforeTheSeal : Prop :=
  ∀ (s : State), awake s = true →
    (∀ v : BitVec 32, v.getLsbD 0 = true → s.harbour.sealed = false → sealCause s = 0 →
      exec (.sealWrite v) s = .next (settled s { s with harbour := { s.harbour with sealed := true } })) ∧
    (∀ v : BitVec 32, exec (.alertClear v) s = .next (settled s { s with thermal := { s.thermal with
      warn := s.thermal.warn && !v.getLsbD 0, throttle := s.thermal.throttle && !v.getLsbD 1 } })) ∧
    (s.harbour.sealed = false →
      (∀ v : BitVec 32, (∀ b ∈ s.links.binds, b.2.toNat.testBit 35 = false) →
        exec (.hedModeWrite v) s = .next (settled s { s with heddle := { s.heddle with broadcast := v.getLsbD 0 } })) ∧
      (∀ (vf : Nat) (v : BitVec 32), vfOwnsRing s vf = false →
        let w := v.toNat % 2 ^ 14 + (v.toNat.testBit 15).toNat * 2 ^ 15
        vfBindOk w = true → BitVec.ofNat 32 w ≠ NMap.getD s.links.vfBinds vf 0 →
        exec (.vfBindWrite vf v) s = .next (settled s (putVfBind vf (BitVec.ofNat 32 w) s))) ∧
      (∀ (fn : Nat) (v : BitVec 32), (fn = 0 ∨ s.bobbin.vfEnable = false) → v.toNat % 4096 ≠ 0 →
        msixSum s - msixCount s fn + v.toNat % 4096 ≤ 2048 →
        exec (.msixAllocWrite fn v) s = .next (settled s
          { s with bobbin := { s.bobbin with msixAlloc := NMap.set s.bobbin.msixAlloc fn (v.toNat % 4096) } })) ∧
      (∀ (n : Nat) (v : BitVec 32) (p : Port), port? s n = some p →
        let u := updPort n (fun p => { p with beatOut := v.toNat.testBit 1, allowX4 := v.toNat.testBit 2 }) s
        (p.enable = false → v.toNat.testBit 0 = true → exec (.portEnable n v) s = .next (settled s (enablePort n u))) ∧
        (p.enable = true → v.toNat.testBit 0 = false → exec (.portDisable n v) s = .next (settled s (disablePort n u)))) ∧
      (∀ (port entry : Nat) (v : BitVec 64), exec (.strBindWrite port entry v) s =
        .next (settled s (writeBindWord port entry 1 (v.toNat / 2 ^ 32) (writeBindWord port entry 0 (v.toNat % 2 ^ 32) s)))) ∧
      (∀ v : BitVec 32, s.clocks.refSel = false → v.toNat.testBit 0 = true → v.toNat / 2 % 32 < 24 →
        exec (.refSelectWrite v) s = .next (settled s (takeLane { s with clocks := { s.clocks with
          refSel := true, timingPort := v.toNat / 2 % 32, trimSrc := v.toNat.testBit 6, force := v.toNat.testBit 7 } }))) ∧
      (∀ (d : Nat) (v : BitVec 32), d < 100 → s.clocks.domReset.getLsbD d = false → v.getLsbD 0 ≠ s.clocks.domSel.getLsbD d →
        let u := { s with clocks := { s.clocks with domForce := putBit s.clocks.domForce d (v.getLsbD 1) } }
        (v.getLsbD 1 = false → exec (.domainSelectWrite d v) s = .next (settled s
          { u with clocks := { u.clocks with domPending := putBit u.clocks.domPending d true } })) ∧
        (v.getLsbD 1 = true → domainUnit d = none → exec (.domainSelectWrite d v) s = .next (settled s (flipDomain d u)))) ∧
      (∀ v : BitVec 32, v.getLsbD 2 = true → v.toNat % 4 < 2 → mayFormat s = true →
        exec (.flashFormat v) s = .next (settled s { s with
          flash := { s.flash with opSelect := v.toNat % 4, formatted := false, formatting := true, opApplied := v.toNat % 4 }
          store := { s.store with cells := s.store.cells.filter (fun c => c.1 < 2 ^ 48)
                                  poison := s.store.poison.filter (· < 2 ^ 48), lost := s.store.lost.filter (· < 2 ^ 48) } }))) ∧
    (s.flash.formatting = true → exec .flashFormatDone s = .next (settled s (freshSpares { s with
      flash := { s.flash with formatting := false, formatted := true, rawGib := rawGib s } }))) ∧
    ((∀ d, s.clocks.domPending.getLsbD d = true → s.clocks.oscAlive = true → s.clocks.rootAlive = true →
        exec (.clockSwitchDone (some d)) s = .next (settled s (flipDomain d s))) ∧
      (s.clocks.switchPending = true → refAlive s = true → otherAlive s = true →
        exec (.clockSwitchDone none) s = .next (settled s
          { s with clocks := { s.clocks with refIsLane := !s.clocks.refIsLane, switchPending := false } })))

/-- On a sealed device every write of the port controls, the Strait bindings, HED_MODE, the VF bindings, the source and domain
selections and the seal leaves the state as it was (but for held events that are posted), and MSI-X allocation, HBR_CFG_GO,
ports_go and format at most count a refused write; every field that such a write could set is unchanged. (R6, R7, R17, R361,
R810, 18_setup_registers.md) -/
def Obligations.SealedDeviceKeepsItsSetup : Prop :=
  ∀ (s : State), awake s = true → s.harbour.sealed = true →
    (∀ n v, exec (.portEnable n v) s = .next (settled s s) ∧ exec (.portDisable n v) s = .next (settled s s)) ∧
    (∀ p e v, exec (.strBindWrite p e v) s = .next (settled s s)) ∧
    (∀ v, exec (.hedModeWrite v) s = .next (settled s s) ∧ exec (.sealWrite v) s = .next (settled s s) ∧
      exec (.refSelectWrite v) s = .next (settled s s)) ∧
    (∀ n v, exec (.vfBindWrite n v) s = .next (settled s s) ∧ exec (.domainSelectWrite n v) s = .next (settled s s)) ∧
    (∀ fn v blob, ∀ c ∈ [Instr.msixAllocWrite fn v, .cfgGo v blob, .portsGo v, .flashFormat v],
      exec c s = .next (settled s s) ∨ exec c s = .next (settled s { s with harbour := { s.harbour with
        refusedWrites := satInc s.harbour.refusedWrites 255 } }))

/-- For every awake, unsealed device without an ACTIVE management ring and every value with bit 0 set: the write of HBR_SEAL
leaves the seal clear and changes nothing but the setup status register, in which the count of refused seals is one more (it
stays at 255 once there) and the cause recorded is 1. This holds for the row and for a write of the register through BAR0.
(R361) -/
def Obligations.SealNeedsAManagementRing : Prop :=
  ∀ (s : State) (v : BitVec 32), awake s = true → s.harbour.sealed = false → v.getLsbD 0 = true →
    (∀ q ∈ s.bobbin.sqs, ¬ (q.2.management = true ∧ q.2.active = true)) →
    let t := { s with harbour := { s.harbour with
      sealRefusals := if s.harbour.sealRefusals < 255 then s.harbour.sealRefusals + 1 else s.harbour.sealRefusals, lastCause := 1 } }
    exec (.sealWrite v) s = .next (settled s t) ∧ exec (.registerWrite 0 4 4 (v.setWidth 64)) s = .next (settled s t) ∧
    t.harbour.sealed = false ∧ (s.harbour.sealRefusals < 255 → readReg t 0x8 % 2 ^ 8 = readReg s 0x8 % 2 ^ 8 + 1)

/-- For every awake device with VF Enable 1, every VF number 1 to 255 and every value: the write of its allocation register, as
the row and as a 4-byte write of BAR0, changes nothing but refused_writes, which counts one more (it stays at 255 once there).
(R805) -/
def Obligations.MsixAllocationIsFixedWhileVfsAreEnabled : Prop :=
  ∀ (s : State) (vf : Nat) (v : BitVec 32), awake s = true → s.bobbin.vfEnable = true → 1 ≤ vf → vf ≤ 255 →
    let t := { s with harbour := { s.harbour with
      refusedWrites := if s.harbour.refusedWrites < 255 then s.harbour.refusedWrites + 1 else s.harbour.refusedWrites } }
    exec (.msixAllocWrite vf v) s = .next (settled s t) ∧ exec (.registerWrite 0 (0x302000 + 4 * vf) 4 (v.setWidth 64)) s = .next (settled s t)

/-- A 4-byte read of TRD_BEAT_LO returns bits [31:0] of the beat and latches bits [47:32]; one of CSW_EPOCH_LO returns bits [31:0]
of the epoch and latches bits [63:32]. A 4-byte BAR0 write performs the register's write, an 8-byte one the low word's and
then the high word's. An access of another size or alignment does neither: a read returns zero, and on PF0 the access is
counted in bad_access. A write to a register of read-only registers, HBR_ID and the beat counter, changes nothing. (R5, R6,
R9, R795, R796, R797, 18_setup_registers.md) -/
def Obligations.RegisterAccessesReadLatchAndWrite : Prop :=
  ∀ (s : State), awake s = true →
    exec (.trdBeatLoRead 4) s = .next (settled s (emit (.regRead (BitVec.ofNat 64 (readReg s 0x700010)))
      { s with treadle := { s.treadle with latch := BitVec.ofNat 16 (s.treadle.beat.toNat / 2 ^ 32) } })) ∧
    readReg s 0x700010 = s.treadle.beat.toNat % 2 ^ 32 ∧
    exec (.cswEpochLoRead 4) s = .next (settled s (emit (.regRead (BitVec.ofNat 64 (readReg s 0xA20010)))
      { s with pool := { s.pool with epochLatch := BitVec.ofNat 32 (s.pool.epoch.toNat / 2 ^ 32) } })) ∧
    readReg s 0xA20010 = s.pool.epoch.toNat % 2 ^ 32 ∧
    (∀ size, size ≠ 4 → size ≠ 8 → exec (.trdBeatLoRead size) s = .next (settled s (emit (.regRead 0)
      { s with harbour := { s.harbour with badAccess := satInc s.harbour.badAccess 255 } }))) ∧
    (∀ fn off v, off % 4 = 0 → exec (.registerWrite fn off 4 v) s = .next (settled s (writeBar0 fn off (v.toNat % 2 ^ 32) s))) ∧
    (∀ fn off v, off % 8 = 0 → exec (.registerWrite fn off 8 v) s = .next (settled s
      (writeBar0 fn (off + 4) (v.toNat / 2 ^ 32) (writeBar0 fn off (v.toNat % 2 ^ 32) s)))) ∧
    (∀ off size v, accessOk off size = false → exec (.registerWrite 0 off size v) s = .next (settled s
      { s with harbour := { s.harbour with badAccess := satInc s.harbour.badAccess 255 } })) ∧
    (∀ v, exec (.registerWrite 0 0x0 4 v) s = .next (settled s s) ∧ exec (.registerWrite 0 0x700010 4 v) s = .next (settled s s))

/-- PWRGD's rise leaves the reset state of a device, powered, with a fresh isle 0 key and its kept journal; its fall leaves it
unpowered. RESET_N held low enters a warm reset, which clears the seal, loses rings, plans, commands and the transport key,
and keeps the map, isle ids and own pool id; its rise, at once or at the end of the entry, takes the device out, every agent
lost. A due power-up step does its work and is counted. HBR_FW_GO fetches a well-placed image; a fetched image is verified or
refused with its cause; a verified image starts. HBR_CFG_GO loads a blob and its digest; ports_go is set with its stagger.
PERST# and an FLR reset the functions they reach. (R757, R758, R759, R761, R762, R764, R765, R778, R799, R800, R803,
notes/assumptions/47.md) -/
def Obligations.ResetsPowerAndBootTakeTheirSteps : Prop :=
  ∀ s : State,
    (∀ draw, s.pool.pwrgd = false → let u := unpowered s
      exec (.coldReset draw) s = .next (settled s { u with
        harbour := { u.harbour with resetKind := 1, isle0Key := draw % 2 ^ 512 }
        pool := { u.pool with pwrgd := true, enumOut := if u.pool.resetN then some false else none } })) ∧
    (s.pool.pwrgd = true → exec .powerOff s = .next (settled s (unpowered (interruptAll s)))) ∧
    ((unpowered s).isles = [] ∧ (unpowered s).store.cells = [] ∧ (unpowered s).pool.id = 0xFFF ∧ (unpowered s).harbour.sealed = false) ∧
    (s.pool.pwrgd = true → s.harbour.inEntry = false → s.pool.resetN = true → exec .warmReset s = .next (settled s (warmReset s))) ∧
    ((warmReset s).harbour.sealed = false ∧ (warmReset s).bobbin.sqs = [] ∧ (warmReset s).bobbin.cmds = [] ∧ (warmReset s).treadle.plans = [] ∧
      (warmReset s).trust.transport = none ∧ (warmReset s).maps.prev = none ∧ (warmReset s).pool.pwrgd = true ∧ (warmReset s).pool.resetN = false) ∧
    (s.pool.pwrgd = true → s.pool.resetN = false →
      (s.harbour.inEntry = false → exec .resetNRise s = .next (settled s (resetRise s))) ∧
      (s.harbour.inEntry = true → exec .resetNRise s = .next (settled s { s with harbour := { s.harbour with entryRise := true } })) ∧
      (s.harbour.inEntry = true → s.harbour.entryRise = true → exec .resetEntryEnd s = .next (settled s (resetRise s))) ∧
      (s.harbour.inEntry = true → s.harbour.entryRise = false →
        exec .resetEntryEnd s = .next (settled s { s with harbour := { s.harbour with inEntry := false } }))) ∧
    (awake s = true →
      (∀ n found, stepDue s n = true →
        let u := powerStep n found s
        let v := settleStart { u with clocks := { u.clocks with stepDone := n } }
        exec (.powerupStep n found) s = .next (settled s (if n = 10 ∧ v.clocks.portsGo = true then startGroup v else v))) ∧
      (∀ v : BitVec 32, v.getLsbD 0 = true → (s.harbour.boot = 0 ∨ s.harbour.boot = 4) → s.harbour.fwAddr.toNat % 64 = 0 → s.harbour.fwLen.toNat % 64 = 0 →
        (∃ f, NMap.get? s.bobbin.fns 0 = some f ∧ f.bme = true) →
        exec (.fwGo v) s = .next (settled s (emit (.hostRead 0 s.harbour.fwAddr s.harbour.fwLen.toNat)
          { s with harbour := { s.harbour with boot := 1 } }))) ∧
      (∀ bs, s.harbour.boot = 1 → bs.length = s.harbour.fwLen.toNat →
        exec (.fwImageVerify 0 (.data bs)) s = .next (settled s (verifyFrom 0 bs s)) ∧
        (imageFault bs = 0 → verifyFrom 0 bs s = acceptImage 0 bs s) ∧
        (imageFault bs ≠ 0 → verifyFrom 0 bs s = { s with harbour := { s.harbour with
          boot := 4, bootCause := imageFault bs, bootRefusals := satInc s.harbour.bootRefusals 255, verified := false } })) ∧
      (∀ base, s.harbour.verified = true → s.harbour.boot = 2 → 1 ≤ s.clocks.stepDone → 0x2FE2600000 ≤ base → base < 0x3000000000 →
        exec (.firmwareStart base) s = .next (settled s (startFirmware base s))) ∧
      (∀ (v : BitVec 32) bs, v.getLsbD 0 = true → s.harbour.sealed = false → s.harbour.cfgAddr.toNat % 64 = 0 → bs.length = 4096 →
        exec (.cfgGo v (.data bs)) s = .next (settled s (emit (.hostRead 0 s.harbour.cfgAddr 4096)
          { s with harbour := { s.harbour with blob := some bs, digest := leVal (sha256 bs) } }))) ∧
      (∀ v : BitVec 32, v.getLsbD 0 = true → s.harbour.sealed = false → s.clocks.portsGo = false → s.clocks.stepDone < 10 →
        let per := v.toNat / 2 % 8
        let us := v.toNat / 2 ^ 8 % 2 ^ 14
        exec (.portsGo v) s = .next (settled s { s with clocks := { s.clocks with
          perStep := if 1 ≤ per ∧ per ≤ 4 then per else s.clocks.perStep
          stepUs := if 1000 ≤ us ∧ us ≤ 10000 then us else s.clocks.stepUs, portsGo := true } })) ∧
      exec .perst s = .next (settled s (pumpAll (resetPf (removeVfs s)))) ∧
      exec (.flr 0) s = .next (settled s (pumpAll (resetPf s))) ∧
      (∀ fn, fn ≠ 0 → exec (.flr fn) s = .next (settled s (pumpAll (resetVf fn s)))))

/-- For an awake device: a command to an address at which the device does not answer changes nothing. At its address READ_ID
answers HBR_ID; SET_POOL_ID and SET_ADDR record their value where the token is held, the device has no pool id and the value
is admitted; COMMIT with both recorded takes the pool id, drives ENUM_OUT high and starts the claim; READ_STATUS of a
committed device answers eight bytes. Where the command's condition fails, the command is not acknowledged and nothing else
changes. The device answers at 0x2C while it holds the token without a pool id and, once committed, at the address it was
given alone. ENUM_IN is taken as high by a powered device, and as low. That bits [15:12] of SET_POOL_ID's word are not looked
at is the model's reading (log 46). (R778, R779, R813, R814, R648, 17_package_pins_and_limits.md, 18_setup_registers.md,
notes/assumptions/46.md) -/
def Obligations.SmbusCommandsAnswerAndCommit : Prop :=
  ∀ s : State,
    (awake s = true →
      (∀ b : Smb, smbAnswers s b.addr = false → ∀ (v : BitVec 16) (a : BitVec 8),
        exec (.readId b) s = .next (settled s s) ∧ exec (.setPoolId b v) s = .next (settled s s) ∧ exec (.setAddr b a) s = .next (settled s s) ∧
        exec (.commit b) s = .next (settled s s) ∧ exec (.readStatus b) s = .next (settled s s)) ∧
      (∀ b : Smb, smbAnswers s b.addr = true → b.pecOk = true →
        let token := s.pool.enumIn = true ∧ s.pool.enumOut = some false ∧ s.pool.id = 0xFFF
        exec (.readId b) s = .next (settled s (emit (.smbus (some [0x12, 0x64, 0xA1, 0x4B])) s)) ∧
        (∀ v : BitVec 16, exec (.setPoolId b v) s = .next (settled s
          (if token ∧ v.toNat % 4096 ≠ 0xFFF then
            emit (.smbus (some [])) { s with pool := { s.pool with smbPool := some (v.toNat % 4096) } }
          else emit (.smbus none) s))) ∧
        (∀ a : BitVec 8, exec (.setAddr b a) s = .next (settled s
          (if token ∧ 0x08 ≤ a.toNat ∧ a.toNat ≤ 0x77 ∧ a.toNat ≠ 0x2C then
            emit (.smbus (some [])) { s with pool := { s.pool with smbAddr := some a.toNat } }
          else emit (.smbus none) s))) ∧
        (∀ p q, s.pool.smbPool = some p → s.pool.smbAddr = some q → exec (.commit b) s = .next (settled s
          (emit (.smbus (some [])) (startClaim noPort { s with pool := { s.pool with id := p, committed := true, enumOut := some true } })))) ∧
        (s.pool.smbPool = none ∨ s.pool.smbAddr = none → exec (.commit b) s = .next (settled s (emit (.smbus none) s))) ∧
        (s.pool.committed = true → exec (.readStatus b) s = .next (settled s (emit (.smbus (some (smbStatus s))) s)) ∧ (smbStatus s).length = 8) ∧
        (s.pool.committed = false → exec (.readStatus b) s = .next (settled s (emit (.smbus none) s)))) ∧
      (∀ b : Smb, smbAnswers s b.addr = true → b.pecOk = false → ∀ (v : BitVec 16) (a : BitVec 8),
        let no := emit (.smbus none) s
        exec (.readId b) s = .next (settled s no) ∧ exec (.setPoolId b v) s = .next (settled s no) ∧ exec (.setAddr b a) s = .next (settled s no) ∧
        exec (.commit b) s = .next (settled s no) ∧ exec (.readStatus b) s = .next (settled s no))) ∧
    (∀ a, 1 ≤ s.clocks.stepDone →
      (s.pool.committed = true → (smbAnswers s a = true ↔ s.pool.smbAddr = some a)) ∧
      (s.pool.committed = false →
        (smbAnswers s a = true ↔ a = 0x2C ∧ s.pool.enumIn = true ∧ s.pool.enumOut = some false ∧ s.pool.id = 0xFFF))) ∧
    (s.pool.pwrgd = true → exec .enumTokenReceived s = .next (settled s { s with pool := { s.pool with enumIn := true } })) ∧
    exec .enumInLow s = .next (settled s { s with pool := { s.pool with enumIn := false } })

/-- For an awake device: the PLL leaves holdover when it locks to a live reference with no switch pending; the trim is taken while
the trim's reference is alive; a lost timing lane posts CLK_REF_LOST, puts the PLL in holdover and switches to the oscillator
by a forced select; a lost oscillator posts CLK_REF_LOST and leaves the PLL in holdover; ten ms of a live timing lane return
the reference to it, by a glitch-free switch where the oscillator is alive and by a forced one else. A stop of the root stops
it, drives ALERT_N, idles every transmitter and marks the journal with cause 4. VDD_LOOM moves to a setpoint between its least
admitted value (735 mV at least while a plan is STARTED) and its ceiling. A sample of the sensors starts a warning above 105
°C (Tj) or 95 °C (HBM) and the throttle at 115 °C, each action ending 5 °C below its start. A trip idles every transmitter;
running firmware journals cause 3. (R743, R744, R747, R748, R750, R755, R790, R791, R792, R793, 16_clocks_power_and_reset.md,
17_package_pins_and_limits.md) -/
def Obligations.ClockAndThermalEventsComplete : Prop :=
  ∀ s : State,
    (awake s = true →
      (s.clocks.switchPending = false → refAlive s = true →
        exec .pllLocked s = .next (settled s { s with clocks := { s.clocks with pllLocked := true, holdover := false } })) ∧
      (∀ code, (if s.clocks.trimSrc = true then s.treadle.locked = true ∧ s.treadle.unsynced = false else s.clocks.refclkAlive = true) →
        exec (.oscTrim code) s = .next (settled s { s with clocks := { s.clocks with trim := code } })) ∧
      (∀ cause, cause = 1 ∨ cause = 2 →
        let u := raise (event 0x0A01 (if s.clocks.refIsLane = true then s.clocks.timingPort else 31) 0 cause 0) s
        (s.clocks.refIsLane = true →
          exec (.clkRefLost cause) s = .next (settled s (raise (event 0x0A02 31 0 2 0) { u with clocks := { u.clocks with
            laneAlive := u.clocks.laneAlive &&& ~~~(1 <<< u.clocks.timingPort : BitVec 24)
            refIsLane := false, switchPending := false, holdover := true, pllLocked := false } }))) ∧
        (s.clocks.refIsLane = false →
          exec (.clkRefLost cause) s = .next (settled s { u with clocks := { u.clocks with oscAlive := false, holdover := true, pllLocked := false } }))) ∧
      (s.clocks.refSel = true → s.clocks.refIsLane = false → s.clocks.switchPending = false → portUp s s.clocks.timingPort = true →
        let lane := s.clocks.laneAlive ||| (1 <<< s.clocks.timingPort : BitVec 24)
        (s.clocks.oscAlive = true → exec .refSwitchBack s = .next (settled s (raise (event 0x0A02 s.clocks.timingPort 0 1 0)
          { s with clocks := { s.clocks with laneAlive := lane, refIsLane := true } }))) ∧
        (s.clocks.oscAlive = false → exec .refSwitchBack s = .next (settled s (raise (event 0x0A02 s.clocks.timingPort 0 2 0)
          { s with clocks := { s.clocks with laneAlive := lane, refIsLane := true, switchPending := false, holdover := true, pllLocked := false } })))) ∧
      exec .rootStopped s = .next (settled s
        { s with
          clocks := { s.clocks with rootAlive := false, pllLocked := false }
          pool := { s.pool with rootAlert := true }
          harbour := { s.harbour with jCause := 4 }
          links := { s.links with ports := s.links.ports.map (fun p => (p.1, { p.2 with txIdle := true })) } }) ∧
      (∀ mv, s.harbour.boot = 3 → s.clocks.floor ≤ mv → ((∃ p ∈ s.treadle.plans, p.2.state = .started) → 735 ≤ mv) → mv ≤ s.clocks.ceiling →
        mv % 5 = s.clocks.vloom % 5 →
        exec (.vloomAdjust mv) s = .next (settled s { s with clocks := { s.clocks with vloom := mv } })) ∧
      (∀ tj hbm,
        let t := s.thermal
        let wt := if t.warnTj = true then decide (1000 < tj.tenths) else decide (1050 < tj.tenths)
        let wh := if t.warnHbm = true then decide (900 < hbm.tenths) else decide (950 < hbm.tenths)
        let th := if t.throttled = true then decide (1100 < tj.tenths) else decide (1150 ≤ tj.tenths)
        let rf := if t.refresh2x = true then decide (800 < hbm.tenths) else decide (850 < hbm.tenths)
        let u := { s with thermal := { t with tj := tj, hbm := hbm, warnTj := wt, warnHbm := wh, throttled := th, refresh2x := rf } }
        let v := if t.warnTj = false ∧ t.warnHbm = false ∧ (wt = true ∨ wh = true) then startWarning (if wt = true then tj else hbm) u else u
        exec (.thermalSample tj hbm) s = .next (settled s (if t.throttled = false ∧ th = true then startThrottle tj v else v)))) ∧
    (s.pool.pwrgd = true → s.pool.tripped = false →
      exec .thermalTrip s = .next (settled s
        { s with
          pool := { s.pool with tripped := true }
          harbour := if s.harbour.boot = 3 ∧ awake s = true then { s.harbour with jCause := 3 } else s.harbour
          links := { s.links with ports := s.links.ports.map (fun p => (p.1, { p.2 with txIdle := true, state := 0 })) } }))

/-- For an awake device and a port n in state p: an enabled, started port in state DOWN whose transmitters send begins an attempt
when it detects signal. A port in training comes up, at ×8 with no retired half and at ×4 else, with full credits and its
failures cleared: after a training from step 1 it exchanges HELLO, after a fall-back it posts LANE_RETIRED; its PORT_RETRAIN
completes with the state and the retired lanes; the claim, the timing lane and the plans that no longer fit follow. A third
failed attempt fails the port with cause 2; an earlier one begins the next. Loss of signal takes a started port down. RETRAIN
takes an up port to training on all lanes. RETIRE_REQ at ×8 answers RETIRE_ACK and falls back to ×4, or fails a port with
allow_x4 clear (log 35); RETIRE_ACK of a half asked for falls back. ECHO is answered, its reply is summed, and link adaptation
stores a delay that moved by more than 0.5 ns. (R632, R633, R636, R637, R639, R642, R654, 13_strait_links.md,
notes/assumptions/35.md) -/
def Obligations.PortsTrainUpFallBackAndFail : Prop :=
  ∀ (s : State) (n : Nat), awake s = true →
    (∀ p, port? s n = some p →
      (p.enable = true → p.started = true → p.txIdle = false → p.state = 0 →
        exec (.signalDetect n) s = .next (settled s (updPort n (fun p => { p with state := 1, los := false, attempts := satInc p.attempts 255 }) s))) ∧
      (∀ half reversed delay, p.state = 1 → p.enable = true →
        let retired := p.retired ||| (match half with | some 0 => 0xF0 | some _ => 0x0F | none => 0)
        retired ≠ 0xFF →
        let q : Port := { p with
          state := if retired = 0 then 2 else 3, retired := retired, reversed := reversed, los := false, failures := 0
          warm := false, fallback := false, suspended := false, retiring := none, cmd := none, credit := fullCredit, echoes := (0, 0) }
        let done := fun u => match p.cmd with | some k => endCmd k 0 q.state retired.toNat u | none => u
        let after := fun u => pumpAll (takeLane (startClaim n (fitAfter n (done u))))
        (p.fallback = false → p.warm = false → exec (.portUp n half reversed delay) s = .next (settled s (after (sendHello n (watchLane n (updPort n (fun _ =>
          { q with delay := BitVec.ofNat 24 delay, rxSeq := 0x3FF, acked := 0x3FF, failing := none, replayFrom := none }) s)))))) ∧
        (p.fallback = false → p.warm = true → exec (.portUp n half reversed delay) s = .next (settled s (after (sendHello n (watchLane n (updPort n (fun _ =>
          { q with delay := BitVec.ofNat 24 delay, replayFrom := some ((p.acked + 1) % 1024) }) s)))))) ∧
        (p.fallback = true → ∀ own lane, p.retiring = some (own, some lane) →
          let u := watchLane n (updPort n (fun _ => { q with replayFrom := some ((p.acked + 1) % 1024) }) s)
          exec (.portUp n half reversed delay) s = .next (settled s (after (raise (event 0x0702 n (partnerOf u n) retired.toNat lane) (nextFree u)))))) ∧
      (p.state = 1 →
        (p.failures < 2 → exec (.trainingFailed n) s = .next (settled s (updPort n (fun p => beginAttempt { p with failures := p.failures + 1 }) s))) ∧
        (2 ≤ p.failures → exec (.trainingFailed n) s = .next (settled s (failPort n 2 (updPort n (fun p => { p with failures := p.failures + 1 }) s))))) ∧
      (p.started = true → p.los = false → exec (.lossOfSignal n) s = .next (settled s (loseSignal n s))) ∧
      (∀ half, p.state = 2 → half ≤ 1 →
        let own := if p.reversed = true then 1 - half else half
        (p.allowX4 = true → exec (.retireReq n half) s = .next (settled s
          (fallBack n own (emit (.control n 4 own 0) (updPort n (fun p => { p with retiring := some (own, none) }) s))))) ∧
        (p.allowX4 = false → exec (.retireReq n half) s = .next (settled s (failPort n 3 s))) ∧
        (∀ h l, p.retiring = some (h, some l) → exec (.retireAck n half) s = .next (settled s (fallBack n h s))))) ∧
    (portUp s n = true →
      exec (.retrain n) s = .next (settled s (watchLane n (updPort n (fun p =>
        beginAttempt { p with retired := 0, warm := true, fallback := false, suspended := true, retiring := none }) s))) ∧
      (∀ stamp, exec (.echo n stamp) s = .next (settled s (emit (.control n 2 0 stamp) s)) ∧
        ∀ d, exec (.echoReply n stamp d) s = .next (settled s (updPort n (fun p => { p with echoes := (p.echoes.1 + 1, p.echoes.2 + d) }) s))) ∧
      (∀ d, exec (.linkAdaptation n d) s = .next (settled s (updPort n (fun p =>
        { p with echoes := (0, 0), delay := if 8 < Int.natAbs (p.delay.toNat - d : Int) then BitVec.ofNat 24 d else p.delay }) s))))

/-- For an awake device and an up port that retires no half: with no failed flit awaited, a flit with a good CRC whose seq is the
awaited one (payload) or the last good one (others) is taken, its acknowledgement, nak and credit applied; any other is
discarded and answered with a nak of the last good seq, and the awaited seq is remembered as failing. While a flit is failing,
every flit but its replayed copy is discarded; the copy with a good CRC is taken and counted in STR_REPLAY_COUNT; a copy that
fails again is a lasting fault: at ×8 with allow_x4 set the device asks to retire the half that holds the faulty lane, and
otherwise the port fails with cause 3. That flits the device sends are not composed is the model's choice (log 30). (R634,
R635, R636, R637, 13_strait_links.md, notes/assumptions/30.md) -/
def Obligations.FlitsAreTakenInOrderAndReplayed : Prop :=
  ∀ (s : State) (n : Nat) (p : Port) (f : Flit), awake s = true → port? s n = some p → portUp s n = true → f.ftype ≠ 3 → p.retiring = none →
    let awaited := (p.rxSeq + 1) % 1024
    (p.failing = none →
      (f.ftype = 1 → f.crcOk = true → f.seq % 1024 = awaited →
        exec (.flitReceive n f) s = .next (settled s (updPort n (fun p => { takeHeader f p with rxSeq := awaited }) s))) ∧
      (f.ftype ≠ 1 → f.crcOk = true → f.seq % 1024 = p.rxSeq →
        exec (.flitReceive n f) s = .next (settled s (updPort n (fun p => { takeHeader f p with rxSeq := p.rxSeq }) s))) ∧
      (f.crcOk = false ∨ f.seq % 1024 ≠ (if f.ftype = 1 then awaited else p.rxSeq) →
        exec (.flitReceive n f) s = .next (settled s (emit (.nak n p.rxSeq) (updPort n (fun p => { p with failing := some awaited }) s))))) ∧
    (∀ m, p.failing = some m →
      (f.ftype ≠ 1 ∨ f.seq % 1024 ≠ m → exec (.flitReceive n f) s = .next (settled s s)) ∧
      (f.ftype = 1 → f.seq % 1024 = m → f.crcOk = true →
        exec (.flitReceive n f) s = .next (settled s (updPort n (fun p => { takeHeader f p with rxSeq := m, failing := none, replays := p.replays + 1 }) s))) ∧
      (f.ftype = 1 → f.seq % 1024 = m → f.crcOk = false → p.state = 2 → p.allowX4 = true →
        let half := if f.badLane % 8 < 4 then 1 else 0
        exec (.flitReceive n f) s = .next (settled s
          (emit (.control n 3 half 0) (updPort n (fun p => { p with retiring := some (half, some (f.badLane % 8)) }) s)))) ∧
      (f.ftype = 1 → f.seq % 1024 = m → f.crcOk = false → p.state = 3 ∨ p.allowX4 = false →
        exec (.flitReceive n f) s = .next (settled s (failPort n 3 s))))

/-- For an awake device and a request that arrives, passes every check before its service, is bound to an ACTIVE isle and whose
pages are translated, permit it and are reached: RD_UNCACHED whose lines can be read, those that failed once having been read
again (lineFault), is answered with them, a poisoned line marked; RD_RUN likewise, burst by burst; WR_LINE and WR_RUN whose
lines are out of every cache store their data and are answered with STATUS; WR_PARTIAL of a line that holds no error stores
the bytes of its mask; ATOMIC that can be performed stores its result and answers the prior value. A BAR2 read or write of a
bound function within 256 GiB is served by the same rules in the function's isle at the aperture's base; of a function without
a binding, and of PF0 after the seal, a read is answered with Unsupported Request and a write is dropped. Held answers wait
for the twin where the request crossed to it (respond). (R57, R60, R61, R69, R88, R123, R220, R617, R618, R619, R823,
13_strait_links.md) -/
def Obligations.ReadsWritesAndAtomicsAreServed : Prop :=
  ∀ (s v t x : State) (isle rights : Nat) (l : List (Nat × Nat × Nat)),
    (∀ h ls bad, let r := newReq .rdUncached h
      awake s = true → portUp s h.port = true → s.twin.state ≠ .fenced → Arrives (bad.foldl lineFault s) r isle v → Reaches v (admitted r isle v) rights l t → reqRead (admitted r isle v) (linesUnder l) t = (.inl ls, x) →
      exec (.rdUncached h bad) s = .next (settled s (pumpAll (respond (admitted r isle v) t.twin.nextItem (worstOf ls)
        (ls.map fun y => (y.1, y.2 != stOk)) 0 0 (accepted (admitted r isle v) x))))) ∧
    (∀ h ls, let r := newReq .rdRun h
      Arrives s r isle v → Reaches v (admitted r isle v) rights l t → reqRead (admitted r isle v) (linesUnder l) t = (.inl ls, x) →
      exec (.rdRun h) s = .next (settled s (pumpAll (deliverRun (admitted r isle v) ls (accepted (admitted r isle v) x))))) ∧
    (∀ h w st y, let r := { newReq .wrLine h with lines := [w] }
      Arrives s r isle v → Reaches v (admitted r isle v) rights l t → reqClear (admitted r isle v) (linesUnder l) t = (none, x) →
      storePieces (admitted r isle v) l (leBytes w.data.toNat 64) stOk (accepted (admitted r isle v) x) = (st, y) →
      exec (.wrLine h w) s = .next (settled s (pumpAll (respond (admitted r isle v) t.twin.nextItem st [] 0 0 y)))) ∧
    (∀ h ws st y, let r := { newReq .wrRun h with lines := ws }
      Arrives s r isle v → Reaches v (admitted r isle v) rights l t → reqClear (admitted r isle v) (linesUnder l) t = (none, x) →
      storePieces (admitted r isle v) l (ws.flatMap fun w => leBytes w.data.toNat 64) stOk (accepted (admitted r isle v) x) = (st, y) →
      exec (.wrRun h ws) s = .next (settled s (pumpAll (respond (admitted r isle v) t.twin.nextItem st [] 0 0 y)))) ∧
    (∀ h mask w st y va n e, let r := { newReq .wrPartial h with lines := [w], mask := mask }
      Arrives s r isle v → Reaches v (admitted r isle v) rights l t → reqClear (admitted r isle v) (linesUnder l) t = (none, x) →
      l = [(va, n, e)] → let line := eOff e + va % pageSize
      lineStatus (accepted (admitted r isle v) x) line = stOk →
      storePieces (admitted r isle v) l (leBytes (maskLine (readLine (accepted (admitted r isle v) x) line) w.data mask).toNat 64) stOk (accepted (admitted r isle v) x) = (st, y) →
      exec (.wrPartial h mask w) s = .next (settled s (pumpAll (respond (admitted r isle v) t.twin.nextItem st [] 0 0 y)))) ∧
    (∀ h op a c va n e old, let r := { newReq .atomic h with op := op, a := a, c := c }
      Arrives s r isle v → Reaches v (admitted r isle v) rights l t → l = [(va, n, e)] → isle < twinIsle → t.twin.also = 0xFFF →
      through t isle va e = false → let at_ := eOff e + va % pageSize
      atomicAt (.req (admitted r isle v)) false ((linesUnder l).any (·.2)) (homeCluster at_) op at_ a.toNat c.toNat t = (some (old, true), x) →
      exec (.atomic h op a c) s = .next (settled s (pumpAll (respond (admitted r isle v) t.twin.nextItem stOk [] 0 (BitVec.ofNat 128 old)
        (accepted (admitted r isle v) x))))) ∧
    (awake s = true → ∀ fn off i, bar2Isle s fn = some isle → s.twin.state ≠ .fenced → isle? s isle = some i → i.state = .active →
      (∀ len ls bad, off + len ≤ 2 ^ 38 →
        let u := bad.foldl lineFault s
        let r := { newReq .bar2Read noHdr with len := len, origin := .bar2 fn, id := u.links.nextId, isle := isle, va := i.bar2Base + off }
        bar2Isle u fn = some isle → u.twin.state ≠ .fenced → isle? u isle = some i →
        Reaches (takeId u) r rights l t → reqRead r (linesUnder l) t = (.inl ls, x) →
        exec (.bar2Read fn off len bad) s = .next (settled s (pumpAll (respond r t.twin.nextItem (worstOf ls) (ls.map fun y => (y.1, y.2 != stOk)) 0 0 (accepted r x))))) ∧
      (∀ bs st y, off + bs.length ≤ 2 ^ 38 →
        let r := { newReq .bar2Write noHdr with bytes := bs, origin := .bar2 fn, id := s.links.nextId, isle := isle, va := i.bar2Base + off }
        Reaches (takeId s) r rights l t → reqClear r (linesUnder l) t = (none, x) → storePieces r l bs stOk (accepted r x) = (st, y) →
        exec (.bar2Write fn off bs) s = .next (settled s (pumpAll (respond r t.twin.nextItem st [] 0 0 y))))) ∧
    (awake s = true → ∀ fn off, bar2Isle s fn = none →
      (∀ len bad, exec (.bar2Read fn off len bad) s = .next (settled s (emit (.bar2 fn .refused) s))) ∧
      (∀ bs, exec (.bar2Write fn off bs) s = .next (settled s s)))

/-- For an awake device, a bound caching request that is reached: RD_SHARED is answered with the line and the grant the directory
gives, a directory fault that goes counting and one that stays fencing the device (the line without a copy where the page is
not coherent in DRAM); RD_OWN with the line and M; UPGRADE of a holder with the grant alone, of another with the line; a
watched line answers WATCHED. DIRTY of the agent in EXT_EXCL makes the line EXT_DIRTY. WR_BACK of the owner writes the line at
memory, leaves the line without owner, and is answered. RSP_ACK and RSP_DATA take the agent out of the open snoop, with the
data; the last one closes it and what waited is served. Agents that let a snoop run out are lost. The end of a lost agent's
sweep reclaims what it held, posts AGENT_LOST with both counts, frees the index, gives it to the next binding, and completes
AGENT_EVICT with the counts or BIND_SET with zeros. (R202, R210, R211, R212, R249, R255, R257, R670, R812, R823, 05_heddle.md) -/
def Obligations.CachingRequestsAreGrantedAndSnoopsEnd : Prop :=
  ∀ (s v t x : State) (isle rights idx line : Nat) (l : List (Nat × Nat × Nat)) (a : Agent),
    let mark := fun (r : Req) (g : Nat) (y : State) =>
      noteDir line (dirWords t line) (accepted r (if g = grantM then wake line (if g = grantI then y else noteWindow idx r y)
        else if g = grantI then y else noteWindow idx r y))
    (∀ h, awake s = true → portUp s h.port = true → s.twin.state ≠ .fenced →
      exec (.rdShared h .lasting) s = .next (settled s (fenceFault 1 (refuse (newReq .rdShared h) stAbortedFenced s)))) ∧
    (∀ h f, f ≠ .lasting → portUp s h.port = true → s.twin.state ≠ .fenced → awake s = true → let r := admitted (newReq .rdShared h) isle v
      Arrives (if f = Media.transient then countTransient s else s) (newReq .rdShared h) isle v → Reaches v r rights l t → agentOf t r = some (idx, a) → secondWindow t idx a r = false →
      ((linesUnder l).headD (0, false) = (line, false) → exec (.rdShared h f) s = .next (settled s (pumpAll
        (respond r t.twin.nextItem (lineStatus t line) [(readLine t line, lineStatus t line != stOk)] grantI 0 t)))) ∧
      (∀ g d st, (linesUnder l).headD (0, false) = (line, true) →
        hedRead (.ext idx) (.req r) [] (bit rights 1 && l.all (fun p => eWrite p.2.2)) line t = (.grant g d st, x) →
        exec (.rdShared h f) s = .next (settled s (pumpAll (respond r t.twin.nextItem st [(d, st != stOk)] g 0 (mark r g x)))))) ∧
    (∀ h, let r := admitted (newReq .rdOwn h) isle v
      Arrives s (newReq .rdOwn h) isle v → Reaches v r rights l t → agentOf t r = some (idx, a) → secondWindow t idx a r = false →
      (linesUnder l).headD (0, false) = (line, true) →
      (isWatched t line = true → exec (.rdOwn h) s = .next (settled s (pumpAll (respond r t.twin.nextItem stOk [] grantWatched 0 (accepted r t))))) ∧
      (∀ g d st, isWatched t line = false → hedOwn idx (.req r) [] line t = (.grant g d st, x) →
        exec (.rdOwn h) s = .next (settled s (pumpAll (respond r t.twin.nextItem st [(d, st != stOk)] g 0 (mark r g x)))))) ∧
    (∀ h, let r := admitted (newReq .upgrade h) isle v
      Arrives s (newReq .upgrade h) isle v → Reaches v r rights l t → agentOf t r = some (idx, a) → secondWindow t idx a r = false →
      (linesUnder l).headD (0, false) = (line, true) → isWatched t line = false → txnOpen t line = false →
      (∀ g d st, isHolder t idx line = true → hedOwn idx (.req { r with keep := true }) [] line t = (.grant g d st, x) →
        exec (.upgrade h) s = .next (settled s (pumpAll (respond r t.twin.nextItem (if g = grantM then stOk else st) [] g 0 (mark r g x))))) ∧
      (∀ g d st, isHolder t idx line = false → hedOwn idx (.req r) [] line t = (.grant g d st, x) →
        exec (.upgrade h) s = .next (settled s (pumpAll (respond r t.twin.nextItem st [(d, st != stOk)] g 0 (mark r g x)))))) ∧
    (∀ h n e d base len, let r := admitted (newReq .dirty h) isle v
      Arrives s (newReq .dirty h) isle v → agentOf v r = some (idx, a) → a.window = some (bits h.addr.toNat 40 12, base, len) →
      entryOf v isle ((base + r.off) / pageSize) = some e → n = eOff e + (base + r.off) % pageSize → line = lineOf n →
      dirGet v line = some d → d.state = .extExcl → d.owner = idx →
      exec (.dirty h) s = .next (settled s (pumpAll (noteDir line (dirWords v line) (dirSet line { d with state := .extDirty } v))))) ∧
    (∀ h w n e d base len, let r := admitted { newReq .wrBack h with lines := [w] } isle v
      Arrives s { newReq .wrBack h with lines := [w] } isle v → agentOf v r = some (idx, a) → a.window = some (bits h.addr.toNat 40 12, base, len) →
      entryOf v isle ((base + r.off) / pageSize) = some e → n = eOff e + (base + r.off) % pageSize → line = lineOf n →
      (takenOver v r [(base + r.off, 64, e)]).1 = stOk → withdrawing v isle ((base + r.off) / pageSize) = false → v.trans.withdrawals = [] →
      dirGet v line = some d → d.state.ext = true → d.owner = idx → txnGet v line = none →
      txnGet (putOrFree line { delExt idx d with state := .shared, owner := 0 } (memLine line w.data false v)) line = none →
      exec (.wrBack h w) s = .next (settled s (pumpAll (respond r v.twin.nextItem stOk [] 0 0
        (noteDir line (dirWords v line) (putOrFree line { delExt idx d with state := .shared, owner := 0 } (memLine line w.data false v))))))) ∧
    (awake s = true → ∀ h tag tx, receive h false s = (true, v) → snoopFor v h = some (line, idx, tag) → txnGet v line = some tx →
      let rest := tx.pending.filter (· != (idx, tag))
      let last := fun y => if rest = [] then pumpAll (closeTxn line y) else y
      exec (.rspAck h) s = .next (settled s (last (txnSet line { tx with pending := rest } v))) ∧
      (NMap.get? v.heddle.agents idx = some a → ∀ w,
        exec (.rspData h w) s = .next (settled s (last
          (txnSet line { tx with pending := rest, data := some (w.data, wireCheck (snoopAddr v a line) w.data != w.check) } v))))) ∧
    (awake s = true → ∀ tx, txnGet s line = some tx →
      exec (.snoopTimeout line) s = .next (settled s ((tx.pending.map (·.1)).eraseDups.foldl (loseAgent none) s))) ∧
    (awake s = true → NMap.get? s.heddle.agents idx = some a → a.lost = true →
      let u := (s.heddle.dir.map (·.1)).foldl (fun s off => reclaim idx s off) s
      let b := NMap.getD u.heddle.agents idx a
      let w := raise (event 0x0201 b.port idx b.reclaimed b.poisonedLost) { u with heddle := { u.heddle with agents := NMap.del u.heddle.agents idx } }
      let next := fun y => pumpAll (release (fun r => r.why == some .agentIndex) (attachAll y))
      (b.cmd = none → exec (.agentSweepDone idx) s = .next (settled s (next w))) ∧
      (∀ k c, b.cmd = some k → cmd? w k = some c →
        exec (.agentSweepDone idx) s = .next (settled s (next (if c.opcode = 0x0F0A then endCmd k stOk b.reclaimed b.poisonedLost w else endCmd k stOk 0 0 w)))))

/-- For an awake device: SUBCMD from a joined member, bound to an ACTIVE isle, without reserved bits, at the current epoch (or
with the resend flag) and not forwarded starts its command; from another source it is refused with ST_PERMISSION; one map
ahead it is held. STATUS and SUBCMD_DONE of an outstanding sub-command record its status, counts and data, and the lead goes
on. RETRY makes it wait for its back-off, after which it is sent again; a waiting request goes on likewise. PROGRESS,
READ_DATA, RUN_CONT and ATOMIC_RESULT are received and change nothing else: the device sends no data request (log 24). A
request timeout ends a sub-command to a pool id without twin with ST_TIMEOUT, and redirects a pool id with a twin alias (cause
2) once. PROGRESS is sent for a request still served. The 50 µs hold for a new map ends with ST_STALE_EPOCH. The composition
grace ends. (R20, R87, R92, R237, R618, R622, R629, R630, R631, R654, 13_strait_links.md, notes/assumptions/24.md) -/
def Obligations.SubcommandsAnswersAndTheirTimesComplete : Prop :=
  ∀ s : State, awake s = true →
    (∀ h desc d u isle b, h.port < 24 → receive h (heldPool s (bits h.addr.toNat 52 12)) s = (true, u) →
      let pool := bits h.addr.toNat 52 12
      let v := takeId u
      portClosed v h.port h.src = false →
      (h.src ∉ v.pool.members → exec (.subcmd h desc d) s = .next (settled s (refuseSub h stPermission 0 v))) ∧
      (h.src ∈ v.pool.members → isPartner v pool = false → bindOf v (heldPool v pool) h.port h.src h.stream = some (isle, b) → h.rsv = false → h.sync = 0 →
        isMine v pool = true → isleActive v isle = true → v.bobbin.cmds.length < 16384 →
        let c : Cmd := { freshCmd (subKey u.links.nextId) isle desc .ready with lead := some h, data := d, epoch := h.epoch }
        let go := pumpAll (serveSub c.key { v with bobbin := { v.bobbin with cmds := v.bobbin.cmds ++ [c] } })
        (subFlag d = 1 → otherHome v.maps.cur pool isle desc d = none → exec (.subcmd h desc d) s = .next (settled s go)) ∧
        (subFlag d ≠ 1 → forwardedTo v h.epoch desc d = none → h.epoch = v.maps.cur.epoch → exec (.subcmd h desc d) s = .next (settled s go)) ∧
        (subFlag d ≠ 1 → forwardedTo v h.epoch desc d = none → h.epoch = v.maps.cur.epoch + 1 →
          exec (.subcmd h desc d) s = .next (settled s (pumpAll (holdSub h u.links.nextId desc d [] v)))))) ∧
    (∀ h u id o c x code, receive h false s = (true, u) → outstandingOf u h = some (id, o) → o.direct = false →
      cmd? (dropOutstanding id u) o.cmd = some c → c.subs[o.shard]? = some x → (code ≠ stReroute ∨ x.resent = true) →
      let done := fun (c0 c1 hint : Nat) (d : SubData) => pumpAll (advance o.cmd (updSub o.cmd o.shard (fun (x : Sub) =>
        { x with status := some code, answer := d, tag := none, counts := (if code = stReroute then hint else c0, c1) }) (dropOutstanding id u)))
      (∀ det : BitVec 32, exec (.status h code det) s = .next (settled s (done 0 0 (det.toNat % 4096) noData))) ∧
      (∀ (det : BitVec 32) c0 c1 d, exec (.subcmdDone h code det c0 c1 d) s = .next (settled s (done c0 c1 (det.toNat % 4096) d)))) ∧
    (∀ h, exec (.progress h) s = .next (settled s (receive h false s).2) ∧
      (∀ code first ls, exec (.readData h code first ls) s = .next (settled s (receive h false s).2)) ∧
      (∀ first ls, exec (.runCont h first ls) s = .next (settled s (receive h false s).2)) ∧
      (∀ code prior, exec (.atomicResult h code prior) s = .next (settled s (receive h false s).2))) ∧
    (∀ h u id o b, receive h false s = (true, u) → outstandingOf u h = some (id, o) →
      exec (.retry h b) s = .next (settled s { u with links := { u.links with outstanding := NMap.upd u.links.outstanding id (fun o => { o with backOff := true }) } })) ∧
    (∀ id o, NMap.get? s.links.outstanding id = some o →
      (o.backOff = true → exec (.backOffExpiry id) s = .next (settled s (sendSub o.cmd o.shard o.dest false o.direct (dropOutstanding id s)))) ∧
      ((NMap.get? s.links.ports o.port).any (·.suspended) = false →
        ((routeOf s o.dest).twinAlias = none → exec (.requestTimeout id) s = .next (settled s (pumpAll (subAnswered id o stTimeout 0 0 0 noData s)))) ∧
        (∀ a, (routeOf s o.dest).twinAlias = some a → (routeOf s o.dest).redirected = false →
          exec (.requestTimeout id) s = .next (settled s (pumpAll (redirect o.dest 2 s)))))) ∧
    (∀ id, NMap.get? s.links.outstanding id = none →
      exec (.backOffExpiry id) s = .next (settled s (pumpAll (release (fun r => r.id == id && r.why == some .backOff) s)))) ∧
    (∀ id r, s.links.parked.find? (fun r => r.id == id && r.origin == .strait) = some r → r.kind ≠ .dirty →
      exec (.progressDue id) s = .next (settled s (sendMsg r.hdr 0x45 0 0 0 [] [] s))) ∧
    (∀ id r, s.links.parked.find? (fun r => r.id == id && r.why == some .epochHold) = some r → r.kind ≠ .dirty →
      exec (.epochHoldExpiry id) s = .next (settled s (pumpAll (sendStatus r.hdr stStaleEpoch (unpark id s).maps.cur.epoch.toNat (unpark id s))))) ∧
    (∀ id c h, s.links.parked.find? (fun r => r.id == id && r.why == some .epochHold) = none → cmd? s (subKey id) = some c → c.lead = some h →
      c.phase = .held → c.aux = [] →
      exec (.epochHoldExpiry id) s = .next (settled s (refuseSub h stStaleEpoch s.maps.cur.epoch.toNat (dropCmd c.key s)))) ∧
    exec .graceExpiry s = .next (settled s { s with maps := { s.maps with grace := false } })

/-- For an awake, running device: HELLO on a port that trains or is up is kept as the partner's; a joined partner becomes a member
and its epoch is learnt; on a Strait port the port serves it where its digest, firmware and pool id match, and otherwise
JOIN_REFUSED gives cause 1, 2 or 4. A HELLO that carries the device's own pool id at a higher epoch fences it. A claim not
contested, of the same configuration, is flooded, its claimant becomes a member, its epoch is learnt and its last alive value
forgotten; a contested claim met for the first time is answered with ID_CONFLICT, posted, and the claimant is refused on that
port. A takeover claim at a higher epoch than the one known, by the twin the routes name and not withdrawn by a certificate,
is accepted. ID_CONFLICT for the claim under way leaves the device isolated. A claim stands where no conflict came, every
HELLO matched and the beat is locked: the device joins. The reading of re-claims at a known epoch is the model's (log 40).
(R373, R507, R624, R644, R648, R649, R650, R699, R715, 13_strait_links.md, 15_twins_and_failover.md, notes/assumptions/40.md) -/
def Obligations.MembersGreetClaimAndJoin : Prop :=
  ∀ s : State, awake s = true → s.harbour.boot = 3 →
    (∀ port (m : Hello), 1 ≤ portState s port → portState s port ≤ 3 →
      let s1 := updPort port (fun p => { p with partner := some m }) s
      (m.poolId = s.pool.id → m.poolId ≠ 0xFFF → s.pool.epoch < m.epoch →
        exec (.hello port m) s = .next (settled s (fenceSelf 1 m.epoch.toNat s1))) ∧
      (fencedBy m.poolId m.epoch s = false → m.fwMajor ≠ 0 →
        let s2 := if m.joined = true then addMember m.poolId (learnEpoch m.poolId m.epoch s1) else learnEpoch m.poolId m.epoch s1
        (24 ≤ port → exec (.hello port m) s = .next (settled s s2)) ∧
        (port < 24 → m.digest = s.harbour.digest → m.fwMajor = s.harbour.fwMajor → m.compatId = s.harbour.compatId → m.poolId ≠ s.pool.id ∨ m.poolId = 0xFFF →
          exec (.hello port m) s = .next (settled s (updPort port (fun p => { p with refusedHello := false }) s2))) ∧
        (port < 24 → m.digest ≠ s.harbour.digest →
          exec (.hello port m) s = .next (settled s (raise (event evJoinRefused port m.poolId 1 0) (updPort port (fun p => { p with refusedHello := true }) s2)))))) ∧
    (∀ port (c : Claim), portUp s port = true → c.takeover = false → c.poolId ≠ 0xFFF → s.pool.nonce ≠ some c.nonce →
      let f := floodClaim port c s
      (contests f c = false → c.digest = s.harbour.digest → f.harbour.digest = s.harbour.digest →
        exec (.idClaim port c) s = .next (settled s (interruptCloses (· == c.poolId) (forgetAlive c.poolId (addMember c.poolId
          (learnEpoch c.poolId (if c.epoch = 0 then 1 else c.epoch)
            { f with pool := { f.pool with refusing := f.pool.refusing.filter (fun x => x % 4096 != c.poolId) } })))))) ∧
      (contests f c = true → s.pool.flooded.contains (c.poolId, c.nonce) = false →
        let g := emit (.manage port c.poolId .idConflict [c.poolId, c.nonce.toNat]) f
        exec (.idClaim port c) s = .next (settled s (raise (event evIdConflict port c.poolId (c.nonce.toNat % 2 ^ 32) (c.nonce.toNat / 2 ^ 32))
          { g with pool := { g.pool with refusing := insertNat (port * 4096 + c.poolId) g.pool.refusing } })))) ∧
    (∀ port (c : Claim), portUp s port = true → c.takeover = true → c.claimant ≠ s.pool.id → c.poolId ≠ s.pool.id →
      knownEpoch s c.poolId < c.epoch → namedFor s c = true → withdrawn s c = false →
      exec (.takeoverClaim port c) s = .next (settled s (acceptClaim port c s))) ∧
    (∀ port pid n, portUp s port = true → pid = s.pool.id → s.pool.nonce = some n →
      exec (.idConflict port pid n) s = .next (settled s (raise (event evIdConflict port pid (n.toNat % 2 ^ 32) (n.toNat / 2 ^ 32))
        { s with pool := { s.pool with conflict := true, isolated := true, claimed := false, joined := false, nonce := none } }))) ∧
    (∀ n, s.pool.nonce = some n → s.pool.conflict = false → helloRefused s = false →
      ((s.treadle.root = true ∨ (s.treadle.locked = true ∧ s.treadle.unsynced = false)) →
        exec .claimStands s = .next (settled s (tellGone { s with pool := { s.pool with
          nonce := none, isolated := false, claimed := true, joined := true, epoch := if s.pool.epoch = 0 then 1 else s.pool.epoch } }))) ∧
      (s.treadle.root = false → s.treadle.locked = false →
        exec .claimStands s = .next (settled s (raise (event evJoinRefused s.treadle.primary (partnerOf s s.treadle.primary) 3 0)
          { s with pool := { s.pool with nonce := none, isolated := true } }))))

/-- For an awake device: TWIN_PAIR without a waiting partner sends its request and waits; the partner's matching request in mode 0
pairs both, ends the command with ST_OK and sends the unit; 10 ms without a match end it with ST_TIMEOUT. A heartbeat of the
twin clears its silence, one with the own pool id at a higher epoch fences. A lost Causeway starts a probe; a PROBE is
answered with PROBE_ACK; PROBE_ACK while paired degrades the pair; no answer in time takes over the partner's pool id, or ends
the resync of a lost source. FENCE_NOTICE of the twin takes over with cause 3. A journal item that is received is applied and
acknowledged with its id; an acknowledgement lets what waited for it go on. A copied watermark sends its 64 MiB (less at the
region's end), is journaled on both devices and moves the cursor; when every region is copied the source says so, and when
both ends are done the pair is finished. Image parts are taken in order by a boot ROM. (R646, R702, R707, R709, R710, R711,
R712, R715, R716, R728, R729, R730) -/
def Obligations.TwinsPairWatchResyncAndTakeOver : Prop :=
  ∀ s : State,
    (∀ k c, Runs s k 0x0F30 c → c.phase ≠ .running →
      (pairFieldsOk c = true → partnerGreeted s (tpPartner c) = true →
        endFit (tpMode c) (twinCode s.twin.state) (twinClean s || (tpMode c == 1 && s.twin.state == .degraded)) = true → s.twin.peerPair = none →
        exec (.twinPair k) s = .next (settled s (twinSend 14 (pairWords s c) [] (startCmd k s))))) ∧
    (∀ k c, Runs s k 0x0F30 c → c.phase = .running → s.twin.pairCmd ≠ some k →
      exec (.twinPairTimeout k) s = .next (settled s (endFree k stTimeout (twinSend 14 [s.pool.id] [] s)))) ∧
    (awake s = true →
      (∀ port, 24 ≤ port → portUp s port = true →
        (∀ (item : TwinItem) c, s.twin.state ≠ .fenced → item.kind = 14 → 1 < item.words.length →
          s.bobbin.cmds.find? (fun (c : Cmd) => c.opcode == 0x0F30 && c.phase == Phase.running && s.twin.pairCmd != some c.key &&
            tpPartner c == item.words.getD 0 0xFFF && item.words.getD 1 0xFFF == s.pool.id && tpMode c == item.words.getD 2 0) = some c →
          tpMode c = 0 → partnerGreeted s (tpPartner c) = true → endFit 0 (twinCode s.twin.state) (twinClean s) = true →
          endFit 0 (item.words.getD 3 0) (item.words.getD 5 0 == 1) = true →
          let u := agreePairing (dropMirror { s with twin := { s.twin with peerPair := none } })
          exec (.causewayJournal port item) s = .next (settled s (endFree c.key stOk (sendUnit
            { u with twin := { u.twin with state := .paired, partner := tpPartner c, silent := 0, mirror := Mirror.empty } })))) ∧
        (∀ item : TwinItem, s.twin.state ≠ .fenced → item.kind ≠ 14 → item.kind ≠ 17 → receiving s = true →
          exec (.causewayJournal port item) s = .next (settled s
            (emit (.manage port s.twin.partner .twinAck [item.id, (applyItem item s).1.toNat]) (applyItem item s).2))) ∧
        (∀ id ok, s.twin.state ≠ .fenced → exec (.twinAcknowledgement port id ok) s = .next (settled s (pumpAll (acked id ok s)))) ∧
        (∀ src beat e, fencedBy src e s = false → src = s.twin.partner → let u := learnEpoch src e s
          exec (.heartbeat port src beat e) s = .next (settled s { u with twin := { u.twin with silent := 0 } })) ∧
        (∀ src beat e, src = s.pool.id → src ≠ 0xFFF → s.pool.epoch < e → exec (.heartbeat port src beat e) s = .next (settled s (fenceSelf 1 e.toNat s))) ∧
        (∀ src, src = s.twin.partner → (s.twin.state = .paired → exec (.fenceNotice port src) s = .next (settled s (takeOver 3 s))) ∧
          (s.twin.state = .resync → exec (.fenceNotice port src) s = .next (settled s (if s.twin.peerSource = true then loseSource 3 s else loseSpare s)))) ∧
        (∀ off total bs, s.harbour.boot = 0 ∨ s.harbour.boot = 1 ∨ s.harbour.boot = 4 →
          (off = 0 → exec (.imagePart port off total bs) s = .next (settled s { s with harbour := { s.harbour with parts := bs, partsTotal := total } })) ∧
          (off ≠ 0 → off = s.harbour.parts.length → total = s.harbour.partsTotal →
            exec (.imagePart port off total bs) s = .next (settled s { s with harbour := { s.harbour with parts := s.harbour.parts ++ bs } })))) ∧
      (∀ port src, portUp s port = true → s.harbour.boot = 3 →
        let u := emit (.manage port src .probeAck [s.pool.id]) s
        exec (.probe port src) s = .next (settled s (if s.twin.state = .paired ∧ src = s.twin.partner then degrade u else u))) ∧
      (∀ port, portUp s port = true → s.twin.probing = true → s.twin.state = .paired →
        exec (.probeAck port s.twin.partner) s = .next (settled s (degrade s))) ∧
      (s.twin.hbMiss ≤ s.twin.silent → s.twin.probing = false → (s.twin.state = .paired ∨ (s.twin.state = .resync ∧ s.twin.peerSource = true)) →
        ∀ p, ownPort { s with twin := { s.twin with probing := true } } s.twin.partner 0 = some p →
        exec .causewayLost s = .next (settled s (emit (.manage p s.twin.partner .probe [s.pool.id]) { s with twin := { s.twin with probing := true } }))) ∧
      (s.twin.probing = true → (s.twin.state = .paired → exec .probeTimeout s = .next (settled s (takeOver 1 s))) ∧
        (s.twin.state = .resync → exec .probeTimeout s = .next (settled s (loseSource 1 s)))) ∧
      (s.twin.state = .resync → s.twin.source = true → s.twin.toCopy = [] → s.twin.done.1 = false →
        let u := twinSend 17 [s.twin.copied, s.twin.copiedBytes] [] s
        exec .resyncCopyDone s = .next (settled s (finishResync { u with twin := { u.twin with done := (true, u.twin.done.2) } }))) ∧
      (∀ pid region mark isle r, s.twin.state = .resync → s.twin.source = true → s.twin.toCopy.head? = some (regionKey pid region) →
        copyRegion s (regionKey pid region) = some (isle, r) → mark = r.cursor.getD 0 / 2 ^ 26 + 1 →
        let stop := min r.len (mark * 2 ^ 26)
        let u := journalMark region 0 mark (twinSend 12 [pid, region, mark] [] (sendRange isle (r.va + r.cursor.getD 0) (stop - r.cursor.getD 0) s))
        (stop < r.len → exec (.resyncWatermark pid region mark) s = .next (settled s (setRegion isle region (some { r with cursor := some stop }) u))) ∧
        (r.len ≤ stop → let v := setRegion isle region (some { r with cursor := none }) u
          exec (.resyncWatermark pid region mark) s = .next (settled s { v with twin := { v.twin with
            toCopy := v.twin.toCopy.drop 1, copied := v.twin.copied + 1, copiedBytes := v.twin.copiedBytes + r.len } }))))

/-- At the old home a well-formed ROW_MIGRATE of a slot held here asks the new home and, once it agrees, copies after the hold;
where another member holds the slot it ends with ST_REROUTE (its hint in the low 12 bits, the rest of the count free), and
with ST_QUOTA while a migration runs. At the new home the copy's sub-commands are checked and stored. The hold's end starts
the copy. A copy whose sub-commands all succeeded is complete; one that failed rolls the migration back with its status and
posts MIGRATION_ROLLED_BACK. A commit notice at the current epoch + 1 installs the moved map; the new home acknowledges it,
its open step set where it held no slot; another epoch posts MAP_NOTICE_MISMATCH. The acknowledgement forwards the slot,
installs the map, notifies the other members and ends the ROW_MIGRATE with the rows copied and copied again. (R546, R547,
R548, R549, R550, R551, R552, R554, 11_embedding_tables.md) -/
def Obligations.MigrationsCopyCommitAndRollBack : Prop :=
  ∀ (s : State) (k : CmdKey) (c : Cmd),
    (∀ h, Runs s k 0x0F20 c → c.lead = some h → let r := homeMigrate k c c.data (startCmd k s)
      exec (.rowMigrate k) s = .next (settled s (endServed k r.1 r.2))) ∧
    (∀ t, Runs s k 0x0F20 c → c.lead = none → c.aux = [] → migrateFieldsOk c = true → onManagement s k = true → table? s (mgTable c) = some t → mgSlot c < t.slots.length →
      let home := (slotAt t (mgSlot c)).pool
      (home ≠ s.pool.id → exec (.rowMigrate k) s = .next (settled s
        (endCmd64 k stReroute ((Config.freeWord s.free).toNat / 4096 * 4096 + home) (nextFree s)))) ∧
      (home = s.pool.id → mgPool c ≠ home → mgPool c ∈ s.pool.members → s.emb.migration = none →
        exec (.rowMigrate k) s = .next (settled s (migrateGo k (startSubs k [newSub 0 (mgPool c) c.desc { words := [0, 0], bytes := [] }]
          (updCmd k (fun c => { c with aux := [1] }) (startCmd k s)))))) ∧
      (∀ m, home = s.pool.id → mgPool c ≠ home → mgPool c ∈ s.pool.members → s.emb.migration = some m → m.table ≠ mgTable c →
        exec (.rowMigrate k) s = .next (settled s (endFree k stQuota s)))) ∧
    (∀ m t, awake s = true → s.emb.migration = some m → m.phase = 0 → s.emb.holdEpochs ≤ s.emb.epochs → table? s m.table = some t → ∀ u,
      sendRows 1 m t ((List.range (slotRows t m.slot).2).map (fun i => (slotRows t m.slot).1 + i)) s = (.ok, u) →
      exec .ferryHoldEnd s = .next (settled s { u with emb := { u.emb with
        migration := u.emb.migration.map (fun x => { x with phase := 1, cursor := (slotRows t m.slot).2 }) } })) ∧
    (∀ m, awake s = true → s.emb.migration = some m → cmd? s m.cmd = some c → m.phase = 1 → allAnswered c = true →
      (firstFailing c = none → exec (.ferryCopyDone m.table m.slot m.cursor) s = .next (settled s
        { s with emb := { s.emb with migration := some { m with phase := 2 } } })) ∧
      (∀ x st, firstFailing c = some x → x.status = some st →
        let u := { s with emb := { s.emb with migration := none } }
        exec (.ferryCopyDone m.table m.slot m.cursor) s = .next (settled s
          (endFree m.cmd st (raise (event evMigrationRolledBack 0 m.table (m.slot + m.pool * 4096) st) u))))) ∧
    (∀ port src tid slot newHome va (e : BitVec 8) step, awake s = true → portUp s port = true → s.twin.state ≠ .fenced → src ∈ s.pool.members →
      (e ≠ s.maps.cur.epoch + 1 → exec (.commitNotice port src tid slot newHome va e step) s = .next (settled s
        (raise (event evMapNoticeMismatch 0 tid s.maps.cur.epoch.toNat e.toNat) s))) ∧
      (e = s.maps.cur.epoch + 1 → newHome ≠ s.pool.id → exec (.commitNotice port src tid slot newHome va e step) s = .next (settled s
        (installMap true (movedMap s.maps.cur tid slot newHome va) s))) ∧
      (∀ t, e = s.maps.cur.epoch + 1 → newHome = s.pool.id → NMap.get? s.maps.cur.tables tid = some t → (∀ x ∈ t.slots, x.pool ≠ s.pool.id) →
        exec (.commitNotice port src tid slot newHome va e step) s = .next (settled s (sendManage src .commitNoticeAck [tid, slot]
          (installMap true (movedMap s.maps.cur tid slot newHome va) { s with emb := { s.emb with openStep := NMap.set s.emb.openStep tid (step + 1) } }))))) ∧
    (∀ m port, awake s = true → portUp s port = true → s.emb.migration = some m → m.phase = 4 →
      let e := s.maps.cur.epoch
      let words := commitWords s m
      let u := installMap true (movedMap s.maps.cur m.table m.slot m.pool m.va) { s with emb := { s.emb with migration := none } }
      let v := { u with emb := { u.emb with forwarded := [(m.table, m.slot, m.pool, e)] } }
      let w := (v.pool.members.filter (fun p => p != v.pool.id && p != m.pool)).foldl (fun s p => sendManage p .commitNotice (words) s) v
      let x := raise (event evMigrationCommitted 0 m.table (m.slot + m.pool * 4096) (e + 1).toNat) (endCmd m.cmd stOk m.cursor m.again w)
      exec (.commitNoticeAck port m.pool m.table m.slot) s = .next (settled s
        ((x.bobbin.cmds.filter (fun (c : Cmd) => c.opcode == 0x0102 && c.phase == Phase.running)).foldl
          (fun s (c : Cmd) => if c.lead.isSome then serveSub c.key s else advance c.key s) x)))

/-- For an awake device: a walk that ends fills the translation caches of its waiters and serves them, the next miss taking its
place; a fault of the shared TLB that goes is counted, one that stays fences the device. A DRAM line that fails on a read is
read again: an error that goes is counted, one that stays poisons the line. A tiering epoch evaluates, where Tide is enabled,
the warm-up hold is over and no move runs, then halves every counter and ages every page. The warm-up hold ends when its
epochs have passed. A promotion commits once its flash data is in, a move likewise; both place the page at its destination and
serve what waited. A flash read that succeeds lets its readers and its promotion go on; one whose data is lost abandons the
move and ends what joined it with ST_DATA_LOST. Transient flash faults are counted; a lasting program or erase fault takes a
spare block. A failed channel is marked once, with its event. Garbage collection reports the spare blocks. A patrol scrub
counts a transient DRAM fault and poisons the line of a lasting one, taking a spare row. A lasting flash scrub fault that is
not restored loses the NAND page. A telemetry sample changes nothing. (R112, R113, R271, R273, R276, R286, R292, R304, R305,
R306, R733, R734) -/
def Obligations.WalksMovesAndMediaComplete : Prop :=
  ∀ s : State, awake s = true →
    (∀ isle page, (isle, page) ∈ s.trans.walks →
      (∀ f, f ≠ Media.lasting →
        let c := if f = Media.transient then countTransient s else s
        let u := { c with trans := { c.trans with
          walks := s.trans.walks.filter (· != (isle, page)) ++ s.trans.walkQueue.take 1, walkQueue := s.trans.walkQueue.drop 1 } }
        let rs := u.links.parked.filter (fun r => r.why == some .walk && r.key == pageKey isle page)
        let go := fun v => pumpAll (rs.foldl (fun s r => serve (some (pageKey isle page)) { r with why := none } (unpark r.id s)) v)
        (∀ e, walk u isle page = .entry e → exec (.tlbWalkDone isle page f) s = .next (settled s
          (go ((rs.map (·.holder)).eraseDups.foldl (fun s h => tlbFill h isle page e s) u)))) ∧
        (walk u isle page = .notMapped → exec (.tlbWalkDone isle page f) s = .next (settled s (go u)))) ∧
      exec (.tlbWalkDone isle page .lasting) s = .next (settled s (fenceFault 2 s))) ∧
    (∀ off, inTier .hbm (lineOf off / pageSize) = true → isPoisoned s (lineOf off) = false → isLost s (lineOf off) = false →
      lineFault s ⟨off, true, false⟩ = { s with store := { s.store with eccTransient := s.store.eccTransient + 1 } } ∧
      lineFault s ⟨off, false, false⟩ = countTransient s ∧ lineFault s ⟨off, true, true⟩ = dramFault (lineOf off) s ∧
      (lineFault s ⟨off, false, true⟩).trust.lastingCount = s.trust.lastingCount + 1 ∧ isPoisoned (lineFault s ⟨off, false, true⟩) (lineOf off) = true) ∧
    (let age := fun (u : State) => { u with store := { u.store with pages := u.store.pages.map (fun x =>
        (x.1, { x.2 with counter := x.2.counter >>> 1, idle := if x.2.idle = 255 then 255 else x.2.idle + 1 })) } }
      let u := { s with emb := { s.emb with epochs := s.emb.epochs + 1 } }
      (s.tide.enable = true → s.tide.warmup = false → (∀ x ∈ s.store.pages, ∀ m, x.2.move = some m → m.why ≠ 0) →
        exec .tieringEpoch s = .next (settled s (age (tideEval u)))) ∧
      (s.tide.enable = false ∨ s.tide.warmup = true ∨ (∃ x ∈ s.store.pages, ∃ m, x.2.move = some m ∧ m.why = 0) →
        exec .tieringEpoch s = .next (settled s (age u)))) ∧
    (s.tide.warmup = true → s.tide.warmupEpochs ≤ s.emb.epochs → exec .warmupEnd s = .next (settled s
      (pumpAll (release (fun r => r.why == some .warmup) { s with tide := { s.tide with warmup := false } })))) ∧
    (∀ isle page e p m, moveOf s isle page = some (e, p, m) →
      let u := wakePage isle page (commitMove isle page e p (m.dest / pageSize) s)
      (m.why = 1 → m.readDone = true → exec (.promotionCommit isle page) s = .next (settled s (startWaiting u))) ∧
      (m.why ≠ 1 → inTier .flash p = false ∨ m.readDone = true →
        exec (.moveCommit isle page) s = .next (settled s (if m.why = 2 then pinMoved isle page u else u)))) ∧
    (∀ off g outcome restored, inTier .flash (off / pageSize) = true → getPage s (off / pageSize) = some g →
      ((∃ r ∈ s.flash.reads, r.2 = off / pageSize) ∨ g.move.isSome = true) →
      let p := off / pageSize
      let readers := (s.flash.reads.filter (fun r => r.2 == p)).map (·.1)
      let counted := if outcome = .transient then { s with flash := { s.flash with readTransient := s.flash.readTransient + 1 } } else s
      let u := readers.foldl (fun s k => updCmd k (fun c => { c with flashRead := c.flashRead ++ [p] }) s)
        { counted with flash := { counted.flash with reads := counted.flash.reads.filter (fun r => r.2 != p) } }
      (outcome ≠ .lasting → pageLost u p = false → exec (.flashReadDone off outcome restored) s = .next (settled s
        (updPage p (fun g => { g with move := g.move.map (fun m => { m with readDone := true }) }) u))) ∧
      (g.vpage = none → outcome = .lasting → restored = false →
        exec (.flashReadDone off outcome restored) s = .next (settled s (updPage p (fun g => { g with move := none }) (loseNand off u))))) ∧
    (∀ off, exec (.flashProgramDone off .clean) s = .next (settled s s) ∧
      exec (.flashProgramDone off .transient) s = .next (settled s { s with flash := { s.flash with progTransient := s.flash.progTransient + 1 } }) ∧
      exec (.flashProgramDone off .lasting) s = .next (settled s (useSpare (chanOf s off) s))) ∧
    (∀ n c, NMap.get? s.flash.chans n = some c →
      exec (.flashEraseDone n .transient) s = .next (settled s { s with flash := { s.flash with eraseTransient := s.flash.eraseTransient + 1 } }) ∧
      exec (.flashEraseDone n .lasting) s = .next (settled s (useSpare n s)) ∧
      (c.failed = false → exec (.channelFailed n) s = .next (settled s (raise (event evChannelFailed n 0 0 0) (updChan n (fun c => { c with failed := true }) s)))) ∧
      (c.failed = true → exec (.channelFailed n) s = .next (settled s s)) ∧
      (∀ spare, let low := decide (100 * spare < 2 * Config.flashBlocks c.capacity)
        let u := updChan n (fun c => { c with spare := spare, wearLow := c.wearLow || low, full := spare == 0 }) s
        exec (.garbageCollection n spare) s = .next (settled s (if low = true ∧ c.wearLow = false then raise (event evFlashWear n 0 (spare % 2 ^ 32) 0) u else u)))) ∧
    (∀ off, (inTier .hbm (off / pageSize) || inTier .ddr (off / pageSize)) = true → isPoisoned s (lineOf off) = false →
      exec (.patrolScrub off false .transient) s = .next (settled s { s with store := { s.store with eccTransient := s.store.eccTransient + 1 } }) ∧
      exec (.patrolScrub off false .lasting) s = .next (settled s (dramFault (lineOf off) s)) ∧
      exec (.patrolScrub off true .clean) s = .next (settled s s)) ∧
    (∀ off, exec (.flashScrub off .transient true) s = .next (settled s { s with flash := { s.flash with readTransient := s.flash.readTransient + 1 } }) ∧
      exec (.flashScrub off .lasting true) s = .next (settled s s) ∧ exec (.flashScrub off .lasting false) s = .next (settled s (loseNand off s))) ∧
    exec .telemetrySample s = .next (settled s s)
end

