-- ==== Sys2Proof/Laws/State.lean ====
section
/-! SUPPORT. What each plain update of State leaves unchanged: one lemma per field per update, so that no later proof unfolds a
record update. -/

namespace Sys2Proof.Machine

section
variable (isle id : Nat) (sh : Shard) (s : State)
@[simp] theorem putShard_harbour : (putShard isle id sh s).harbour = s.harbour := rfl
@[simp] theorem putShard_trust : (putShard isle id sh s).trust = s.trust := rfl
@[simp] theorem putShard_pool : (putShard isle id sh s).pool = s.pool := rfl
@[simp] theorem putShard_clocks : (putShard isle id sh s).clocks = s.clocks := rfl
@[simp] theorem putShard_thermal : (putShard isle id sh s).thermal = s.thermal := rfl
@[simp] theorem putShard_store : (putShard isle id sh s).store = s.store := rfl
@[simp] theorem putShard_flash : (putShard isle id sh s).flash = s.flash := rfl
@[simp] theorem putShard_tide : (putShard isle id sh s).tide = s.tide := rfl
@[simp] theorem putShard_isles : (putShard isle id sh s).isles = s.isles := rfl
@[simp] theorem putShard_trans : (putShard isle id sh s).trans = s.trans := rfl
@[simp] theorem putShard_heddle : (putShard isle id sh s).heddle = s.heddle := rfl
@[simp] theorem putShard_clusters : (putShard isle id sh s).clusters = s.clusters := rfl
@[simp] theorem putShard_bobbin : (putShard isle id sh s).bobbin = s.bobbin := rfl
@[simp] theorem putShard_treadle : (putShard isle id sh s).treadle = s.treadle := rfl
@[simp] theorem putShard_links : (putShard isle id sh s).links = s.links := rfl
@[simp] theorem putShard_twin : (putShard isle id sh s).twin = s.twin := rfl
@[simp] theorem putShard_maps : (putShard isle id sh s).maps = s.maps := rfl
@[simp] theorem putShard_lagoon : (putShard isle id sh s).lagoon = s.lagoon := rfl
@[simp] theorem putShard_emb : (putShard isle id sh s).emb = s.emb := rfl
@[simp] theorem putShard_out : (putShard isle id sh s).out = s.out := rfl
@[simp] theorem putShard_free : (putShard isle id sh s).free = s.free := rfl
@[simp] theorem putShard_pending : (putShard isle id sh s).pending = s.pending := rfl
@[simp] theorem putShard_atolls : (putShard isle id sh s).atolls = { s.atolls with shards := NMap.set s.atolls.shards (shardKey isle id) sh } := rfl
end

section
variable (f : Migration → Migration) (s : State)
@[simp] theorem updMigration_harbour : (updMigration f s).harbour = s.harbour := rfl
@[simp] theorem updMigration_trust : (updMigration f s).trust = s.trust := rfl
@[simp] theorem updMigration_pool : (updMigration f s).pool = s.pool := rfl
@[simp] theorem updMigration_clocks : (updMigration f s).clocks = s.clocks := rfl
@[simp] theorem updMigration_thermal : (updMigration f s).thermal = s.thermal := rfl
@[simp] theorem updMigration_store : (updMigration f s).store = s.store := rfl
@[simp] theorem updMigration_flash : (updMigration f s).flash = s.flash := rfl
@[simp] theorem updMigration_tide : (updMigration f s).tide = s.tide := rfl
@[simp] theorem updMigration_isles : (updMigration f s).isles = s.isles := rfl
@[simp] theorem updMigration_trans : (updMigration f s).trans = s.trans := rfl
@[simp] theorem updMigration_heddle : (updMigration f s).heddle = s.heddle := rfl
@[simp] theorem updMigration_clusters : (updMigration f s).clusters = s.clusters := rfl
@[simp] theorem updMigration_bobbin : (updMigration f s).bobbin = s.bobbin := rfl
@[simp] theorem updMigration_treadle : (updMigration f s).treadle = s.treadle := rfl
@[simp] theorem updMigration_links : (updMigration f s).links = s.links := rfl
@[simp] theorem updMigration_twin : (updMigration f s).twin = s.twin := rfl
@[simp] theorem updMigration_maps : (updMigration f s).maps = s.maps := rfl
@[simp] theorem updMigration_lagoon : (updMigration f s).lagoon = s.lagoon := rfl
@[simp] theorem updMigration_atolls : (updMigration f s).atolls = s.atolls := rfl
@[simp] theorem updMigration_out : (updMigration f s).out = s.out := rfl
@[simp] theorem updMigration_free : (updMigration f s).free = s.free := rfl
@[simp] theorem updMigration_pending : (updMigration f s).pending = s.pending := rfl
@[simp] theorem updMigration_emb : (updMigration f s).emb = { s.emb with migration := s.emb.migration.map f } := rfl
end

section
variable (off : Nat) (e : DirEntry) (s : State)
@[simp] theorem dirSet_harbour : (dirSet off e s).harbour = s.harbour := rfl
@[simp] theorem dirSet_trust : (dirSet off e s).trust = s.trust := rfl
@[simp] theorem dirSet_pool : (dirSet off e s).pool = s.pool := rfl
@[simp] theorem dirSet_clocks : (dirSet off e s).clocks = s.clocks := rfl
@[simp] theorem dirSet_thermal : (dirSet off e s).thermal = s.thermal := rfl
@[simp] theorem dirSet_store : (dirSet off e s).store = s.store := rfl
@[simp] theorem dirSet_flash : (dirSet off e s).flash = s.flash := rfl
@[simp] theorem dirSet_tide : (dirSet off e s).tide = s.tide := rfl
@[simp] theorem dirSet_isles : (dirSet off e s).isles = s.isles := rfl
@[simp] theorem dirSet_trans : (dirSet off e s).trans = s.trans := rfl
@[simp] theorem dirSet_clusters : (dirSet off e s).clusters = s.clusters := rfl
@[simp] theorem dirSet_bobbin : (dirSet off e s).bobbin = s.bobbin := rfl
@[simp] theorem dirSet_treadle : (dirSet off e s).treadle = s.treadle := rfl
@[simp] theorem dirSet_links : (dirSet off e s).links = s.links := rfl
@[simp] theorem dirSet_twin : (dirSet off e s).twin = s.twin := rfl
@[simp] theorem dirSet_maps : (dirSet off e s).maps = s.maps := rfl
@[simp] theorem dirSet_lagoon : (dirSet off e s).lagoon = s.lagoon := rfl
@[simp] theorem dirSet_emb : (dirSet off e s).emb = s.emb := rfl
@[simp] theorem dirSet_atolls : (dirSet off e s).atolls = s.atolls := rfl
@[simp] theorem dirSet_out : (dirSet off e s).out = s.out := rfl
@[simp] theorem dirSet_free : (dirSet off e s).free = s.free := rfl
@[simp] theorem dirSet_pending : (dirSet off e s).pending = s.pending := rfl
@[simp] theorem dirSet_heddle : (dirSet off e s).heddle = { s.heddle with dir := NMap.set s.heddle.dir off e } := rfl
end

section
variable (off : Nat) (s : State)
@[simp] theorem dirDel_harbour : (dirDel off s).harbour = s.harbour := rfl
@[simp] theorem dirDel_trust : (dirDel off s).trust = s.trust := rfl
@[simp] theorem dirDel_pool : (dirDel off s).pool = s.pool := rfl
@[simp] theorem dirDel_clocks : (dirDel off s).clocks = s.clocks := rfl
@[simp] theorem dirDel_thermal : (dirDel off s).thermal = s.thermal := rfl
@[simp] theorem dirDel_store : (dirDel off s).store = s.store := rfl
@[simp] theorem dirDel_flash : (dirDel off s).flash = s.flash := rfl
@[simp] theorem dirDel_tide : (dirDel off s).tide = s.tide := rfl
@[simp] theorem dirDel_isles : (dirDel off s).isles = s.isles := rfl
@[simp] theorem dirDel_trans : (dirDel off s).trans = s.trans := rfl
@[simp] theorem dirDel_clusters : (dirDel off s).clusters = s.clusters := rfl
@[simp] theorem dirDel_bobbin : (dirDel off s).bobbin = s.bobbin := rfl
@[simp] theorem dirDel_treadle : (dirDel off s).treadle = s.treadle := rfl
@[simp] theorem dirDel_links : (dirDel off s).links = s.links := rfl
@[simp] theorem dirDel_twin : (dirDel off s).twin = s.twin := rfl
@[simp] theorem dirDel_maps : (dirDel off s).maps = s.maps := rfl
@[simp] theorem dirDel_lagoon : (dirDel off s).lagoon = s.lagoon := rfl
@[simp] theorem dirDel_emb : (dirDel off s).emb = s.emb := rfl
@[simp] theorem dirDel_atolls : (dirDel off s).atolls = s.atolls := rfl
@[simp] theorem dirDel_out : (dirDel off s).out = s.out := rfl
@[simp] theorem dirDel_free : (dirDel off s).free = s.free := rfl
@[simp] theorem dirDel_pending : (dirDel off s).pending = s.pending := rfl
@[simp] theorem dirDel_heddle : (dirDel off s).heddle = { s.heddle with dir := NMap.del s.heddle.dir off } := rfl
end

section
variable (off : Nat) (t : Txn) (s : State)
@[simp] theorem txnSet_harbour : (txnSet off t s).harbour = s.harbour := rfl
@[simp] theorem txnSet_trust : (txnSet off t s).trust = s.trust := rfl
@[simp] theorem txnSet_pool : (txnSet off t s).pool = s.pool := rfl
@[simp] theorem txnSet_clocks : (txnSet off t s).clocks = s.clocks := rfl
@[simp] theorem txnSet_thermal : (txnSet off t s).thermal = s.thermal := rfl
@[simp] theorem txnSet_store : (txnSet off t s).store = s.store := rfl
@[simp] theorem txnSet_flash : (txnSet off t s).flash = s.flash := rfl
@[simp] theorem txnSet_tide : (txnSet off t s).tide = s.tide := rfl
@[simp] theorem txnSet_isles : (txnSet off t s).isles = s.isles := rfl
@[simp] theorem txnSet_trans : (txnSet off t s).trans = s.trans := rfl
@[simp] theorem txnSet_clusters : (txnSet off t s).clusters = s.clusters := rfl
@[simp] theorem txnSet_bobbin : (txnSet off t s).bobbin = s.bobbin := rfl
@[simp] theorem txnSet_treadle : (txnSet off t s).treadle = s.treadle := rfl
@[simp] theorem txnSet_links : (txnSet off t s).links = s.links := rfl
@[simp] theorem txnSet_twin : (txnSet off t s).twin = s.twin := rfl
@[simp] theorem txnSet_maps : (txnSet off t s).maps = s.maps := rfl
@[simp] theorem txnSet_lagoon : (txnSet off t s).lagoon = s.lagoon := rfl
@[simp] theorem txnSet_emb : (txnSet off t s).emb = s.emb := rfl
@[simp] theorem txnSet_atolls : (txnSet off t s).atolls = s.atolls := rfl
@[simp] theorem txnSet_out : (txnSet off t s).out = s.out := rfl
@[simp] theorem txnSet_free : (txnSet off t s).free = s.free := rfl
@[simp] theorem txnSet_pending : (txnSet off t s).pending = s.pending := rfl
@[simp] theorem txnSet_heddle : (txnSet off t s).heddle = { s.heddle with txns := NMap.set s.heddle.txns off t } := rfl
end

section
variable (off : Nat) (s : State)
@[simp] theorem txnDel_harbour : (txnDel off s).harbour = s.harbour := rfl
@[simp] theorem txnDel_trust : (txnDel off s).trust = s.trust := rfl
@[simp] theorem txnDel_pool : (txnDel off s).pool = s.pool := rfl
@[simp] theorem txnDel_clocks : (txnDel off s).clocks = s.clocks := rfl
@[simp] theorem txnDel_thermal : (txnDel off s).thermal = s.thermal := rfl
@[simp] theorem txnDel_store : (txnDel off s).store = s.store := rfl
@[simp] theorem txnDel_flash : (txnDel off s).flash = s.flash := rfl
@[simp] theorem txnDel_tide : (txnDel off s).tide = s.tide := rfl
@[simp] theorem txnDel_isles : (txnDel off s).isles = s.isles := rfl
@[simp] theorem txnDel_trans : (txnDel off s).trans = s.trans := rfl
@[simp] theorem txnDel_clusters : (txnDel off s).clusters = s.clusters := rfl
@[simp] theorem txnDel_bobbin : (txnDel off s).bobbin = s.bobbin := rfl
@[simp] theorem txnDel_treadle : (txnDel off s).treadle = s.treadle := rfl
@[simp] theorem txnDel_links : (txnDel off s).links = s.links := rfl
@[simp] theorem txnDel_twin : (txnDel off s).twin = s.twin := rfl
@[simp] theorem txnDel_maps : (txnDel off s).maps = s.maps := rfl
@[simp] theorem txnDel_lagoon : (txnDel off s).lagoon = s.lagoon := rfl
@[simp] theorem txnDel_emb : (txnDel off s).emb = s.emb := rfl
@[simp] theorem txnDel_atolls : (txnDel off s).atolls = s.atolls := rfl
@[simp] theorem txnDel_out : (txnDel off s).out = s.out := rfl
@[simp] theorem txnDel_free : (txnDel off s).free = s.free := rfl
@[simp] theorem txnDel_pending : (txnDel off s).pending = s.pending := rfl
@[simp] theorem txnDel_heddle : (txnDel off s).heddle = { s.heddle with txns := NMap.del s.heddle.txns off } := rfl
end

section
variable (s : State)
@[simp] theorem takeId_harbour : (takeId s).harbour = s.harbour := rfl
@[simp] theorem takeId_trust : (takeId s).trust = s.trust := rfl
@[simp] theorem takeId_pool : (takeId s).pool = s.pool := rfl
@[simp] theorem takeId_clocks : (takeId s).clocks = s.clocks := rfl
@[simp] theorem takeId_thermal : (takeId s).thermal = s.thermal := rfl
@[simp] theorem takeId_store : (takeId s).store = s.store := rfl
@[simp] theorem takeId_flash : (takeId s).flash = s.flash := rfl
@[simp] theorem takeId_tide : (takeId s).tide = s.tide := rfl
@[simp] theorem takeId_isles : (takeId s).isles = s.isles := rfl
@[simp] theorem takeId_trans : (takeId s).trans = s.trans := rfl
@[simp] theorem takeId_heddle : (takeId s).heddle = s.heddle := rfl
@[simp] theorem takeId_clusters : (takeId s).clusters = s.clusters := rfl
@[simp] theorem takeId_bobbin : (takeId s).bobbin = s.bobbin := rfl
@[simp] theorem takeId_treadle : (takeId s).treadle = s.treadle := rfl
@[simp] theorem takeId_twin : (takeId s).twin = s.twin := rfl
@[simp] theorem takeId_maps : (takeId s).maps = s.maps := rfl
@[simp] theorem takeId_lagoon : (takeId s).lagoon = s.lagoon := rfl
@[simp] theorem takeId_emb : (takeId s).emb = s.emb := rfl
@[simp] theorem takeId_atolls : (takeId s).atolls = s.atolls := rfl
@[simp] theorem takeId_out : (takeId s).out = s.out := rfl
@[simp] theorem takeId_free : (takeId s).free = s.free := rfl
@[simp] theorem takeId_pending : (takeId s).pending = s.pending := rfl
@[simp] theorem takeId_links : (takeId s).links = { s.links with nextId := s.links.nextId + 1 } := rfl
end

section
variable (id : Nat) (s : State)
@[simp] theorem dropWd_harbour : (dropWd id s).harbour = s.harbour := rfl
@[simp] theorem dropWd_trust : (dropWd id s).trust = s.trust := rfl
@[simp] theorem dropWd_pool : (dropWd id s).pool = s.pool := rfl
@[simp] theorem dropWd_clocks : (dropWd id s).clocks = s.clocks := rfl
@[simp] theorem dropWd_thermal : (dropWd id s).thermal = s.thermal := rfl
@[simp] theorem dropWd_store : (dropWd id s).store = s.store := rfl
@[simp] theorem dropWd_flash : (dropWd id s).flash = s.flash := rfl
@[simp] theorem dropWd_tide : (dropWd id s).tide = s.tide := rfl
@[simp] theorem dropWd_isles : (dropWd id s).isles = s.isles := rfl
@[simp] theorem dropWd_heddle : (dropWd id s).heddle = s.heddle := rfl
@[simp] theorem dropWd_clusters : (dropWd id s).clusters = s.clusters := rfl
@[simp] theorem dropWd_bobbin : (dropWd id s).bobbin = s.bobbin := rfl
@[simp] theorem dropWd_treadle : (dropWd id s).treadle = s.treadle := rfl
@[simp] theorem dropWd_links : (dropWd id s).links = s.links := rfl
@[simp] theorem dropWd_twin : (dropWd id s).twin = s.twin := rfl
@[simp] theorem dropWd_maps : (dropWd id s).maps = s.maps := rfl
@[simp] theorem dropWd_lagoon : (dropWd id s).lagoon = s.lagoon := rfl
@[simp] theorem dropWd_emb : (dropWd id s).emb = s.emb := rfl
@[simp] theorem dropWd_atolls : (dropWd id s).atolls = s.atolls := rfl
@[simp] theorem dropWd_out : (dropWd id s).out = s.out := rfl
@[simp] theorem dropWd_free : (dropWd id s).free = s.free := rfl
@[simp] theorem dropWd_pending : (dropWd id s).pending = s.pending := rfl
@[simp] theorem dropWd_trans : (dropWd id s).trans = { s.trans with withdrawals := s.trans.withdrawals.filter (fun w => w.id != id) } := rfl
end

section
variable (key : Nat) (v : BitVec 64) (s : State)
@[simp] theorem putBind_harbour : (putBind key v s).harbour = s.harbour := rfl
@[simp] theorem putBind_trust : (putBind key v s).trust = s.trust := rfl
@[simp] theorem putBind_pool : (putBind key v s).pool = s.pool := rfl
@[simp] theorem putBind_clocks : (putBind key v s).clocks = s.clocks := rfl
@[simp] theorem putBind_thermal : (putBind key v s).thermal = s.thermal := rfl
@[simp] theorem putBind_store : (putBind key v s).store = s.store := rfl
@[simp] theorem putBind_flash : (putBind key v s).flash = s.flash := rfl
@[simp] theorem putBind_tide : (putBind key v s).tide = s.tide := rfl
@[simp] theorem putBind_isles : (putBind key v s).isles = s.isles := rfl
@[simp] theorem putBind_trans : (putBind key v s).trans = s.trans := rfl
@[simp] theorem putBind_heddle : (putBind key v s).heddle = s.heddle := rfl
@[simp] theorem putBind_clusters : (putBind key v s).clusters = s.clusters := rfl
@[simp] theorem putBind_bobbin : (putBind key v s).bobbin = s.bobbin := rfl
@[simp] theorem putBind_treadle : (putBind key v s).treadle = s.treadle := rfl
@[simp] theorem putBind_twin : (putBind key v s).twin = s.twin := rfl
@[simp] theorem putBind_maps : (putBind key v s).maps = s.maps := rfl
@[simp] theorem putBind_lagoon : (putBind key v s).lagoon = s.lagoon := rfl
@[simp] theorem putBind_emb : (putBind key v s).emb = s.emb := rfl
@[simp] theorem putBind_atolls : (putBind key v s).atolls = s.atolls := rfl
@[simp] theorem putBind_out : (putBind key v s).out = s.out := rfl
@[simp] theorem putBind_free : (putBind key v s).free = s.free := rfl
@[simp] theorem putBind_pending : (putBind key v s).pending = s.pending := rfl
@[simp] theorem putBind_links : (putBind key v s).links = { s.links with binds := if v = 0 then NMap.del s.links.binds key else NMap.set s.links.binds key v } := rfl
end

section
variable (vf : Nat) (v : BitVec 32) (s : State)
@[simp] theorem putVfBind_harbour : (putVfBind vf v s).harbour = s.harbour := rfl
@[simp] theorem putVfBind_trust : (putVfBind vf v s).trust = s.trust := rfl
@[simp] theorem putVfBind_pool : (putVfBind vf v s).pool = s.pool := rfl
@[simp] theorem putVfBind_clocks : (putVfBind vf v s).clocks = s.clocks := rfl
@[simp] theorem putVfBind_thermal : (putVfBind vf v s).thermal = s.thermal := rfl
@[simp] theorem putVfBind_store : (putVfBind vf v s).store = s.store := rfl
@[simp] theorem putVfBind_flash : (putVfBind vf v s).flash = s.flash := rfl
@[simp] theorem putVfBind_tide : (putVfBind vf v s).tide = s.tide := rfl
@[simp] theorem putVfBind_isles : (putVfBind vf v s).isles = s.isles := rfl
@[simp] theorem putVfBind_trans : (putVfBind vf v s).trans = s.trans := rfl
@[simp] theorem putVfBind_heddle : (putVfBind vf v s).heddle = s.heddle := rfl
@[simp] theorem putVfBind_clusters : (putVfBind vf v s).clusters = s.clusters := rfl
@[simp] theorem putVfBind_bobbin : (putVfBind vf v s).bobbin = s.bobbin := rfl
@[simp] theorem putVfBind_treadle : (putVfBind vf v s).treadle = s.treadle := rfl
@[simp] theorem putVfBind_twin : (putVfBind vf v s).twin = s.twin := rfl
@[simp] theorem putVfBind_maps : (putVfBind vf v s).maps = s.maps := rfl
@[simp] theorem putVfBind_lagoon : (putVfBind vf v s).lagoon = s.lagoon := rfl
@[simp] theorem putVfBind_emb : (putVfBind vf v s).emb = s.emb := rfl
@[simp] theorem putVfBind_atolls : (putVfBind vf v s).atolls = s.atolls := rfl
@[simp] theorem putVfBind_out : (putVfBind vf v s).out = s.out := rfl
@[simp] theorem putVfBind_free : (putVfBind vf v s).free = s.free := rfl
@[simp] theorem putVfBind_pending : (putVfBind vf v s).pending = s.pending := rfl
@[simp] theorem putVfBind_links : (putVfBind vf v s).links = { s.links with vfBinds := if v = 0 then NMap.del s.links.vfBinds vf else NMap.set s.links.vfBinds vf v } := rfl
end

section
variable (a : Nat) (bs : List Byte) (s : State)
@[simp] theorem writeBytes_harbour : (writeBytes a bs s).harbour = s.harbour := rfl
@[simp] theorem writeBytes_trust : (writeBytes a bs s).trust = s.trust := rfl
@[simp] theorem writeBytes_pool : (writeBytes a bs s).pool = s.pool := rfl
@[simp] theorem writeBytes_clocks : (writeBytes a bs s).clocks = s.clocks := rfl
@[simp] theorem writeBytes_thermal : (writeBytes a bs s).thermal = s.thermal := rfl
@[simp] theorem writeBytes_flash : (writeBytes a bs s).flash = s.flash := rfl
@[simp] theorem writeBytes_tide : (writeBytes a bs s).tide = s.tide := rfl
@[simp] theorem writeBytes_isles : (writeBytes a bs s).isles = s.isles := rfl
@[simp] theorem writeBytes_trans : (writeBytes a bs s).trans = s.trans := rfl
@[simp] theorem writeBytes_heddle : (writeBytes a bs s).heddle = s.heddle := rfl
@[simp] theorem writeBytes_clusters : (writeBytes a bs s).clusters = s.clusters := rfl
@[simp] theorem writeBytes_bobbin : (writeBytes a bs s).bobbin = s.bobbin := rfl
@[simp] theorem writeBytes_treadle : (writeBytes a bs s).treadle = s.treadle := rfl
@[simp] theorem writeBytes_links : (writeBytes a bs s).links = s.links := rfl
@[simp] theorem writeBytes_twin : (writeBytes a bs s).twin = s.twin := rfl
@[simp] theorem writeBytes_maps : (writeBytes a bs s).maps = s.maps := rfl
@[simp] theorem writeBytes_lagoon : (writeBytes a bs s).lagoon = s.lagoon := rfl
@[simp] theorem writeBytes_emb : (writeBytes a bs s).emb = s.emb := rfl
@[simp] theorem writeBytes_atolls : (writeBytes a bs s).atolls = s.atolls := rfl
@[simp] theorem writeBytes_out : (writeBytes a bs s).out = s.out := rfl
@[simp] theorem writeBytes_free : (writeBytes a bs s).free = s.free := rfl
@[simp] theorem writeBytes_pending : (writeBytes a bs s).pending = s.pending := rfl
@[simp] theorem writeBytes_store : (writeBytes a bs s).store = { s.store with cells := Memory.writes s.store.cells a bs } := rfl
end

section
variable (a n : Nat) (s : State)
@[simp] theorem clearBytes_harbour : (clearBytes a n s).harbour = s.harbour := rfl
@[simp] theorem clearBytes_trust : (clearBytes a n s).trust = s.trust := rfl
@[simp] theorem clearBytes_pool : (clearBytes a n s).pool = s.pool := rfl
@[simp] theorem clearBytes_clocks : (clearBytes a n s).clocks = s.clocks := rfl
@[simp] theorem clearBytes_thermal : (clearBytes a n s).thermal = s.thermal := rfl
@[simp] theorem clearBytes_flash : (clearBytes a n s).flash = s.flash := rfl
@[simp] theorem clearBytes_tide : (clearBytes a n s).tide = s.tide := rfl
@[simp] theorem clearBytes_isles : (clearBytes a n s).isles = s.isles := rfl
@[simp] theorem clearBytes_trans : (clearBytes a n s).trans = s.trans := rfl
@[simp] theorem clearBytes_heddle : (clearBytes a n s).heddle = s.heddle := rfl
@[simp] theorem clearBytes_clusters : (clearBytes a n s).clusters = s.clusters := rfl
@[simp] theorem clearBytes_bobbin : (clearBytes a n s).bobbin = s.bobbin := rfl
@[simp] theorem clearBytes_treadle : (clearBytes a n s).treadle = s.treadle := rfl
@[simp] theorem clearBytes_links : (clearBytes a n s).links = s.links := rfl
@[simp] theorem clearBytes_twin : (clearBytes a n s).twin = s.twin := rfl
@[simp] theorem clearBytes_maps : (clearBytes a n s).maps = s.maps := rfl
@[simp] theorem clearBytes_lagoon : (clearBytes a n s).lagoon = s.lagoon := rfl
@[simp] theorem clearBytes_emb : (clearBytes a n s).emb = s.emb := rfl
@[simp] theorem clearBytes_atolls : (clearBytes a n s).atolls = s.atolls := rfl
@[simp] theorem clearBytes_out : (clearBytes a n s).out = s.out := rfl
@[simp] theorem clearBytes_free : (clearBytes a n s).free = s.free := rfl
@[simp] theorem clearBytes_pending : (clearBytes a n s).pending = s.pending := rfl
@[simp] theorem clearBytes_store : (clearBytes a n s).store = { s.store with cells := Memory.clear s.store.cells a n } := rfl
end

section
variable (line : Nat) (s : State)
@[simp] theorem setPoison_harbour : (setPoison line s).harbour = s.harbour := rfl
@[simp] theorem setPoison_trust : (setPoison line s).trust = s.trust := rfl
@[simp] theorem setPoison_pool : (setPoison line s).pool = s.pool := rfl
@[simp] theorem setPoison_clocks : (setPoison line s).clocks = s.clocks := rfl
@[simp] theorem setPoison_thermal : (setPoison line s).thermal = s.thermal := rfl
@[simp] theorem setPoison_flash : (setPoison line s).flash = s.flash := rfl
@[simp] theorem setPoison_tide : (setPoison line s).tide = s.tide := rfl
@[simp] theorem setPoison_isles : (setPoison line s).isles = s.isles := rfl
@[simp] theorem setPoison_trans : (setPoison line s).trans = s.trans := rfl
@[simp] theorem setPoison_heddle : (setPoison line s).heddle = s.heddle := rfl
@[simp] theorem setPoison_clusters : (setPoison line s).clusters = s.clusters := rfl
@[simp] theorem setPoison_bobbin : (setPoison line s).bobbin = s.bobbin := rfl
@[simp] theorem setPoison_treadle : (setPoison line s).treadle = s.treadle := rfl
@[simp] theorem setPoison_links : (setPoison line s).links = s.links := rfl
@[simp] theorem setPoison_twin : (setPoison line s).twin = s.twin := rfl
@[simp] theorem setPoison_maps : (setPoison line s).maps = s.maps := rfl
@[simp] theorem setPoison_lagoon : (setPoison line s).lagoon = s.lagoon := rfl
@[simp] theorem setPoison_emb : (setPoison line s).emb = s.emb := rfl
@[simp] theorem setPoison_atolls : (setPoison line s).atolls = s.atolls := rfl
@[simp] theorem setPoison_out : (setPoison line s).out = s.out := rfl
@[simp] theorem setPoison_free : (setPoison line s).free = s.free := rfl
@[simp] theorem setPoison_pending : (setPoison line s).pending = s.pending := rfl
@[simp] theorem setPoison_store : (setPoison line s).store = { s.store with poison := insertNat line s.store.poison } := rfl
end

section
variable (line : Nat) (s : State)
@[simp] theorem clearPoison_harbour : (clearPoison line s).harbour = s.harbour := rfl
@[simp] theorem clearPoison_trust : (clearPoison line s).trust = s.trust := rfl
@[simp] theorem clearPoison_pool : (clearPoison line s).pool = s.pool := rfl
@[simp] theorem clearPoison_clocks : (clearPoison line s).clocks = s.clocks := rfl
@[simp] theorem clearPoison_thermal : (clearPoison line s).thermal = s.thermal := rfl
@[simp] theorem clearPoison_flash : (clearPoison line s).flash = s.flash := rfl
@[simp] theorem clearPoison_tide : (clearPoison line s).tide = s.tide := rfl
@[simp] theorem clearPoison_isles : (clearPoison line s).isles = s.isles := rfl
@[simp] theorem clearPoison_trans : (clearPoison line s).trans = s.trans := rfl
@[simp] theorem clearPoison_heddle : (clearPoison line s).heddle = s.heddle := rfl
@[simp] theorem clearPoison_clusters : (clearPoison line s).clusters = s.clusters := rfl
@[simp] theorem clearPoison_bobbin : (clearPoison line s).bobbin = s.bobbin := rfl
@[simp] theorem clearPoison_treadle : (clearPoison line s).treadle = s.treadle := rfl
@[simp] theorem clearPoison_links : (clearPoison line s).links = s.links := rfl
@[simp] theorem clearPoison_twin : (clearPoison line s).twin = s.twin := rfl
@[simp] theorem clearPoison_maps : (clearPoison line s).maps = s.maps := rfl
@[simp] theorem clearPoison_lagoon : (clearPoison line s).lagoon = s.lagoon := rfl
@[simp] theorem clearPoison_emb : (clearPoison line s).emb = s.emb := rfl
@[simp] theorem clearPoison_atolls : (clearPoison line s).atolls = s.atolls := rfl
@[simp] theorem clearPoison_out : (clearPoison line s).out = s.out := rfl
@[simp] theorem clearPoison_free : (clearPoison line s).free = s.free := rfl
@[simp] theorem clearPoison_pending : (clearPoison line s).pending = s.pending := rfl
@[simp] theorem clearPoison_store : (clearPoison line s).store = { s.store with poison := s.store.poison.filter (· != line) } := rfl
end

section
variable (line : Nat) (s : State)
@[simp] theorem setLost_harbour : (setLost line s).harbour = s.harbour := rfl
@[simp] theorem setLost_trust : (setLost line s).trust = s.trust := rfl
@[simp] theorem setLost_pool : (setLost line s).pool = s.pool := rfl
@[simp] theorem setLost_clocks : (setLost line s).clocks = s.clocks := rfl
@[simp] theorem setLost_thermal : (setLost line s).thermal = s.thermal := rfl
@[simp] theorem setLost_flash : (setLost line s).flash = s.flash := rfl
@[simp] theorem setLost_tide : (setLost line s).tide = s.tide := rfl
@[simp] theorem setLost_isles : (setLost line s).isles = s.isles := rfl
@[simp] theorem setLost_trans : (setLost line s).trans = s.trans := rfl
@[simp] theorem setLost_heddle : (setLost line s).heddle = s.heddle := rfl
@[simp] theorem setLost_clusters : (setLost line s).clusters = s.clusters := rfl
@[simp] theorem setLost_bobbin : (setLost line s).bobbin = s.bobbin := rfl
@[simp] theorem setLost_treadle : (setLost line s).treadle = s.treadle := rfl
@[simp] theorem setLost_links : (setLost line s).links = s.links := rfl
@[simp] theorem setLost_twin : (setLost line s).twin = s.twin := rfl
@[simp] theorem setLost_maps : (setLost line s).maps = s.maps := rfl
@[simp] theorem setLost_lagoon : (setLost line s).lagoon = s.lagoon := rfl
@[simp] theorem setLost_emb : (setLost line s).emb = s.emb := rfl
@[simp] theorem setLost_atolls : (setLost line s).atolls = s.atolls := rfl
@[simp] theorem setLost_out : (setLost line s).out = s.out := rfl
@[simp] theorem setLost_free : (setLost line s).free = s.free := rfl
@[simp] theorem setLost_pending : (setLost line s).pending = s.pending := rfl
@[simp] theorem setLost_store : (setLost line s).store = { s.store with lost := insertNat line s.store.lost } := rfl
end

section
variable (line : Nat) (s : State)
@[simp] theorem clearLost_harbour : (clearLost line s).harbour = s.harbour := rfl
@[simp] theorem clearLost_trust : (clearLost line s).trust = s.trust := rfl
@[simp] theorem clearLost_pool : (clearLost line s).pool = s.pool := rfl
@[simp] theorem clearLost_clocks : (clearLost line s).clocks = s.clocks := rfl
@[simp] theorem clearLost_thermal : (clearLost line s).thermal = s.thermal := rfl
@[simp] theorem clearLost_flash : (clearLost line s).flash = s.flash := rfl
@[simp] theorem clearLost_tide : (clearLost line s).tide = s.tide := rfl
@[simp] theorem clearLost_isles : (clearLost line s).isles = s.isles := rfl
@[simp] theorem clearLost_trans : (clearLost line s).trans = s.trans := rfl
@[simp] theorem clearLost_heddle : (clearLost line s).heddle = s.heddle := rfl
@[simp] theorem clearLost_clusters : (clearLost line s).clusters = s.clusters := rfl
@[simp] theorem clearLost_bobbin : (clearLost line s).bobbin = s.bobbin := rfl
@[simp] theorem clearLost_treadle : (clearLost line s).treadle = s.treadle := rfl
@[simp] theorem clearLost_links : (clearLost line s).links = s.links := rfl
@[simp] theorem clearLost_twin : (clearLost line s).twin = s.twin := rfl
@[simp] theorem clearLost_maps : (clearLost line s).maps = s.maps := rfl
@[simp] theorem clearLost_lagoon : (clearLost line s).lagoon = s.lagoon := rfl
@[simp] theorem clearLost_emb : (clearLost line s).emb = s.emb := rfl
@[simp] theorem clearLost_atolls : (clearLost line s).atolls = s.atolls := rfl
@[simp] theorem clearLost_out : (clearLost line s).out = s.out := rfl
@[simp] theorem clearLost_free : (clearLost line s).free = s.free := rfl
@[simp] theorem clearLost_pending : (clearLost line s).pending = s.pending := rfl
@[simp] theorem clearLost_store : (clearLost line s).store = { s.store with lost := s.store.lost.filter (· != line) } := rfl
end

section
variable (p : Nat) (f : Page → Page) (s : State)
@[simp] theorem updPage_harbour : (updPage p f s).harbour = s.harbour := rfl
@[simp] theorem updPage_trust : (updPage p f s).trust = s.trust := rfl
@[simp] theorem updPage_pool : (updPage p f s).pool = s.pool := rfl
@[simp] theorem updPage_clocks : (updPage p f s).clocks = s.clocks := rfl
@[simp] theorem updPage_thermal : (updPage p f s).thermal = s.thermal := rfl
@[simp] theorem updPage_flash : (updPage p f s).flash = s.flash := rfl
@[simp] theorem updPage_tide : (updPage p f s).tide = s.tide := rfl
@[simp] theorem updPage_isles : (updPage p f s).isles = s.isles := rfl
@[simp] theorem updPage_trans : (updPage p f s).trans = s.trans := rfl
@[simp] theorem updPage_heddle : (updPage p f s).heddle = s.heddle := rfl
@[simp] theorem updPage_clusters : (updPage p f s).clusters = s.clusters := rfl
@[simp] theorem updPage_bobbin : (updPage p f s).bobbin = s.bobbin := rfl
@[simp] theorem updPage_treadle : (updPage p f s).treadle = s.treadle := rfl
@[simp] theorem updPage_links : (updPage p f s).links = s.links := rfl
@[simp] theorem updPage_twin : (updPage p f s).twin = s.twin := rfl
@[simp] theorem updPage_maps : (updPage p f s).maps = s.maps := rfl
@[simp] theorem updPage_lagoon : (updPage p f s).lagoon = s.lagoon := rfl
@[simp] theorem updPage_emb : (updPage p f s).emb = s.emb := rfl
@[simp] theorem updPage_atolls : (updPage p f s).atolls = s.atolls := rfl
@[simp] theorem updPage_out : (updPage p f s).out = s.out := rfl
@[simp] theorem updPage_free : (updPage p f s).free = s.free := rfl
@[simp] theorem updPage_pending : (updPage p f s).pending = s.pending := rfl
@[simp] theorem updPage_store : (updPage p f s).store = { s.store with pages := NMap.upd s.store.pages p f } := rfl
end

section
variable (p : Nat) (s : State)
@[simp] theorem dropPage_harbour : (dropPage p s).harbour = s.harbour := rfl
@[simp] theorem dropPage_trust : (dropPage p s).trust = s.trust := rfl
@[simp] theorem dropPage_pool : (dropPage p s).pool = s.pool := rfl
@[simp] theorem dropPage_clocks : (dropPage p s).clocks = s.clocks := rfl
@[simp] theorem dropPage_thermal : (dropPage p s).thermal = s.thermal := rfl
@[simp] theorem dropPage_flash : (dropPage p s).flash = s.flash := rfl
@[simp] theorem dropPage_tide : (dropPage p s).tide = s.tide := rfl
@[simp] theorem dropPage_isles : (dropPage p s).isles = s.isles := rfl
@[simp] theorem dropPage_trans : (dropPage p s).trans = s.trans := rfl
@[simp] theorem dropPage_heddle : (dropPage p s).heddle = s.heddle := rfl
@[simp] theorem dropPage_clusters : (dropPage p s).clusters = s.clusters := rfl
@[simp] theorem dropPage_bobbin : (dropPage p s).bobbin = s.bobbin := rfl
@[simp] theorem dropPage_treadle : (dropPage p s).treadle = s.treadle := rfl
@[simp] theorem dropPage_links : (dropPage p s).links = s.links := rfl
@[simp] theorem dropPage_twin : (dropPage p s).twin = s.twin := rfl
@[simp] theorem dropPage_maps : (dropPage p s).maps = s.maps := rfl
@[simp] theorem dropPage_lagoon : (dropPage p s).lagoon = s.lagoon := rfl
@[simp] theorem dropPage_emb : (dropPage p s).emb = s.emb := rfl
@[simp] theorem dropPage_atolls : (dropPage p s).atolls = s.atolls := rfl
@[simp] theorem dropPage_out : (dropPage p s).out = s.out := rfl
@[simp] theorem dropPage_free : (dropPage p s).free = s.free := rfl
@[simp] theorem dropPage_pending : (dropPage p s).pending = s.pending := rfl
@[simp] theorem dropPage_store : (dropPage p s).store = { s.store with pages := NMap.del s.store.pages p } := rfl
end

section
variable (src : Nat) (s : State)
@[simp] theorem forgetAlive_harbour : (forgetAlive src s).harbour = s.harbour := rfl
@[simp] theorem forgetAlive_trust : (forgetAlive src s).trust = s.trust := rfl
@[simp] theorem forgetAlive_pool : (forgetAlive src s).pool = s.pool := rfl
@[simp] theorem forgetAlive_clocks : (forgetAlive src s).clocks = s.clocks := rfl
@[simp] theorem forgetAlive_thermal : (forgetAlive src s).thermal = s.thermal := rfl
@[simp] theorem forgetAlive_store : (forgetAlive src s).store = s.store := rfl
@[simp] theorem forgetAlive_flash : (forgetAlive src s).flash = s.flash := rfl
@[simp] theorem forgetAlive_tide : (forgetAlive src s).tide = s.tide := rfl
@[simp] theorem forgetAlive_isles : (forgetAlive src s).isles = s.isles := rfl
@[simp] theorem forgetAlive_trans : (forgetAlive src s).trans = s.trans := rfl
@[simp] theorem forgetAlive_heddle : (forgetAlive src s).heddle = s.heddle := rfl
@[simp] theorem forgetAlive_clusters : (forgetAlive src s).clusters = s.clusters := rfl
@[simp] theorem forgetAlive_bobbin : (forgetAlive src s).bobbin = s.bobbin := rfl
@[simp] theorem forgetAlive_treadle : (forgetAlive src s).treadle = s.treadle := rfl
@[simp] theorem forgetAlive_twin : (forgetAlive src s).twin = s.twin := rfl
@[simp] theorem forgetAlive_maps : (forgetAlive src s).maps = s.maps := rfl
@[simp] theorem forgetAlive_lagoon : (forgetAlive src s).lagoon = s.lagoon := rfl
@[simp] theorem forgetAlive_emb : (forgetAlive src s).emb = s.emb := rfl
@[simp] theorem forgetAlive_atolls : (forgetAlive src s).atolls = s.atolls := rfl
@[simp] theorem forgetAlive_out : (forgetAlive src s).out = s.out := rfl
@[simp] theorem forgetAlive_free : (forgetAlive src s).free = s.free := rfl
@[simp] theorem forgetAlive_pending : (forgetAlive src s).pending = s.pending := rfl
@[simp] theorem forgetAlive_links : (forgetAlive src s).links = { s.links with rxAlive := s.links.rxAlive.filter (fun a => a.1 % 2 ^ 20 / 256 != src) } := rfl
end

section
variable (o : Out) (s : State)
@[simp] theorem emit_harbour : (emit o s).harbour = s.harbour := rfl
@[simp] theorem emit_trust : (emit o s).trust = s.trust := rfl
@[simp] theorem emit_pool : (emit o s).pool = s.pool := rfl
@[simp] theorem emit_clocks : (emit o s).clocks = s.clocks := rfl
@[simp] theorem emit_thermal : (emit o s).thermal = s.thermal := rfl
@[simp] theorem emit_store : (emit o s).store = s.store := rfl
@[simp] theorem emit_flash : (emit o s).flash = s.flash := rfl
@[simp] theorem emit_tide : (emit o s).tide = s.tide := rfl
@[simp] theorem emit_isles : (emit o s).isles = s.isles := rfl
@[simp] theorem emit_trans : (emit o s).trans = s.trans := rfl
@[simp] theorem emit_heddle : (emit o s).heddle = s.heddle := rfl
@[simp] theorem emit_clusters : (emit o s).clusters = s.clusters := rfl
@[simp] theorem emit_bobbin : (emit o s).bobbin = s.bobbin := rfl
@[simp] theorem emit_treadle : (emit o s).treadle = s.treadle := rfl
@[simp] theorem emit_links : (emit o s).links = s.links := rfl
@[simp] theorem emit_twin : (emit o s).twin = s.twin := rfl
@[simp] theorem emit_maps : (emit o s).maps = s.maps := rfl
@[simp] theorem emit_lagoon : (emit o s).lagoon = s.lagoon := rfl
@[simp] theorem emit_emb : (emit o s).emb = s.emb := rfl
@[simp] theorem emit_atolls : (emit o s).atolls = s.atolls := rfl
@[simp] theorem emit_free : (emit o s).free = s.free := rfl
@[simp] theorem emit_pending : (emit o s).pending = s.pending := rfl
@[simp] theorem emit_out : (emit o s).out = s.out ++ [o] := rfl
end

section
variable (fn : Nat) (f : Fn → Fn) (s : State)
@[simp] theorem updFn_harbour : (updFn fn f s).harbour = s.harbour := rfl
@[simp] theorem updFn_trust : (updFn fn f s).trust = s.trust := rfl
@[simp] theorem updFn_pool : (updFn fn f s).pool = s.pool := rfl
@[simp] theorem updFn_clocks : (updFn fn f s).clocks = s.clocks := rfl
@[simp] theorem updFn_thermal : (updFn fn f s).thermal = s.thermal := rfl
@[simp] theorem updFn_store : (updFn fn f s).store = s.store := rfl
@[simp] theorem updFn_flash : (updFn fn f s).flash = s.flash := rfl
@[simp] theorem updFn_tide : (updFn fn f s).tide = s.tide := rfl
@[simp] theorem updFn_isles : (updFn fn f s).isles = s.isles := rfl
@[simp] theorem updFn_trans : (updFn fn f s).trans = s.trans := rfl
@[simp] theorem updFn_heddle : (updFn fn f s).heddle = s.heddle := rfl
@[simp] theorem updFn_clusters : (updFn fn f s).clusters = s.clusters := rfl
@[simp] theorem updFn_treadle : (updFn fn f s).treadle = s.treadle := rfl
@[simp] theorem updFn_links : (updFn fn f s).links = s.links := rfl
@[simp] theorem updFn_twin : (updFn fn f s).twin = s.twin := rfl
@[simp] theorem updFn_maps : (updFn fn f s).maps = s.maps := rfl
@[simp] theorem updFn_lagoon : (updFn fn f s).lagoon = s.lagoon := rfl
@[simp] theorem updFn_emb : (updFn fn f s).emb = s.emb := rfl
@[simp] theorem updFn_atolls : (updFn fn f s).atolls = s.atolls := rfl
@[simp] theorem updFn_out : (updFn fn f s).out = s.out := rfl
@[simp] theorem updFn_free : (updFn fn f s).free = s.free := rfl
@[simp] theorem updFn_pending : (updFn fn f s).pending = s.pending := rfl
@[simp] theorem updFn_bobbin : (updFn fn f s).bobbin = { s.bobbin with fns := NMap.upd s.bobbin.fns fn f } := rfl
end

section
variable (q : Nat) (f : Sq → Sq) (s : State)
@[simp] theorem updSq_harbour : (updSq q f s).harbour = s.harbour := rfl
@[simp] theorem updSq_trust : (updSq q f s).trust = s.trust := rfl
@[simp] theorem updSq_pool : (updSq q f s).pool = s.pool := rfl
@[simp] theorem updSq_clocks : (updSq q f s).clocks = s.clocks := rfl
@[simp] theorem updSq_thermal : (updSq q f s).thermal = s.thermal := rfl
@[simp] theorem updSq_store : (updSq q f s).store = s.store := rfl
@[simp] theorem updSq_flash : (updSq q f s).flash = s.flash := rfl
@[simp] theorem updSq_tide : (updSq q f s).tide = s.tide := rfl
@[simp] theorem updSq_isles : (updSq q f s).isles = s.isles := rfl
@[simp] theorem updSq_trans : (updSq q f s).trans = s.trans := rfl
@[simp] theorem updSq_heddle : (updSq q f s).heddle = s.heddle := rfl
@[simp] theorem updSq_clusters : (updSq q f s).clusters = s.clusters := rfl
@[simp] theorem updSq_treadle : (updSq q f s).treadle = s.treadle := rfl
@[simp] theorem updSq_links : (updSq q f s).links = s.links := rfl
@[simp] theorem updSq_twin : (updSq q f s).twin = s.twin := rfl
@[simp] theorem updSq_maps : (updSq q f s).maps = s.maps := rfl
@[simp] theorem updSq_lagoon : (updSq q f s).lagoon = s.lagoon := rfl
@[simp] theorem updSq_emb : (updSq q f s).emb = s.emb := rfl
@[simp] theorem updSq_atolls : (updSq q f s).atolls = s.atolls := rfl
@[simp] theorem updSq_out : (updSq q f s).out = s.out := rfl
@[simp] theorem updSq_free : (updSq q f s).free = s.free := rfl
@[simp] theorem updSq_pending : (updSq q f s).pending = s.pending := rfl
@[simp] theorem updSq_bobbin : (updSq q f s).bobbin = { s.bobbin with sqs := NMap.upd s.bobbin.sqs q f } := rfl
end

section
variable (q : Nat) (f : Cq → Cq) (s : State)
@[simp] theorem updCq_harbour : (updCq q f s).harbour = s.harbour := rfl
@[simp] theorem updCq_trust : (updCq q f s).trust = s.trust := rfl
@[simp] theorem updCq_pool : (updCq q f s).pool = s.pool := rfl
@[simp] theorem updCq_clocks : (updCq q f s).clocks = s.clocks := rfl
@[simp] theorem updCq_thermal : (updCq q f s).thermal = s.thermal := rfl
@[simp] theorem updCq_store : (updCq q f s).store = s.store := rfl
@[simp] theorem updCq_flash : (updCq q f s).flash = s.flash := rfl
@[simp] theorem updCq_tide : (updCq q f s).tide = s.tide := rfl
@[simp] theorem updCq_isles : (updCq q f s).isles = s.isles := rfl
@[simp] theorem updCq_trans : (updCq q f s).trans = s.trans := rfl
@[simp] theorem updCq_heddle : (updCq q f s).heddle = s.heddle := rfl
@[simp] theorem updCq_clusters : (updCq q f s).clusters = s.clusters := rfl
@[simp] theorem updCq_treadle : (updCq q f s).treadle = s.treadle := rfl
@[simp] theorem updCq_links : (updCq q f s).links = s.links := rfl
@[simp] theorem updCq_twin : (updCq q f s).twin = s.twin := rfl
@[simp] theorem updCq_maps : (updCq q f s).maps = s.maps := rfl
@[simp] theorem updCq_lagoon : (updCq q f s).lagoon = s.lagoon := rfl
@[simp] theorem updCq_emb : (updCq q f s).emb = s.emb := rfl
@[simp] theorem updCq_atolls : (updCq q f s).atolls = s.atolls := rfl
@[simp] theorem updCq_out : (updCq q f s).out = s.out := rfl
@[simp] theorem updCq_free : (updCq q f s).free = s.free := rfl
@[simp] theorem updCq_pending : (updCq q f s).pending = s.pending := rfl
@[simp] theorem updCq_bobbin : (updCq q f s).bobbin = { s.bobbin with cqs := NMap.upd s.bobbin.cqs q f } := rfl
end

section
variable (k : CmdKey) (f : Cmd → Cmd) (s : State)
@[simp] theorem updCmd_harbour : (updCmd k f s).harbour = s.harbour := rfl
@[simp] theorem updCmd_trust : (updCmd k f s).trust = s.trust := rfl
@[simp] theorem updCmd_pool : (updCmd k f s).pool = s.pool := rfl
@[simp] theorem updCmd_clocks : (updCmd k f s).clocks = s.clocks := rfl
@[simp] theorem updCmd_thermal : (updCmd k f s).thermal = s.thermal := rfl
@[simp] theorem updCmd_store : (updCmd k f s).store = s.store := rfl
@[simp] theorem updCmd_flash : (updCmd k f s).flash = s.flash := rfl
@[simp] theorem updCmd_tide : (updCmd k f s).tide = s.tide := rfl
@[simp] theorem updCmd_isles : (updCmd k f s).isles = s.isles := rfl
@[simp] theorem updCmd_trans : (updCmd k f s).trans = s.trans := rfl
@[simp] theorem updCmd_heddle : (updCmd k f s).heddle = s.heddle := rfl
@[simp] theorem updCmd_clusters : (updCmd k f s).clusters = s.clusters := rfl
@[simp] theorem updCmd_treadle : (updCmd k f s).treadle = s.treadle := rfl
@[simp] theorem updCmd_links : (updCmd k f s).links = s.links := rfl
@[simp] theorem updCmd_twin : (updCmd k f s).twin = s.twin := rfl
@[simp] theorem updCmd_maps : (updCmd k f s).maps = s.maps := rfl
@[simp] theorem updCmd_lagoon : (updCmd k f s).lagoon = s.lagoon := rfl
@[simp] theorem updCmd_emb : (updCmd k f s).emb = s.emb := rfl
@[simp] theorem updCmd_atolls : (updCmd k f s).atolls = s.atolls := rfl
@[simp] theorem updCmd_out : (updCmd k f s).out = s.out := rfl
@[simp] theorem updCmd_free : (updCmd k f s).free = s.free := rfl
@[simp] theorem updCmd_pending : (updCmd k f s).pending = s.pending := rfl
@[simp] theorem updCmd_bobbin : (updCmd k f s).bobbin = { s.bobbin with cmds := s.bobbin.cmds.map (fun c => if c.key = k then f c else c) } := rfl
end

section
variable (k : CmdKey) (s : State)
@[simp] theorem dropCmd_harbour : (dropCmd k s).harbour = s.harbour := rfl
@[simp] theorem dropCmd_trust : (dropCmd k s).trust = s.trust := rfl
@[simp] theorem dropCmd_pool : (dropCmd k s).pool = s.pool := rfl
@[simp] theorem dropCmd_clocks : (dropCmd k s).clocks = s.clocks := rfl
@[simp] theorem dropCmd_thermal : (dropCmd k s).thermal = s.thermal := rfl
@[simp] theorem dropCmd_store : (dropCmd k s).store = s.store := rfl
@[simp] theorem dropCmd_flash : (dropCmd k s).flash = s.flash := rfl
@[simp] theorem dropCmd_tide : (dropCmd k s).tide = s.tide := rfl
@[simp] theorem dropCmd_isles : (dropCmd k s).isles = s.isles := rfl
@[simp] theorem dropCmd_trans : (dropCmd k s).trans = s.trans := rfl
@[simp] theorem dropCmd_heddle : (dropCmd k s).heddle = s.heddle := rfl
@[simp] theorem dropCmd_clusters : (dropCmd k s).clusters = s.clusters := rfl
@[simp] theorem dropCmd_treadle : (dropCmd k s).treadle = s.treadle := rfl
@[simp] theorem dropCmd_links : (dropCmd k s).links = s.links := rfl
@[simp] theorem dropCmd_twin : (dropCmd k s).twin = s.twin := rfl
@[simp] theorem dropCmd_maps : (dropCmd k s).maps = s.maps := rfl
@[simp] theorem dropCmd_lagoon : (dropCmd k s).lagoon = s.lagoon := rfl
@[simp] theorem dropCmd_emb : (dropCmd k s).emb = s.emb := rfl
@[simp] theorem dropCmd_atolls : (dropCmd k s).atolls = s.atolls := rfl
@[simp] theorem dropCmd_out : (dropCmd k s).out = s.out := rfl
@[simp] theorem dropCmd_free : (dropCmd k s).free = s.free := rfl
@[simp] theorem dropCmd_pending : (dropCmd k s).pending = s.pending := rfl
@[simp] theorem dropCmd_bobbin : (dropCmd k s).bobbin = { s.bobbin with cmds := s.bobbin.cmds.filter (fun c => c.key != k) } := rfl
end

section
variable (i : Nat) (f : Isle → Isle) (s : State)
@[simp] theorem updIsle_harbour : (updIsle i f s).harbour = s.harbour := rfl
@[simp] theorem updIsle_trust : (updIsle i f s).trust = s.trust := rfl
@[simp] theorem updIsle_pool : (updIsle i f s).pool = s.pool := rfl
@[simp] theorem updIsle_clocks : (updIsle i f s).clocks = s.clocks := rfl
@[simp] theorem updIsle_thermal : (updIsle i f s).thermal = s.thermal := rfl
@[simp] theorem updIsle_store : (updIsle i f s).store = s.store := rfl
@[simp] theorem updIsle_flash : (updIsle i f s).flash = s.flash := rfl
@[simp] theorem updIsle_tide : (updIsle i f s).tide = s.tide := rfl
@[simp] theorem updIsle_trans : (updIsle i f s).trans = s.trans := rfl
@[simp] theorem updIsle_heddle : (updIsle i f s).heddle = s.heddle := rfl
@[simp] theorem updIsle_clusters : (updIsle i f s).clusters = s.clusters := rfl
@[simp] theorem updIsle_bobbin : (updIsle i f s).bobbin = s.bobbin := rfl
@[simp] theorem updIsle_treadle : (updIsle i f s).treadle = s.treadle := rfl
@[simp] theorem updIsle_links : (updIsle i f s).links = s.links := rfl
@[simp] theorem updIsle_twin : (updIsle i f s).twin = s.twin := rfl
@[simp] theorem updIsle_maps : (updIsle i f s).maps = s.maps := rfl
@[simp] theorem updIsle_lagoon : (updIsle i f s).lagoon = s.lagoon := rfl
@[simp] theorem updIsle_emb : (updIsle i f s).emb = s.emb := rfl
@[simp] theorem updIsle_atolls : (updIsle i f s).atolls = s.atolls := rfl
@[simp] theorem updIsle_out : (updIsle i f s).out = s.out := rfl
@[simp] theorem updIsle_free : (updIsle i f s).free = s.free := rfl
@[simp] theorem updIsle_pending : (updIsle i f s).pending = s.pending := rfl
@[simp] theorem updIsle_isles : (updIsle i f s).isles = NMap.upd s.isles i f := rfl
end

section
variable (s : State)
@[simp] theorem nextFree_harbour : (nextFree s).harbour = s.harbour := rfl
@[simp] theorem nextFree_trust : (nextFree s).trust = s.trust := rfl
@[simp] theorem nextFree_pool : (nextFree s).pool = s.pool := rfl
@[simp] theorem nextFree_clocks : (nextFree s).clocks = s.clocks := rfl
@[simp] theorem nextFree_thermal : (nextFree s).thermal = s.thermal := rfl
@[simp] theorem nextFree_store : (nextFree s).store = s.store := rfl
@[simp] theorem nextFree_flash : (nextFree s).flash = s.flash := rfl
@[simp] theorem nextFree_tide : (nextFree s).tide = s.tide := rfl
@[simp] theorem nextFree_isles : (nextFree s).isles = s.isles := rfl
@[simp] theorem nextFree_trans : (nextFree s).trans = s.trans := rfl
@[simp] theorem nextFree_heddle : (nextFree s).heddle = s.heddle := rfl
@[simp] theorem nextFree_clusters : (nextFree s).clusters = s.clusters := rfl
@[simp] theorem nextFree_bobbin : (nextFree s).bobbin = s.bobbin := rfl
@[simp] theorem nextFree_treadle : (nextFree s).treadle = s.treadle := rfl
@[simp] theorem nextFree_links : (nextFree s).links = s.links := rfl
@[simp] theorem nextFree_twin : (nextFree s).twin = s.twin := rfl
@[simp] theorem nextFree_maps : (nextFree s).maps = s.maps := rfl
@[simp] theorem nextFree_lagoon : (nextFree s).lagoon = s.lagoon := rfl
@[simp] theorem nextFree_emb : (nextFree s).emb = s.emb := rfl
@[simp] theorem nextFree_atolls : (nextFree s).atolls = s.atolls := rfl
@[simp] theorem nextFree_out : (nextFree s).out = s.out := rfl
@[simp] theorem nextFree_pending : (nextFree s).pending = s.pending := rfl
@[simp] theorem nextFree_free : (nextFree s).free = s.free + 1 := rfl
end

section
variable (h : Nat) (f : Plan → Plan) (s : State)
@[simp] theorem updPlan_harbour : (updPlan h f s).harbour = s.harbour := rfl
@[simp] theorem updPlan_trust : (updPlan h f s).trust = s.trust := rfl
@[simp] theorem updPlan_pool : (updPlan h f s).pool = s.pool := rfl
@[simp] theorem updPlan_clocks : (updPlan h f s).clocks = s.clocks := rfl
@[simp] theorem updPlan_thermal : (updPlan h f s).thermal = s.thermal := rfl
@[simp] theorem updPlan_store : (updPlan h f s).store = s.store := rfl
@[simp] theorem updPlan_flash : (updPlan h f s).flash = s.flash := rfl
@[simp] theorem updPlan_tide : (updPlan h f s).tide = s.tide := rfl
@[simp] theorem updPlan_isles : (updPlan h f s).isles = s.isles := rfl
@[simp] theorem updPlan_trans : (updPlan h f s).trans = s.trans := rfl
@[simp] theorem updPlan_heddle : (updPlan h f s).heddle = s.heddle := rfl
@[simp] theorem updPlan_clusters : (updPlan h f s).clusters = s.clusters := rfl
@[simp] theorem updPlan_bobbin : (updPlan h f s).bobbin = s.bobbin := rfl
@[simp] theorem updPlan_links : (updPlan h f s).links = s.links := rfl
@[simp] theorem updPlan_twin : (updPlan h f s).twin = s.twin := rfl
@[simp] theorem updPlan_maps : (updPlan h f s).maps = s.maps := rfl
@[simp] theorem updPlan_lagoon : (updPlan h f s).lagoon = s.lagoon := rfl
@[simp] theorem updPlan_emb : (updPlan h f s).emb = s.emb := rfl
@[simp] theorem updPlan_atolls : (updPlan h f s).atolls = s.atolls := rfl
@[simp] theorem updPlan_out : (updPlan h f s).out = s.out := rfl
@[simp] theorem updPlan_free : (updPlan h f s).free = s.free := rfl
@[simp] theorem updPlan_pending : (updPlan h f s).pending = s.pending := rfl
@[simp] theorem updPlan_treadle : (updPlan h f s).treadle = { s.treadle with plans := NMap.upd s.treadle.plans h f } := rfl
end

section
variable (id : Nat) (f : Withdrawal → Withdrawal) (s : State)
@[simp] theorem updWd_harbour : (updWd id f s).harbour = s.harbour := rfl
@[simp] theorem updWd_trust : (updWd id f s).trust = s.trust := rfl
@[simp] theorem updWd_pool : (updWd id f s).pool = s.pool := rfl
@[simp] theorem updWd_clocks : (updWd id f s).clocks = s.clocks := rfl
@[simp] theorem updWd_thermal : (updWd id f s).thermal = s.thermal := rfl
@[simp] theorem updWd_store : (updWd id f s).store = s.store := rfl
@[simp] theorem updWd_flash : (updWd id f s).flash = s.flash := rfl
@[simp] theorem updWd_tide : (updWd id f s).tide = s.tide := rfl
@[simp] theorem updWd_isles : (updWd id f s).isles = s.isles := rfl
@[simp] theorem updWd_heddle : (updWd id f s).heddle = s.heddle := rfl
@[simp] theorem updWd_clusters : (updWd id f s).clusters = s.clusters := rfl
@[simp] theorem updWd_bobbin : (updWd id f s).bobbin = s.bobbin := rfl
@[simp] theorem updWd_treadle : (updWd id f s).treadle = s.treadle := rfl
@[simp] theorem updWd_links : (updWd id f s).links = s.links := rfl
@[simp] theorem updWd_twin : (updWd id f s).twin = s.twin := rfl
@[simp] theorem updWd_maps : (updWd id f s).maps = s.maps := rfl
@[simp] theorem updWd_lagoon : (updWd id f s).lagoon = s.lagoon := rfl
@[simp] theorem updWd_emb : (updWd id f s).emb = s.emb := rfl
@[simp] theorem updWd_atolls : (updWd id f s).atolls = s.atolls := rfl
@[simp] theorem updWd_out : (updWd id f s).out = s.out := rfl
@[simp] theorem updWd_free : (updWd id f s).free = s.free := rfl
@[simp] theorem updWd_pending : (updWd id f s).pending = s.pending := rfl
@[simp] theorem updWd_trans : (updWd id f s).trans = { s.trans with withdrawals := s.trans.withdrawals.map (fun w => if w.id = id then f w else w) } := rfl
end

section
variable (s : State)
@[simp] theorem refuseWrite_trust : (refuseWrite s).trust = s.trust := rfl
@[simp] theorem refuseWrite_pool : (refuseWrite s).pool = s.pool := rfl
@[simp] theorem refuseWrite_clocks : (refuseWrite s).clocks = s.clocks := rfl
@[simp] theorem refuseWrite_thermal : (refuseWrite s).thermal = s.thermal := rfl
@[simp] theorem refuseWrite_store : (refuseWrite s).store = s.store := rfl
@[simp] theorem refuseWrite_flash : (refuseWrite s).flash = s.flash := rfl
@[simp] theorem refuseWrite_tide : (refuseWrite s).tide = s.tide := rfl
@[simp] theorem refuseWrite_isles : (refuseWrite s).isles = s.isles := rfl
@[simp] theorem refuseWrite_trans : (refuseWrite s).trans = s.trans := rfl
@[simp] theorem refuseWrite_heddle : (refuseWrite s).heddle = s.heddle := rfl
@[simp] theorem refuseWrite_clusters : (refuseWrite s).clusters = s.clusters := rfl
@[simp] theorem refuseWrite_bobbin : (refuseWrite s).bobbin = s.bobbin := rfl
@[simp] theorem refuseWrite_treadle : (refuseWrite s).treadle = s.treadle := rfl
@[simp] theorem refuseWrite_links : (refuseWrite s).links = s.links := rfl
@[simp] theorem refuseWrite_twin : (refuseWrite s).twin = s.twin := rfl
@[simp] theorem refuseWrite_maps : (refuseWrite s).maps = s.maps := rfl
@[simp] theorem refuseWrite_lagoon : (refuseWrite s).lagoon = s.lagoon := rfl
@[simp] theorem refuseWrite_emb : (refuseWrite s).emb = s.emb := rfl
@[simp] theorem refuseWrite_atolls : (refuseWrite s).atolls = s.atolls := rfl
@[simp] theorem refuseWrite_out : (refuseWrite s).out = s.out := rfl
@[simp] theorem refuseWrite_free : (refuseWrite s).free = s.free := rfl
@[simp] theorem refuseWrite_pending : (refuseWrite s).pending = s.pending := rfl
@[simp] theorem refuseWrite_harbour : (refuseWrite s).harbour = { s.harbour with refusedWrites := satInc s.harbour.refusedWrites 255 } := rfl
end

section
variable (value : BitVec 32) (s : State)
@[simp] theorem clearAlerts_harbour : (clearAlerts value s).harbour = s.harbour := rfl
@[simp] theorem clearAlerts_trust : (clearAlerts value s).trust = s.trust := rfl
@[simp] theorem clearAlerts_pool : (clearAlerts value s).pool = s.pool := rfl
@[simp] theorem clearAlerts_clocks : (clearAlerts value s).clocks = s.clocks := rfl
@[simp] theorem clearAlerts_store : (clearAlerts value s).store = s.store := rfl
@[simp] theorem clearAlerts_flash : (clearAlerts value s).flash = s.flash := rfl
@[simp] theorem clearAlerts_tide : (clearAlerts value s).tide = s.tide := rfl
@[simp] theorem clearAlerts_isles : (clearAlerts value s).isles = s.isles := rfl
@[simp] theorem clearAlerts_trans : (clearAlerts value s).trans = s.trans := rfl
@[simp] theorem clearAlerts_heddle : (clearAlerts value s).heddle = s.heddle := rfl
@[simp] theorem clearAlerts_clusters : (clearAlerts value s).clusters = s.clusters := rfl
@[simp] theorem clearAlerts_bobbin : (clearAlerts value s).bobbin = s.bobbin := rfl
@[simp] theorem clearAlerts_treadle : (clearAlerts value s).treadle = s.treadle := rfl
@[simp] theorem clearAlerts_links : (clearAlerts value s).links = s.links := rfl
@[simp] theorem clearAlerts_twin : (clearAlerts value s).twin = s.twin := rfl
@[simp] theorem clearAlerts_maps : (clearAlerts value s).maps = s.maps := rfl
@[simp] theorem clearAlerts_lagoon : (clearAlerts value s).lagoon = s.lagoon := rfl
@[simp] theorem clearAlerts_emb : (clearAlerts value s).emb = s.emb := rfl
@[simp] theorem clearAlerts_atolls : (clearAlerts value s).atolls = s.atolls := rfl
@[simp] theorem clearAlerts_out : (clearAlerts value s).out = s.out := rfl
@[simp] theorem clearAlerts_free : (clearAlerts value s).free = s.free := rfl
@[simp] theorem clearAlerts_pending : (clearAlerts value s).pending = s.pending := rfl
@[simp] theorem clearAlerts_thermal : (clearAlerts value s).thermal = { s.thermal with warn := s.thermal.warn && !value.getLsbD 0, throttle := s.thermal.throttle && !value.getLsbD 1 } := rfl
end

section
variable (cause : Nat) (s : State)
@[simp] theorem refuseImage_trust : (refuseImage cause s).trust = s.trust := rfl
@[simp] theorem refuseImage_pool : (refuseImage cause s).pool = s.pool := rfl
@[simp] theorem refuseImage_clocks : (refuseImage cause s).clocks = s.clocks := rfl
@[simp] theorem refuseImage_thermal : (refuseImage cause s).thermal = s.thermal := rfl
@[simp] theorem refuseImage_store : (refuseImage cause s).store = s.store := rfl
@[simp] theorem refuseImage_flash : (refuseImage cause s).flash = s.flash := rfl
@[simp] theorem refuseImage_tide : (refuseImage cause s).tide = s.tide := rfl
@[simp] theorem refuseImage_isles : (refuseImage cause s).isles = s.isles := rfl
@[simp] theorem refuseImage_trans : (refuseImage cause s).trans = s.trans := rfl
@[simp] theorem refuseImage_heddle : (refuseImage cause s).heddle = s.heddle := rfl
@[simp] theorem refuseImage_clusters : (refuseImage cause s).clusters = s.clusters := rfl
@[simp] theorem refuseImage_bobbin : (refuseImage cause s).bobbin = s.bobbin := rfl
@[simp] theorem refuseImage_treadle : (refuseImage cause s).treadle = s.treadle := rfl
@[simp] theorem refuseImage_links : (refuseImage cause s).links = s.links := rfl
@[simp] theorem refuseImage_twin : (refuseImage cause s).twin = s.twin := rfl
@[simp] theorem refuseImage_maps : (refuseImage cause s).maps = s.maps := rfl
@[simp] theorem refuseImage_lagoon : (refuseImage cause s).lagoon = s.lagoon := rfl
@[simp] theorem refuseImage_emb : (refuseImage cause s).emb = s.emb := rfl
@[simp] theorem refuseImage_atolls : (refuseImage cause s).atolls = s.atolls := rfl
@[simp] theorem refuseImage_out : (refuseImage cause s).out = s.out := rfl
@[simp] theorem refuseImage_free : (refuseImage cause s).free = s.free := rfl
@[simp] theorem refuseImage_pending : (refuseImage cause s).pending = s.pending := rfl
@[simp] theorem refuseImage_harbour : (refuseImage cause s).harbour = { s.harbour with boot := 4, bootCause := cause, bootRefusals := satInc s.harbour.bootRefusals 255, verified := false } := rfl
end

section
variable (p : Nat) (f : Port → Port) (s : State)
@[simp] theorem updPort_harbour : (updPort p f s).harbour = s.harbour := rfl
@[simp] theorem updPort_trust : (updPort p f s).trust = s.trust := rfl
@[simp] theorem updPort_pool : (updPort p f s).pool = s.pool := rfl
@[simp] theorem updPort_clocks : (updPort p f s).clocks = s.clocks := rfl
@[simp] theorem updPort_thermal : (updPort p f s).thermal = s.thermal := rfl
@[simp] theorem updPort_store : (updPort p f s).store = s.store := rfl
@[simp] theorem updPort_flash : (updPort p f s).flash = s.flash := rfl
@[simp] theorem updPort_tide : (updPort p f s).tide = s.tide := rfl
@[simp] theorem updPort_isles : (updPort p f s).isles = s.isles := rfl
@[simp] theorem updPort_trans : (updPort p f s).trans = s.trans := rfl
@[simp] theorem updPort_heddle : (updPort p f s).heddle = s.heddle := rfl
@[simp] theorem updPort_clusters : (updPort p f s).clusters = s.clusters := rfl
@[simp] theorem updPort_bobbin : (updPort p f s).bobbin = s.bobbin := rfl
@[simp] theorem updPort_treadle : (updPort p f s).treadle = s.treadle := rfl
@[simp] theorem updPort_twin : (updPort p f s).twin = s.twin := rfl
@[simp] theorem updPort_maps : (updPort p f s).maps = s.maps := rfl
@[simp] theorem updPort_lagoon : (updPort p f s).lagoon = s.lagoon := rfl
@[simp] theorem updPort_emb : (updPort p f s).emb = s.emb := rfl
@[simp] theorem updPort_atolls : (updPort p f s).atolls = s.atolls := rfl
@[simp] theorem updPort_out : (updPort p f s).out = s.out := rfl
@[simp] theorem updPort_free : (updPort p f s).free = s.free := rfl
@[simp] theorem updPort_pending : (updPort p f s).pending = s.pending := rfl
@[simp] theorem updPort_links : (updPort p f s).links = { s.links with ports := NMap.upd s.links.ports p f } := rfl
end

section
variable (why : Why) (key : Nat) (r : Req) (s : State)
@[simp] theorem park_harbour : (park why key r s).harbour = s.harbour := rfl
@[simp] theorem park_trust : (park why key r s).trust = s.trust := rfl
@[simp] theorem park_pool : (park why key r s).pool = s.pool := rfl
@[simp] theorem park_clocks : (park why key r s).clocks = s.clocks := rfl
@[simp] theorem park_thermal : (park why key r s).thermal = s.thermal := rfl
@[simp] theorem park_store : (park why key r s).store = s.store := rfl
@[simp] theorem park_flash : (park why key r s).flash = s.flash := rfl
@[simp] theorem park_tide : (park why key r s).tide = s.tide := rfl
@[simp] theorem park_isles : (park why key r s).isles = s.isles := rfl
@[simp] theorem park_trans : (park why key r s).trans = s.trans := rfl
@[simp] theorem park_heddle : (park why key r s).heddle = s.heddle := rfl
@[simp] theorem park_clusters : (park why key r s).clusters = s.clusters := rfl
@[simp] theorem park_bobbin : (park why key r s).bobbin = s.bobbin := rfl
@[simp] theorem park_treadle : (park why key r s).treadle = s.treadle := rfl
@[simp] theorem park_twin : (park why key r s).twin = s.twin := rfl
@[simp] theorem park_maps : (park why key r s).maps = s.maps := rfl
@[simp] theorem park_lagoon : (park why key r s).lagoon = s.lagoon := rfl
@[simp] theorem park_emb : (park why key r s).emb = s.emb := rfl
@[simp] theorem park_atolls : (park why key r s).atolls = s.atolls := rfl
@[simp] theorem park_out : (park why key r s).out = s.out := rfl
@[simp] theorem park_free : (park why key r s).free = s.free := rfl
@[simp] theorem park_pending : (park why key r s).pending = s.pending := rfl
@[simp] theorem park_links : (park why key r s).links = { s.links with parked := parkIn { r with why := some why, key := key } s.links.parked } := rfl
end

section
variable (id : Nat) (s : State)
@[simp] theorem unpark_harbour : (unpark id s).harbour = s.harbour := rfl
@[simp] theorem unpark_trust : (unpark id s).trust = s.trust := rfl
@[simp] theorem unpark_pool : (unpark id s).pool = s.pool := rfl
@[simp] theorem unpark_clocks : (unpark id s).clocks = s.clocks := rfl
@[simp] theorem unpark_thermal : (unpark id s).thermal = s.thermal := rfl
@[simp] theorem unpark_store : (unpark id s).store = s.store := rfl
@[simp] theorem unpark_flash : (unpark id s).flash = s.flash := rfl
@[simp] theorem unpark_tide : (unpark id s).tide = s.tide := rfl
@[simp] theorem unpark_isles : (unpark id s).isles = s.isles := rfl
@[simp] theorem unpark_trans : (unpark id s).trans = s.trans := rfl
@[simp] theorem unpark_heddle : (unpark id s).heddle = s.heddle := rfl
@[simp] theorem unpark_clusters : (unpark id s).clusters = s.clusters := rfl
@[simp] theorem unpark_bobbin : (unpark id s).bobbin = s.bobbin := rfl
@[simp] theorem unpark_treadle : (unpark id s).treadle = s.treadle := rfl
@[simp] theorem unpark_twin : (unpark id s).twin = s.twin := rfl
@[simp] theorem unpark_maps : (unpark id s).maps = s.maps := rfl
@[simp] theorem unpark_lagoon : (unpark id s).lagoon = s.lagoon := rfl
@[simp] theorem unpark_emb : (unpark id s).emb = s.emb := rfl
@[simp] theorem unpark_atolls : (unpark id s).atolls = s.atolls := rfl
@[simp] theorem unpark_out : (unpark id s).out = s.out := rfl
@[simp] theorem unpark_free : (unpark id s).free = s.free := rfl
@[simp] theorem unpark_pending : (unpark id s).pending = s.pending := rfl
@[simp] theorem unpark_links : (unpark id s).links = { s.links with parked := s.links.parked.filter (fun r => r.id != id) } := rfl
end

section
variable (p : Req → Bool) (s : State)
@[simp] theorem release_harbour : (release p s).harbour = s.harbour := rfl
@[simp] theorem release_trust : (release p s).trust = s.trust := rfl
@[simp] theorem release_pool : (release p s).pool = s.pool := rfl
@[simp] theorem release_clocks : (release p s).clocks = s.clocks := rfl
@[simp] theorem release_thermal : (release p s).thermal = s.thermal := rfl
@[simp] theorem release_store : (release p s).store = s.store := rfl
@[simp] theorem release_flash : (release p s).flash = s.flash := rfl
@[simp] theorem release_tide : (release p s).tide = s.tide := rfl
@[simp] theorem release_isles : (release p s).isles = s.isles := rfl
@[simp] theorem release_trans : (release p s).trans = s.trans := rfl
@[simp] theorem release_heddle : (release p s).heddle = s.heddle := rfl
@[simp] theorem release_clusters : (release p s).clusters = s.clusters := rfl
@[simp] theorem release_bobbin : (release p s).bobbin = s.bobbin := rfl
@[simp] theorem release_treadle : (release p s).treadle = s.treadle := rfl
@[simp] theorem release_twin : (release p s).twin = s.twin := rfl
@[simp] theorem release_maps : (release p s).maps = s.maps := rfl
@[simp] theorem release_lagoon : (release p s).lagoon = s.lagoon := rfl
@[simp] theorem release_emb : (release p s).emb = s.emb := rfl
@[simp] theorem release_atolls : (release p s).atolls = s.atolls := rfl
@[simp] theorem release_out : (release p s).out = s.out := rfl
@[simp] theorem release_free : (release p s).free = s.free := rfl
@[simp] theorem release_pending : (release p s).pending = s.pending := rfl
@[simp] theorem release_links : (release p s).links = { s.links with parked := s.links.parked.map (fun r => if p r then { r with why := none } else r) } := rfl
end

section
variable (r : Req) (s : State)
@[simp] theorem accepted_harbour : (accepted r s).harbour = s.harbour := rfl
@[simp] theorem accepted_trust : (accepted r s).trust = s.trust := rfl
@[simp] theorem accepted_pool : (accepted r s).pool = s.pool := rfl
@[simp] theorem accepted_clocks : (accepted r s).clocks = s.clocks := rfl
@[simp] theorem accepted_thermal : (accepted r s).thermal = s.thermal := rfl
@[simp] theorem accepted_store : (accepted r s).store = s.store := rfl
@[simp] theorem accepted_flash : (accepted r s).flash = s.flash := rfl
@[simp] theorem accepted_tide : (accepted r s).tide = s.tide := rfl
@[simp] theorem accepted_isles : (accepted r s).isles = s.isles := rfl
@[simp] theorem accepted_trans : (accepted r s).trans = s.trans := rfl
@[simp] theorem accepted_clusters : (accepted r s).clusters = s.clusters := rfl
@[simp] theorem accepted_bobbin : (accepted r s).bobbin = s.bobbin := rfl
@[simp] theorem accepted_treadle : (accepted r s).treadle = s.treadle := rfl
@[simp] theorem accepted_links : (accepted r s).links = s.links := rfl
@[simp] theorem accepted_twin : (accepted r s).twin = s.twin := rfl
@[simp] theorem accepted_maps : (accepted r s).maps = s.maps := rfl
@[simp] theorem accepted_lagoon : (accepted r s).lagoon = s.lagoon := rfl
@[simp] theorem accepted_emb : (accepted r s).emb = s.emb := rfl
@[simp] theorem accepted_atolls : (accepted r s).atolls = s.atolls := rfl
@[simp] theorem accepted_out : (accepted r s).out = s.out := rfl
@[simp] theorem accepted_free : (accepted r s).free = s.free := rfl
@[simp] theorem accepted_pending : (accepted r s).pending = s.pending := rfl
@[simp] theorem accepted_heddle : (accepted r s).heddle = { s.heddle with refusals := NMap.del s.heddle.refusals (refusalKey r.hdr) } := rfl
end

section
variable (id : Nat) (s : State)
@[simp] theorem dropOutstanding_harbour : (dropOutstanding id s).harbour = s.harbour := rfl
@[simp] theorem dropOutstanding_trust : (dropOutstanding id s).trust = s.trust := rfl
@[simp] theorem dropOutstanding_pool : (dropOutstanding id s).pool = s.pool := rfl
@[simp] theorem dropOutstanding_clocks : (dropOutstanding id s).clocks = s.clocks := rfl
@[simp] theorem dropOutstanding_thermal : (dropOutstanding id s).thermal = s.thermal := rfl
@[simp] theorem dropOutstanding_store : (dropOutstanding id s).store = s.store := rfl
@[simp] theorem dropOutstanding_flash : (dropOutstanding id s).flash = s.flash := rfl
@[simp] theorem dropOutstanding_tide : (dropOutstanding id s).tide = s.tide := rfl
@[simp] theorem dropOutstanding_isles : (dropOutstanding id s).isles = s.isles := rfl
@[simp] theorem dropOutstanding_trans : (dropOutstanding id s).trans = s.trans := rfl
@[simp] theorem dropOutstanding_heddle : (dropOutstanding id s).heddle = s.heddle := rfl
@[simp] theorem dropOutstanding_clusters : (dropOutstanding id s).clusters = s.clusters := rfl
@[simp] theorem dropOutstanding_bobbin : (dropOutstanding id s).bobbin = s.bobbin := rfl
@[simp] theorem dropOutstanding_treadle : (dropOutstanding id s).treadle = s.treadle := rfl
@[simp] theorem dropOutstanding_twin : (dropOutstanding id s).twin = s.twin := rfl
@[simp] theorem dropOutstanding_maps : (dropOutstanding id s).maps = s.maps := rfl
@[simp] theorem dropOutstanding_lagoon : (dropOutstanding id s).lagoon = s.lagoon := rfl
@[simp] theorem dropOutstanding_emb : (dropOutstanding id s).emb = s.emb := rfl
@[simp] theorem dropOutstanding_atolls : (dropOutstanding id s).atolls = s.atolls := rfl
@[simp] theorem dropOutstanding_out : (dropOutstanding id s).out = s.out := rfl
@[simp] theorem dropOutstanding_free : (dropOutstanding id s).free = s.free := rfl
@[simp] theorem dropOutstanding_pending : (dropOutstanding id s).pending = s.pending := rfl
@[simp] theorem dropOutstanding_links : (dropOutstanding id s).links = { s.links with outstanding := NMap.del s.links.outstanding id } := rfl
end

section
variable (pid : Nat) (f : Route → Route) (s : State)
@[simp] theorem updRoute_harbour : (updRoute pid f s).harbour = s.harbour := rfl
@[simp] theorem updRoute_trust : (updRoute pid f s).trust = s.trust := rfl
@[simp] theorem updRoute_pool : (updRoute pid f s).pool = s.pool := rfl
@[simp] theorem updRoute_clocks : (updRoute pid f s).clocks = s.clocks := rfl
@[simp] theorem updRoute_thermal : (updRoute pid f s).thermal = s.thermal := rfl
@[simp] theorem updRoute_store : (updRoute pid f s).store = s.store := rfl
@[simp] theorem updRoute_flash : (updRoute pid f s).flash = s.flash := rfl
@[simp] theorem updRoute_tide : (updRoute pid f s).tide = s.tide := rfl
@[simp] theorem updRoute_isles : (updRoute pid f s).isles = s.isles := rfl
@[simp] theorem updRoute_trans : (updRoute pid f s).trans = s.trans := rfl
@[simp] theorem updRoute_heddle : (updRoute pid f s).heddle = s.heddle := rfl
@[simp] theorem updRoute_clusters : (updRoute pid f s).clusters = s.clusters := rfl
@[simp] theorem updRoute_bobbin : (updRoute pid f s).bobbin = s.bobbin := rfl
@[simp] theorem updRoute_treadle : (updRoute pid f s).treadle = s.treadle := rfl
@[simp] theorem updRoute_twin : (updRoute pid f s).twin = s.twin := rfl
@[simp] theorem updRoute_maps : (updRoute pid f s).maps = s.maps := rfl
@[simp] theorem updRoute_lagoon : (updRoute pid f s).lagoon = s.lagoon := rfl
@[simp] theorem updRoute_emb : (updRoute pid f s).emb = s.emb := rfl
@[simp] theorem updRoute_atolls : (updRoute pid f s).atolls = s.atolls := rfl
@[simp] theorem updRoute_out : (updRoute pid f s).out = s.out := rfl
@[simp] theorem updRoute_free : (updRoute pid f s).free = s.free := rfl
@[simp] theorem updRoute_pending : (updRoute pid f s).pending = s.pending := rfl
@[simp] theorem updRoute_links : (updRoute pid f s).links = { s.links with routes := NMap.set s.links.routes pid (f (routeOf s pid)) } := rfl
end

section
variable (isle : Nat) (mask : BitVec 64) (s : State)
@[simp] theorem ownClusters_harbour : (ownClusters isle mask s).harbour = s.harbour := rfl
@[simp] theorem ownClusters_trust : (ownClusters isle mask s).trust = s.trust := rfl
@[simp] theorem ownClusters_pool : (ownClusters isle mask s).pool = s.pool := rfl
@[simp] theorem ownClusters_clocks : (ownClusters isle mask s).clocks = s.clocks := rfl
@[simp] theorem ownClusters_thermal : (ownClusters isle mask s).thermal = s.thermal := rfl
@[simp] theorem ownClusters_store : (ownClusters isle mask s).store = s.store := rfl
@[simp] theorem ownClusters_flash : (ownClusters isle mask s).flash = s.flash := rfl
@[simp] theorem ownClusters_tide : (ownClusters isle mask s).tide = s.tide := rfl
@[simp] theorem ownClusters_isles : (ownClusters isle mask s).isles = s.isles := rfl
@[simp] theorem ownClusters_trans : (ownClusters isle mask s).trans = s.trans := rfl
@[simp] theorem ownClusters_heddle : (ownClusters isle mask s).heddle = s.heddle := rfl
@[simp] theorem ownClusters_bobbin : (ownClusters isle mask s).bobbin = s.bobbin := rfl
@[simp] theorem ownClusters_treadle : (ownClusters isle mask s).treadle = s.treadle := rfl
@[simp] theorem ownClusters_links : (ownClusters isle mask s).links = s.links := rfl
@[simp] theorem ownClusters_twin : (ownClusters isle mask s).twin = s.twin := rfl
@[simp] theorem ownClusters_maps : (ownClusters isle mask s).maps = s.maps := rfl
@[simp] theorem ownClusters_lagoon : (ownClusters isle mask s).lagoon = s.lagoon := rfl
@[simp] theorem ownClusters_emb : (ownClusters isle mask s).emb = s.emb := rfl
@[simp] theorem ownClusters_atolls : (ownClusters isle mask s).atolls = s.atolls := rfl
@[simp] theorem ownClusters_out : (ownClusters isle mask s).out = s.out := rfl
@[simp] theorem ownClusters_free : (ownClusters isle mask s).free = s.free := rfl
@[simp] theorem ownClusters_pending : (ownClusters isle mask s).pending = s.pending := rfl
@[simp] theorem ownClusters_clusters : (ownClusters isle mask s).clusters = (maskClusters mask.toNat).foldl (fun m cl => NMap.set m cl { lastIsle := isle }) s.clusters := rfl
end

section
variable (n : Nat) (f : Chan → Chan) (s : State)
@[simp] theorem updChan_harbour : (updChan n f s).harbour = s.harbour := rfl
@[simp] theorem updChan_trust : (updChan n f s).trust = s.trust := rfl
@[simp] theorem updChan_pool : (updChan n f s).pool = s.pool := rfl
@[simp] theorem updChan_clocks : (updChan n f s).clocks = s.clocks := rfl
@[simp] theorem updChan_thermal : (updChan n f s).thermal = s.thermal := rfl
@[simp] theorem updChan_store : (updChan n f s).store = s.store := rfl
@[simp] theorem updChan_tide : (updChan n f s).tide = s.tide := rfl
@[simp] theorem updChan_isles : (updChan n f s).isles = s.isles := rfl
@[simp] theorem updChan_trans : (updChan n f s).trans = s.trans := rfl
@[simp] theorem updChan_heddle : (updChan n f s).heddle = s.heddle := rfl
@[simp] theorem updChan_clusters : (updChan n f s).clusters = s.clusters := rfl
@[simp] theorem updChan_bobbin : (updChan n f s).bobbin = s.bobbin := rfl
@[simp] theorem updChan_treadle : (updChan n f s).treadle = s.treadle := rfl
@[simp] theorem updChan_links : (updChan n f s).links = s.links := rfl
@[simp] theorem updChan_twin : (updChan n f s).twin = s.twin := rfl
@[simp] theorem updChan_maps : (updChan n f s).maps = s.maps := rfl
@[simp] theorem updChan_lagoon : (updChan n f s).lagoon = s.lagoon := rfl
@[simp] theorem updChan_emb : (updChan n f s).emb = s.emb := rfl
@[simp] theorem updChan_atolls : (updChan n f s).atolls = s.atolls := rfl
@[simp] theorem updChan_out : (updChan n f s).out = s.out := rfl
@[simp] theorem updChan_free : (updChan n f s).free = s.free := rfl
@[simp] theorem updChan_pending : (updChan n f s).pending = s.pending := rfl
@[simp] theorem updChan_flash : (updChan n f s).flash = { s.flash with chans := NMap.upd s.flash.chans n f } := rfl
end

section
variable (f : Mirror → Mirror) (s : State)
@[simp] theorem updMirror_harbour : (updMirror f s).harbour = s.harbour := rfl
@[simp] theorem updMirror_trust : (updMirror f s).trust = s.trust := rfl
@[simp] theorem updMirror_pool : (updMirror f s).pool = s.pool := rfl
@[simp] theorem updMirror_clocks : (updMirror f s).clocks = s.clocks := rfl
@[simp] theorem updMirror_thermal : (updMirror f s).thermal = s.thermal := rfl
@[simp] theorem updMirror_store : (updMirror f s).store = s.store := rfl
@[simp] theorem updMirror_flash : (updMirror f s).flash = s.flash := rfl
@[simp] theorem updMirror_tide : (updMirror f s).tide = s.tide := rfl
@[simp] theorem updMirror_isles : (updMirror f s).isles = s.isles := rfl
@[simp] theorem updMirror_trans : (updMirror f s).trans = s.trans := rfl
@[simp] theorem updMirror_heddle : (updMirror f s).heddle = s.heddle := rfl
@[simp] theorem updMirror_clusters : (updMirror f s).clusters = s.clusters := rfl
@[simp] theorem updMirror_bobbin : (updMirror f s).bobbin = s.bobbin := rfl
@[simp] theorem updMirror_treadle : (updMirror f s).treadle = s.treadle := rfl
@[simp] theorem updMirror_links : (updMirror f s).links = s.links := rfl
@[simp] theorem updMirror_maps : (updMirror f s).maps = s.maps := rfl
@[simp] theorem updMirror_lagoon : (updMirror f s).lagoon = s.lagoon := rfl
@[simp] theorem updMirror_emb : (updMirror f s).emb = s.emb := rfl
@[simp] theorem updMirror_atolls : (updMirror f s).atolls = s.atolls := rfl
@[simp] theorem updMirror_out : (updMirror f s).out = s.out := rfl
@[simp] theorem updMirror_free : (updMirror f s).free = s.free := rfl
@[simp] theorem updMirror_pending : (updMirror f s).pending = s.pending := rfl
@[simp] theorem updMirror_twin : (updMirror f s).twin = { s.twin with mirror := f s.twin.mirror } := rfl
end

end Sys2Proof.Machine
end

