-- ==== Sys2Proof/Laws/Frames.lean ====
section
/-! SUPPORT. The frame that every meaning runs in: what posting events changes, and what `run`, `withCmd` and `endCmd` answer. -/

namespace Sys2Proof.Machine

/-- `t` is `s` but for the event queue, the completion rings, the functions' MSI-X tables and what was sent. -/
def EventsOnly (s t : State) : Prop :=
  t = { s with bobbin := { s.bobbin with held := t.bobbin.held, dropped := t.bobbin.dropped, cqs := t.bobbin.cqs, fns := t.bobbin.fns },
               out := t.out }

theorem EventsOnly.refl (s : State) : EventsOnly s s := rfl

theorem EventsOnly.trans {s t u : State} (h : EventsOnly s t) (g : EventsOnly t u) : EventsOnly s u := by
  unfold EventsOnly at *
  rw [g, h]

theorem emit_eventsOnly (o : Out) (s : State) : EventsOnly s (emit o s) := rfl
theorem updFn_eventsOnly (n : Nat) (f : Fn → Fn) (s : State) : EventsOnly s (updFn n f s) := rfl
theorem updCq_eventsOnly (n : Nat) (f : Cq → Cq) (s : State) : EventsOnly s (updCq n f s) := rfl

theorem sendMsix_eventsOnly (fn vec : Nat) (s : State) : EventsOnly s (sendMsix fn vec s) := by
  simp only [sendMsix]
  repeat' split
  all_goals first | exact updFn_eventsOnly .. | exact emit_eventsOnly ..

theorem countIrq_eventsOnly (q : Nat) (s : State) : EventsOnly s (countIrq q s) := by
  simp only [countIrq]
  split
  · exact EventsOnly.refl s
  · split
    · exact EventsOnly.refl s
    · split
      · exact (updCq_eventsOnly ..).trans (sendMsix_eventsOnly ..)
      · exact updCq_eventsOnly ..

theorem postRecord_eventsOnly (q : Nat) (c : Cq) (e : Event) (s : State) : EventsOnly s (postRecord q c e s) :=
  ((emit_eventsOnly ..).trans (updCq_eventsOnly ..)).trans (countIrq_eventsOnly ..)

theorem raise_eventsOnly (e : Event) (s : State) : EventsOnly s (raise e s) := by
  unfold raise
  split <;> rfl

theorem postNext_eventsOnly {s t : State} (h : postNext s = some t) : EventsOnly s t := by
  simp only [postNext] at h
  split at h
  · cases h
  · split at h
    · cases h
    · split at h
      · cases h
        exact EventsOnly.trans (t := { s with bobbin := { s.bobbin with dropped := 0 } }) rfl (postRecord_eventsOnly ..)
      · split at h
        · cases h
        · rename_i r _
          cases h
          exact EventsOnly.trans (t := { s with bobbin := { s.bobbin with held := r } }) rfl (postRecord_eventsOnly ..)

theorem postEvents_eventsOnly (n : Nat) (s : State) : EventsOnly s (postEvents s n) := by
  induction n generalizing s with
  | zero => exact EventsOnly.refl s
  | succ n ih =>
    rw [postEvents]
    split
    · exact EventsOnly.refl s
    · rename_i t h
      exact (postNext_eventsOnly h).trans (ih t)

theorem flushEvents_eventsOnly (s : State) : EventsOnly s (flushEvents s) := postEvents_eventsOnly ..

@[simp] theorem flushEvents_harbour (s : State) : (flushEvents s).harbour = s.harbour := by rw [flushEvents_eventsOnly s]
@[simp] theorem flushEvents_trust (s : State) : (flushEvents s).trust = s.trust := by rw [flushEvents_eventsOnly s]
@[simp] theorem flushEvents_pool (s : State) : (flushEvents s).pool = s.pool := by rw [flushEvents_eventsOnly s]
@[simp] theorem flushEvents_clocks (s : State) : (flushEvents s).clocks = s.clocks := by rw [flushEvents_eventsOnly s]
@[simp] theorem flushEvents_thermal (s : State) : (flushEvents s).thermal = s.thermal := by rw [flushEvents_eventsOnly s]
@[simp] theorem flushEvents_store (s : State) : (flushEvents s).store = s.store := by rw [flushEvents_eventsOnly s]
@[simp] theorem flushEvents_flash (s : State) : (flushEvents s).flash = s.flash := by rw [flushEvents_eventsOnly s]
@[simp] theorem flushEvents_tide (s : State) : (flushEvents s).tide = s.tide := by rw [flushEvents_eventsOnly s]
@[simp] theorem flushEvents_isles (s : State) : (flushEvents s).isles = s.isles := by rw [flushEvents_eventsOnly s]
@[simp] theorem flushEvents_trans (s : State) : (flushEvents s).trans = s.trans := by rw [flushEvents_eventsOnly s]
@[simp] theorem flushEvents_heddle (s : State) : (flushEvents s).heddle = s.heddle := by rw [flushEvents_eventsOnly s]
@[simp] theorem flushEvents_clusters (s : State) : (flushEvents s).clusters = s.clusters := by rw [flushEvents_eventsOnly s]
@[simp] theorem flushEvents_treadle (s : State) : (flushEvents s).treadle = s.treadle := by rw [flushEvents_eventsOnly s]
@[simp] theorem flushEvents_links (s : State) : (flushEvents s).links = s.links := by rw [flushEvents_eventsOnly s]
@[simp] theorem flushEvents_twin (s : State) : (flushEvents s).twin = s.twin := by rw [flushEvents_eventsOnly s]
@[simp] theorem flushEvents_maps (s : State) : (flushEvents s).maps = s.maps := by rw [flushEvents_eventsOnly s]
@[simp] theorem flushEvents_lagoon (s : State) : (flushEvents s).lagoon = s.lagoon := by rw [flushEvents_eventsOnly s]
@[simp] theorem flushEvents_emb (s : State) : (flushEvents s).emb = s.emb := by rw [flushEvents_eventsOnly s]
@[simp] theorem flushEvents_atolls (s : State) : (flushEvents s).atolls = s.atolls := by rw [flushEvents_eventsOnly s]
@[simp] theorem flushEvents_free (s : State) : (flushEvents s).free = s.free := by rw [flushEvents_eventsOnly s]
@[simp] theorem flushEvents_pending (s : State) : (flushEvents s).pending = s.pending := by rw [flushEvents_eventsOnly s]

@[simp] theorem flushEvents_sqs (s : State) : (flushEvents s).bobbin.sqs = s.bobbin.sqs := by rw [flushEvents_eventsOnly s]
@[simp] theorem flushEvents_pollGroups (s : State) : (flushEvents s).bobbin.pollGroups = s.bobbin.pollGroups := by rw [flushEvents_eventsOnly s]
@[simp] theorem flushEvents_msixAlloc (s : State) : (flushEvents s).bobbin.msixAlloc = s.bobbin.msixAlloc := by rw [flushEvents_eventsOnly s]
@[simp] theorem flushEvents_vfEnable (s : State) : (flushEvents s).bobbin.vfEnable = s.bobbin.vfEnable := by rw [flushEvents_eventsOnly s]
@[simp] theorem flushEvents_polls (s : State) : (flushEvents s).bobbin.polls = s.bobbin.polls := by rw [flushEvents_eventsOnly s]
@[simp] theorem flushEvents_pollQueue (s : State) : (flushEvents s).bobbin.pollQueue = s.bobbin.pollQueue := by rw [flushEvents_eventsOnly s]
@[simp] theorem flushEvents_latePolls (s : State) : (flushEvents s).bobbin.latePolls = s.bobbin.latePolls := by rw [flushEvents_eventsOnly s]
@[simp] theorem flushEvents_lastServed (s : State) : (flushEvents s).bobbin.lastServed = s.bobbin.lastServed := by rw [flushEvents_eventsOnly s]
@[simp] theorem flushEvents_cmds (s : State) : (flushEvents s).bobbin.cmds = s.bobbin.cmds := by rw [flushEvents_eventsOnly s]

@[simp] theorem settled_harbour (s u : State) : (settled s u).harbour = u.harbour := by simp [settled]
@[simp] theorem settled_trust (s u : State) : (settled s u).trust = u.trust := by simp [settled]
@[simp] theorem settled_pool (s u : State) : (settled s u).pool = u.pool := by simp [settled]
@[simp] theorem settled_clocks (s u : State) : (settled s u).clocks = u.clocks := by simp [settled]
@[simp] theorem settled_thermal (s u : State) : (settled s u).thermal = u.thermal := by simp [settled]
@[simp] theorem settled_store (s u : State) : (settled s u).store = u.store := by simp [settled]
@[simp] theorem settled_flash (s u : State) : (settled s u).flash = u.flash := by simp [settled]
@[simp] theorem settled_tide (s u : State) : (settled s u).tide = u.tide := by simp [settled]
@[simp] theorem settled_isles (s u : State) : (settled s u).isles = u.isles := by simp [settled]
@[simp] theorem settled_trans (s u : State) : (settled s u).trans = u.trans := by simp [settled]
@[simp] theorem settled_heddle (s u : State) : (settled s u).heddle = u.heddle := by simp [settled]
@[simp] theorem settled_clusters (s u : State) : (settled s u).clusters = u.clusters := by simp [settled]
@[simp] theorem settled_treadle (s u : State) : (settled s u).treadle = u.treadle := by simp [settled]
@[simp] theorem settled_links (s u : State) : (settled s u).links = u.links := by simp [settled]
@[simp] theorem settled_twin (s u : State) : (settled s u).twin = u.twin := by simp [settled]
@[simp] theorem settled_maps (s u : State) : (settled s u).maps = u.maps := by simp [settled]
@[simp] theorem settled_lagoon (s u : State) : (settled s u).lagoon = u.lagoon := by simp [settled]
@[simp] theorem settled_emb (s u : State) : (settled s u).emb = u.emb := by simp [settled]
@[simp] theorem settled_atolls (s u : State) : (settled s u).atolls = u.atolls := by simp [settled]
@[simp] theorem settled_free (s u : State) : (settled s u).free = u.free := by simp [settled]
@[simp] theorem settled_pending (s u : State) : (settled s u).pending = s.pending := rfl
@[simp] theorem settled_sqs (s u : State) : (settled s u).bobbin.sqs = u.bobbin.sqs := by simp [settled]
@[simp] theorem settled_pollGroups (s u : State) : (settled s u).bobbin.pollGroups = u.bobbin.pollGroups := by simp [settled]
@[simp] theorem settled_msixAlloc (s u : State) : (settled s u).bobbin.msixAlloc = u.bobbin.msixAlloc := by simp [settled]
@[simp] theorem settled_vfEnable (s u : State) : (settled s u).bobbin.vfEnable = u.bobbin.vfEnable := by simp [settled]
@[simp] theorem settled_polls (s u : State) : (settled s u).bobbin.polls = u.bobbin.polls := by simp [settled]
@[simp] theorem settled_pollQueue (s u : State) : (settled s u).bobbin.pollQueue = u.bobbin.pollQueue := by simp [settled]
@[simp] theorem settled_latePolls (s u : State) : (settled s u).bobbin.latePolls = u.bobbin.latePolls := by simp [settled]
@[simp] theorem settled_lastServed (s u : State) : (settled s u).bobbin.lastServed = u.bobbin.lastServed := by simp [settled]
@[simp] theorem settled_cmds (s u : State) : (settled s u).bobbin.cmds = u.bobbin.cmds := by simp [settled]

/-- With no event waiting, none is posted. -/
theorem flushEvents_quiet {s : State} (h : s.bobbin.held = []) (d : s.bobbin.dropped = 0) : flushEvents s = s := by
  have hn : postNext s = none := by
    simp only [postNext, h, d, Nat.lt_irrefl, if_false]
    repeat' split
    all_goals rfl
  simp [flushEvents, postEvents, hn]

/-- A meaning that does not act asleep runs its effect where the device is awake. -/
theorem run_awake {s : State} (h : awake s = true) (f : State → State) : run f s = .next (settled s (f s)) := by
  simp [run, h, runAlways, settled]

theorem run_asleep {s : State} (h : awake s = false) (f : State → State) : run f s = .next s := by simp [run, h]

theorem runAlways_next (s : State) (f : State → State) : runAlways f s = .next (settled s (f s)) := rfl

/-- No meaning in the common frame stops, and the queue is left as it was. -/
theorem run_goes (f : State → State) (s : State) : ∃ t, run f s = .next t ∧ t.pending = s.pending := by
  unfold run runAlways
  split
  · exact ⟨_, rfl, rfl⟩
  · exact ⟨_, rfl, rfl⟩

/-- A command that may run is acted on. -/
theorem withCmd_runs {s : State} {k : CmdKey} {op : Nat} {c : Cmd} (h : Runs s k op c) (f : Cmd → State → State) :
    withCmd k op f s = f c s := by
  obtain ⟨-, hc, ho, hr⟩ := h
  simp [withCmd, hc, ho, hr]

/-- The row of a command that may run: the effect of its body. -/
theorem run_withCmd {s : State} {k : CmdKey} {op : Nat} {c : Cmd} (h : Runs s k op c) (f : Cmd → State → State) :
    run (withCmd k op f) s = .next (settled s (f c s)) := by
  rw [run_awake h.1, withCmd_runs h]

/-- Marking a burst changes the page table alone. -/
theorem markBurst_only (off : Nat) (s : State) :
    markBurst off s = { s with store := { s.store with pages := (markBurst off s).store.pages } } := by
  unfold markBurst; split <;> rfl

@[simp] theorem markBurst_cells (off : Nat) (s : State) : (markBurst off s).store.cells = s.store.cells := by rw [markBurst_only]
@[simp] theorem markBurst_poison (off : Nat) (s : State) : (markBurst off s).store.poison = s.store.poison := by rw [markBurst_only]
@[simp] theorem markBurst_lost (off : Nat) (s : State) : (markBurst off s).store.lost = s.store.lost := by rw [markBurst_only]

/-- `t` is `s` but for the store, the check counters, the twin's items, the event queue and what was sent. -/
def FaultsOnly (s t : State) : Prop :=
  t = { s with store := t.store, trust := t.trust, twin := t.twin, out := t.out,
               bobbin := { s.bobbin with held := t.bobbin.held, dropped := t.bobbin.dropped } }

theorem FaultsOnly.trans {s t u : State} (h : FaultsOnly s t) (g : FaultsOnly t u) : FaultsOnly s u := by
  unfold FaultsOnly at *
  rw [g, h]

theorem raise_faultsOnly (e : Event) (s : State) : FaultsOnly s (raise e s) := by
  unfold raise; split <;> rfl

theorem poisonFound_faultsOnly (line : Nat) (s : State) : FaultsOnly s (poisonFound line s) := by
  have h : FaultsOnly s (lineEvent evLinePoisoned 0 line (setPoison line s)) := by
    have h0 : FaultsOnly s (setPoison line s) := rfl
    unfold lineEvent; split <;> exact h0.trans (raise_faultsOnly _ _)
  simp only [poisonFound]
  split
  · exact h.trans rfl
  · exact h

theorem retire_faultsOnly (m : NMap Nat) (e : Event) (s : State) :
    FaultsOnly s (raise e { s with store := { s.store with retired := m } }) := by
  have h : FaultsOnly s { s with store := { s.store with retired := m } } := rfl
  exact h.trans (raise_faultsOnly _ _)

theorem dramFault_faultsOnly (line : Nat) (s : State) : FaultsOnly s (dramFault line s) := by
  simp only [dramFault]
  have h := poisonFound_faultsOnly line s
  split
  · split
    · exact (h.trans (retire_faultsOnly _ _ _)).trans (raise_faultsOnly _ _)
    · exact h.trans (retire_faultsOnly _ _ _)
  · exact h

/-- What a line that fails on a read can change. -/
theorem lineFault_faultsOnly (s : State) (f : LineFault) : FaultsOnly s (lineFault s f) := by
  have h : FaultsOnly s { s with trust := { s.trust with lastingCount := s.trust.lastingCount + 1 } } := rfl
  simp only [lineFault]
  split
  · rfl
  · split
    · split <;> rfl
    · split
      · exact dramFault_faultsOnly _ _
      · split
        · exact h.trans (poisonFound_faultsOnly _ _)
        · refine h.trans ?_
          simp only [markPoison, if_true]; split <;> rfl

@[simp] theorem cmd?_lineFault (k : CmdKey) (s : State) (f : LineFault) : cmd? (lineFault s f) k = cmd? s k := by
  rw [lineFault_faultsOnly s f]; rfl

end Sys2Proof.Machine
end

