-- ==== Sys2Proof/Laws/Commands.lean ====
section
/-! SUPPORT. Commands in flight: what looking one up gives after an update of the list; requests from their arrival to their service. -/

namespace Sys2Proof.Machine

theorem cmd?_key {s : State} {k : CmdKey} {c : Cmd} (h : cmd? s k = some c) : c.key = k := by
  have := List.find?_some h
  simpa using this

/-- Looking up a key in a list of commands that were changed without changing their keys. -/
theorem find_map_key (k k' : CmdKey) (f : Cmd → Cmd) (hf : ∀ c, c.key = k → (f c).key = k) (l : List Cmd) :
    (l.map (fun c => if c.key = k then f c else c)).find? (fun c => c.key == k') =
      if k' = k then (l.find? (fun c => c.key == k)).map f else l.find? (fun c => c.key == k') := by
  induction l with
  | nil => simp
  | cons c r ih =>
    rw [List.map_cons, List.find?_cons, List.find?_cons, List.find?_cons, ih]
    by_cases hk : c.key = k
    · by_cases hk' : k' = k
      · subst hk'; simp [hk, hf c hk]
      · have h0 : (k == k') = false := by simpa using fun h => hk' h.symm
        simp [hk, hf c hk, hk', h0]
    · by_cases hk' : k' = k
      · subst hk'
        have h0 : (c.key == k') = false := by simpa using hk
        simp [hk, h0]
      · simp [hk, hk']

theorem cmd?_updCmd (s : State) (k k' : CmdKey) (f : Cmd → Cmd) (hf : ∀ c, c.key = k → (f c).key = k) :
    cmd? (updCmd k f s) k' = if k' = k then (cmd? s k).map f else cmd? s k' :=
  find_map_key k k' f hf s.bobbin.cmds

theorem cmd?_startCmd {s : State} {k : CmdKey} {c : Cmd} (h : cmd? s k = some c) :
    cmd? (startCmd k s) k = some { c with phase := .running } := by
  rw [startCmd, cmd?_updCmd s k k _ (fun _ h => by exact h)]
  simp [h]

theorem cmd?_dropCmd (s : State) (k k' : CmdKey) : cmd? (dropCmd k s) k' = if k' = k then none else cmd? s k' := by
  simp only [cmd?, dropCmd_bobbin, List.find?_filter]
  split
  · rename_i h; subst h
    rw [List.find?_eq_none]
    intro c _
    simp
  · rename_i h
    congr 1
    funext c
    by_cases hc : c.key = k'
    · have : (c.key != k) = true := by simp [hc, h]
      simp [hc, h]
    · simp [hc]
/-- The record of a command as it stands has the command's key. -/
@[simp] theorem cmdNow_key (s : State) (c : Cmd) : (cmdNow s c).key = c.key := by
  unfold cmdNow
  cases h : cmd? s c.key with
  | none => rfl
  | some d => exact cmd?_key h

/-- Ending a command changes no descriptor. -/
theorem endCmd_desc {s : State} {k : CmdKey} {st a b : Nat} {d : Cmd} (h : cmd? (endCmd k st a b s) k = some d) :
    ∃ c, cmd? s k = some c ∧ d.desc = c.desc := by
  unfold endCmd at h
  split at h
  · rename_i hn; simp [hn] at h
  · rename_i c hc
    have hk := cmd?_key hc
    refine ⟨c, hc, ?_⟩
    split at h
    · rw [hc] at h; cases h; rfl
    · have hr : cmd? (releaseEngines k s) k = some c := hc
      dsimp only at h
      repeat' split at h
      · rw [cmd?_updCmd _ _ _ _ (fun _ _ => by exact hk)] at h; simp [hr] at h; subst h; rfl
      · simp [cmd?_dropCmd] at h
      · rw [cmd?_updCmd _ _ _ _ (fun _ _ => by exact hk)] at h; simp [hr] at h; subst h; rfl

/-- A command whose sub-commands are all answered runs no share on this device. -/
theorem runLocal_answered {k : CmdKey} {s : State} {c : Cmd} (hc : cmd? s k = some c) (ha : allAnswered c = true)
    (home : Sub → State → Home × State) : runLocal k home s = s := by
  simp only [runLocal, hc]
  have key : ∀ (l : List (Sub × Nat)), (∀ x ∈ l, x.1.status.isSome = true) →
      l.foldl (fun s x => if isMine s x.1.peer && x.1.status.isNone then answerShare k x.2 (home x.1 s).1 (home x.1 s).2 else s) s = s := by
    intro l
    induction l with
    | nil => intro _; rfl
    | cons x r ih =>
      intro h
      have hx : x.1.status.isNone = false := by
        have := h x (List.mem_cons_self ..)
        cases hs : x.1.status with
        | none => simp [hs] at this
        | some _ => rfl
      rw [List.foldl_cons]
      simp only [hx, Bool.and_false, Bool.false_eq_true, if_false]
      exact ih (fun y hy => h y (List.mem_cons_of_mem _ hy))
  refine key _ (fun x hx => ?_)
  have := List.of_mem_zip hx
  exact List.all_eq_true.mp ha x.1 this.1

/-! ## Requests -/

/-- Counting accesses leaves the twin's part alone. -/
theorem touchPage_twin (p n : Nat) (s : State) : (touchPage p n s).twin = s.twin := by
  unfold touchPage; split <;> rfl

theorem touches_twin (l : List (Nat × Nat × Nat)) (s : State) :
    (l.foldl (fun s p => touchPage (eOff p.2.2 / pageSize) (burstsOf p.1 p.2.1) s) s).twin = s.twin := by
  induction l generalizing s with
  | nil => rfl
  | cons p l ih => rw [List.foldl_cons, ih, touchPage_twin]

/-- An arrived request is served under its number. -/
theorem requestIn_arrives {s v : State} {r : Req} {isle : Nat} (h : Arrives s r isle v) :
    requestIn r s = pumpAll (serve none (admitted r isle v) v) := by
  obtain ⟨_, hp, ⟨u, hu, rfl⟩, hc, hq, ⟨caching, hb, hcc⟩, hm, hmm, hi, he, _⟩ := h
  have hm' : Req.malformed { r with id := u.links.nextId, isle := isle } = false := hm
  have hmm' : Req.mismatch { r with id := u.links.nextId, isle := isle } = false := hmm
  have hn : (takeId u).links.nextId - 1 = u.links.nextId := by simp [takeId]
  simp only [requestIn, Nat.not_le.mpr hp, if_false, hu, Bool.not_true, Bool.false_eq_true, hc, hq, takeIn, hb, admitReq, hm', hmm', hi, he,
    admitted, hn]
  rcases hk : r.kind.caching with _ | _
  · simp
  · simp [hcc hk]

/-- A request whose pages are reached is performed. -/
theorem serve_reaches {v t : State} {r : Req} {rights : Nat} {l : List (Nat × Nat × Nat)} (hk : r.kind ≠ .dirty ∧ r.kind ≠ .wrBack)
    (ha : isleActive v r.isle = true) (he : r.origin = .strait → epochVerdict v r.hdr.epoch = 0) (h : Reaches v r rights l t) :
    ∃ w, t = l.foldl (fun s p => touchPage (eOff p.2.2 / pageSize) (burstsOf p.1 p.2.1) s) w ∧
    serve none r v = match perform r rights l w with
      | (.wait why key, s) => park why key r s
      | (.over set, s) => overflow set r s
      | (.run ls, s) => deliverRun r ls s
      | (.done st lines g p, s) => respond r t.twin.nextItem st lines g p s := by
  obtain ⟨va, l0, w, ht, htr, hr, hc, hto, ho, hra, rfl, _⟩ := h
  refine ⟨w, rfl, ?_⟩
  have h3 : ¬ (r.origin = .strait ∧ epochVerdict v r.hdr.epoch = 3 ∧ (!bothPermit v (r.isle % twinIsle) va) = true) := by
    rintro ⟨a, b, _⟩; rw [he a] at b; omega
  have ho' : (ordered r && earlierPending v r) = false := by
    cases h : ordered r with
    | false => rfl
    | true => simpa using ho h
  have hc' : (r.kind.caching && !(bit rights 3 && l0.all (fun p => eCoherent p.2.2))) = false := by
    cases h : r.kind.caching with
    | false => rfl
    | true => simp [hc h]
  simp only [serve, ha, Bool.not_true, hk.1, hk.2, or_self, if_false, ht, htr, h3, hr, hc', Bool.false_eq_true]
  rcases hx : takenOver v r l0 with ⟨st, hint⟩
  rw [hx] at hto
  simp only at hto
  subst hto
  simp only [ho', bne_self_eq_false, Bool.false_eq_true, if_false, hra]
  rw [touches_twin]
  all_goals rfl

end Sys2Proof.Machine
end

