-- ==== Sys2Proof/Laws/Memory.lean ====
section
/-! SUPPORT. Every operation on the cells of the store keeps their canonical form. -/

namespace Sys2Proof.Machine

/-- The canonical form said without the list's shape: addresses strictly rising, no entry zero. -/
theorem Memory.wf_iff (m : List Host.Cell) : Memory.wf m = true ↔ m.Pairwise (fun a b => a.1 < b.1) ∧ ∀ c ∈ m, c.2 ≠ 0 := by
  induction m with
  | nil => simp [Memory.wf]
  | cons c r ih =>
    cases r with
    | nil => simp [Memory.wf]
    | cons d r =>
      simp only [Memory.wf, Bool.and_eq_true, ih, bne_iff_ne, decide_eq_true_eq, List.pairwise_cons, List.mem_cons, forall_eq_or_imp]
      constructor
      · rintro ⟨⟨hc, hd⟩, hp, hz⟩
        exact ⟨⟨⟨hd, fun x hx => Nat.lt_trans hd (hp.1 x hx)⟩, hp⟩, hc, hz⟩
      · rintro ⟨⟨⟨hd, -⟩, hp⟩, hc, hz⟩
        exact ⟨⟨hc, hd⟩, hp, hz⟩

theorem Memory.wf_nil : Memory.wf [] = true := rfl

/-- Taking cells away keeps the form. -/
theorem Memory.wf_filter {m : List Host.Cell} (h : Memory.wf m = true) (p : Host.Cell → Bool) : Memory.wf (m.filter p) = true := by
  rw [Memory.wf_iff] at h ⊢
  exact ⟨h.1.filter p, fun c hc => h.2 c (List.mem_filter.mp hc).1⟩

theorem NMap.mem_set {α : Type} {m : NMap α} {k : Nat} {v : α} {c : Nat × α} (h : c ∈ NMap.set m k v) : c = (k, v) ∨ c ∈ m := by
  induction m with
  | nil => simpa [NMap.set] using h
  | cons d r ih =>
    simp only [NMap.set] at h
    split at h
    · rcases List.mem_cons.mp h with h | h
      · exact .inr (h ▸ List.mem_cons_self ..)
      · exact (ih h).imp_right (List.mem_cons_of_mem _)
    · split at h
      · exact (List.mem_cons.mp h).imp_right (List.mem_cons_of_mem _)
      · exact List.mem_cons.mp h

theorem NMap.sorted_set {α : Type} {m : NMap α} (k : Nat) (v : α) (h : m.Pairwise (fun a b => a.1 < b.1)) :
    (NMap.set m k v).Pairwise (fun a b => a.1 < b.1) := by
  induction m with
  | nil => simp [NMap.set]
  | cons d r ih =>
    obtain ⟨hd, hr⟩ := List.pairwise_cons.mp h
    simp only [NMap.set]
    split
    · rename_i hk
      refine List.pairwise_cons.mpr ⟨fun c hc => ?_, ih hr⟩
      rcases NMap.mem_set hc with rfl | hc
      · exact hk
      · exact hd c hc
    · split
      · rename_i hk
        subst hk
        exact List.pairwise_cons.mpr ⟨hd, hr⟩
      · rename_i hlt hne
        refine List.pairwise_cons.mpr ⟨fun c hc => ?_, h⟩
        rcases List.mem_cons.mp hc with rfl | hc
        · simp only; omega
        · have := hd c hc; simp only; omega

theorem Memory.wf_write {m : List Host.Cell} (h : Memory.wf m = true) (a : Nat) (b : Byte) : Memory.wf (Memory.write m a b) = true := by
  unfold Memory.write
  split
  · exact Memory.wf_filter h _
  · rename_i hb
    rw [Memory.wf_iff] at h ⊢
    exact ⟨NMap.sorted_set a b h.1, fun c hc => (NMap.mem_set hc).elim (fun e => e ▸ hb) (h.2 c)⟩

theorem Memory.wf_writes {m : List Host.Cell} (h : Memory.wf m = true) (a : Nat) (bs : List Byte) :
    Memory.wf (Memory.writes m a bs) = true := by
  induction bs generalizing m a with
  | nil => exact h
  | cons b bs ih => exact ih (Memory.wf_write h a b) (a + 1)

theorem Memory.wf_clear {m : List Host.Cell} (h : Memory.wf m = true) (a n : Nat) : Memory.wf (Memory.clear m a n) = true :=
  Memory.wf_filter h _

end Sys2Proof.Machine
end

