-- ==== Sys2Proof/WellFormed.lean ====
section
/-! DEFINITION. When a command's operands lie in the ranges the spec gives them. -/

namespace Sys2Proof

/-- A ring command's key: one of the 4,096 SQs (R311), or 4,096 for a sub-command that the device serves for a lead (R22). -/
def CmdKey.wf (k : CmdKey) : Bool := k.sq ≤ 4096

/-- A Strait or Causeway port: SP0–SP23 are 0–23, CW0–CW1 are 24–25 (R611). -/
def portWf (p : Nat) : Bool := p < 26

/-- A Causeway port (R611). -/
def causewayWf (p : Nat) : Bool := p = 24 || p = 25

/-- A message header (R617): 12-bit ids, 8-bit stream, 9-bit tag, 3-bit sync. -/
def Hdr.wf (h : Hdr) : Bool := portWf h.port && h.src < 4096 && h.stream < 256 && h.tag < 512 && h.sync < 8

/-- A device offset of 52 bits (R37). -/
def offWf (o : Nat) : Bool := o < 2 ^ 52

/-- A 64 KiB page of a 55-bit isle virtual address, with its 14-bit isle (R96). -/
def pageWf (isle page : Nat) : Bool := isle < 16384 && page < 2 ^ 39

/-- The operands of a command lie in their ranges. -/
def Instr.wf : Instr → Bool
  | .nop k | .copy k _ _ | .fill k _ | .tileCopy k _ | .check k _ | .atomicBatch k | .fence k | .fenceComplete k | .release k
  | .acquire k | .acquireReread k | .acquireTimeout k | .weave k | .weavePhaseStart k | .gatherAcquire k | .writeRelease k
  | .embGather k | .embUpdate k | .embStepClose k | .embStats k | .kvAppend k | .attnDecode k | .attnCombine k | .seqCreate k
  | .seqFork k | .seqPublish k | .seqHandoffOffer k | .seqHandoffAccept k | .seqRelease k | .seqQuery k | .atollSearch k
  | .atollInsert k | .atollDelete k | .atollMerge k | .mergeCommit k | .atollCreate k | .regionAlloc k | .regionFree k | .map k
  | .unmap k | .pinTier k | .poisonClear k | .planAdmit k | .planStart k | .planStop k | .isleCreate k | .isleChange k
  | .isleDestroy k | .bindSet k | .isleActivate k | .isleReset k | .unitReset k | .mapInstall k | .portRetrain k | .agentEvict k
  | .ringCreate k | .ringDestroy k | .rowMigrate k | .twinPair k | .twinPairTimeout k | .routeSet k | .attest k _ | .keyAgree k _
  | .isleKeyLoad k | .expelCert k | .descriptorArrival k _ _ | .descriptorReread k _ _ | .completionWrite k _ | .pickOverrun k
  | .completionTimeout k _ | .mergeCheckpoint k => k.wf
  | .handoffExpiry handle | .orphanReclaim handle => handle < 2 ^ 64
  | .ringGoneNotice h rings => h.wf && rings.all (· < 2 ^ 24)
  | .oldRootFree isle atoll => isle < 16384 && atoll < 65536
  | .ferryCopyDone table slot _ => table < 65536 && slot < 4096
  | .doorbellPoll fn _ | .doorbellPollReturn fn _ _ | .ringSetupCreate fn | .flr fn | .busMasterEnableSet fn => fn < 256
  | .watchedWakeup off | .snoopTimeout off | .flashReadDone off _ _ | .flashProgramDone off _ | .patrolScrub off _ _
  | .flashScrub off _ _ => offWf off
  | .ringErrorRecord sq _ => sq < 4096
  | .msixModerationTimeout cq => cq < 4096
  | .msixUnmask fn vec => fn < 256 && vec < 2048
  | .ringSetupDestroy fn sq => fn < 256 && sq < 4096
  | .fwImageVerify source _ => source < 2
  | .firmwareStart tableBase => 0x2FE2600000 ≤ tableBase && tableBase < 0x3000000000
  | .portDisable port _ | .portEnable port _ => portWf port
  | .strBindWrite port entry _ => port < 24 && entry < 2048
  | .vfBindWrite vf _ => 1 ≤ vf && vf < 256
  | .msixAllocWrite fn _ => fn < 256
  | .domainSelectWrite dom _ => dom < 100
  | .clockSwitchDone dom => dom.all (· < 100)
  | .trdBeatLoRead size | .cswEpochLoRead size => size = 1 || size = 2 || size = 4 || size = 8
  | .registerWrite fn _ size _ => fn < 256 && (size = 1 || size = 2 || size = 4 || size = 8)
  | .bar2Read fn off len _ => fn < 256 && off < 2 ^ 55 && 1 ≤ len && len ≤ 4096
  | .bar2Write fn off bytes => fn < 256 && off < 2 ^ 55 && 1 ≤ bytes.length && bytes.length ≤ 4096
  | .readId b | .setPoolId b _ | .setAddr b _ | .commit b | .readStatus b => b.addr < 128
  | .powerupStep n _ => n < 16
  | .clkRefLost cause | .beatUnsynced cause => cause < 256
  | .vloomAdjust mv => mv < 1024
  | .signalDetect port | .trainingFailed port | .lossOfSignal port | .flitReceive port _ | .retrain port | .echo port _
  | .echoReply port _ _ | .linkAdaptation port _ | .portUp port _ _ _ | .hello port _ | .idClaim port _ | .takeoverClaim port _
  | .idConflict port _ _ | .beat port _ _ _ _ => portWf port
  | .retireReq port half | .retireAck port half => portWf port && half < 2
  | .rdShared h _ | .rdOwn h | .upgrade h | .dirty h | .wrBack h _ | .rdUncached h _ | .wrLine h _ | .wrPartial h _ _ | .rdRun h
  | .wrRun h _ | .rspAck h | .rspData h _ | .progress h | .subcmd h _ _ => h.wf
  | .atomic h op _ _ => h.wf && op < 256
  | .status h code _ | .readData h code _ _ | .atomicResult h code _ | .subcmdDone h code _ _ _ _ => h.wf && code < 65536
  | .retry h backoff => h.wf && backoff < 2 ^ 32
  | .runCont h first _ => h.wf && first < 2 ^ 32
  | .heartbeat port src _ _ | .fenceNotice port src => causewayWf port && src < 4096
  | .probe port src | .probeAck port src => portWf port && src < 4096
  | .imagePart port _ _ bytes => causewayWf port && bytes.length ≤ 4096
  | .planPrepare port src _ _ _ | .planPrepareAnswer port src _ _ | .planCommit port src _ | .planAbort port src _
  | .pauseNotice port src | .certMessage port src _ | .planArm port src _ _ | .planStopNotice port src _ _
  | .planMemberAck port src _ _ => portWf port && src < 4096
  | .commitNotice port src table slot newHome va _ _ =>
      portWf port && src < 4096 && table < 65536 && slot < 4096 && newHome < 4096 && va < 2 ^ 55
  | .commitNoticeAck port src table slot => portWf port && src < 4096 && table < 65536 && slot < 4096
  | .agentSweepDone idx => idx < 1024
  | .tlbWalkDone isle page _ | .promotionCommit isle page | .moveCommit isle page => pageWf isle page
  | .flashEraseDone chan _ | .channelFailed chan | .garbageCollection chan _ => chan < 16
  | .causewayJournal port _ | .twinAcknowledgement port _ _ => causewayWf port
  | .resyncWatermark poolId _ _ => poolId < 4096
  | .withdrawalStart | .withdrawalSweepDone _ | .drainEnd _ | .drainBoundExpiry _ | .withdrawalComplete _ | .ferryHoldEnd
  | .resyncCopyDone | .descriptorFetch _ | .eventPost | .sealWrite _ | .fwGo _ | .cfgGo _ _ | .portsGo _
  | .flashFormat _ | .flashFormatDone | .alertClear _ | .hedModeWrite _ | .refSelectWrite _ | .enumTokenReceived | .coldReset _
  | .warmReset | .resetNRise | .powerOff | .perst | .thermalSample _ _ | .thermalTrip | .oscTrim _ | .refSwitchBack
  | .rootStopped | .claimStands | .prepareTimeout _ | .tentativeExpiry _ | .beatBoundary _ | .beatInputFailover
  | .requestTimeout _ | .progressDue _ | .epochHoldExpiry _ | .graceExpiry | .tieringEpoch | .warmupEnd | .telemetrySample
  | .causewayLost | .probeTimeout | .backOffExpiry _ | .vfEnableChange _ | .enumInLow | .pllLocked | .resetEntryEnd => true

end Sys2Proof
end

