-- ==== Sys2Proof/Tests/Slice0.lean ====
section
/-! SUPPORT. Tests: ill-formed terms that WellFormed refuses, small tests of one step with expected results from the spec, and for
every statement with hypotheses a state that meets them. -/

namespace Sys2Proof.Tests

set_option Elab.async false

open Sys2Proof.Machine

/-- The premise of `StepRunsFrontCommand` is met by the state at reset. -/
theorem wit_idle : State.reset.pending = [] := rfl

/-- The premises of `AsleepDeviceKeepsItsState` are met by the state at reset, which is without power. -/
theorem wit_asleep : awake State.reset = false ∧ actsAsleep (.graceExpiry) = false := by decide +kernel

/-- The premises of `StoreStaysCanonical` are met by the state at reset. -/
theorem wit_canonical : Memory.wf State.reset.store.cells = true ∧ step State.reset = .next State.reset := ⟨rfl, rfl⟩

/-- Both cases of `HeldEventsAreAtMost1024`: fewer than 1,024 events held, and exactly 1,024. -/
theorem wit_held : State.reset.bobbin.held.length < 1024 ∧
    1024 ≤ ({ State.reset with bobbin := { State.reset.bobbin with held := List.replicate 1024 (event 1 0 0 0 0) } } : State).bobbin.held.length :=
  ⟨by decide +kernel, by rw [List.length_replicate]⟩

/-- The widths of `CompletionRecordLayout` are met at their upper ends. -/
theorem wit_record : 0xFFFFFFFF < 2 ^ 32 ∧ 0xFFFF < 2 ^ 16 ∧ 0xFF < 2 ^ 8 ∧ 0xFFFFFFFFFFFF < 2 ^ 48 := by decide +kernel

/-- The premise of `StoreReadAfterWrite` is met by a store that lists cells. -/
theorem wit_store : Memory.wf [(3, 1), (4, 0xFF), (0xFFFFFFFFFFFFF, 7)] = true := by decide +kernel

/-- The premise of `NewPageReadsAsZero` is met by a state whose page 1 holds a byte, is poisoned and lost. -/
theorem wit_newPage : Memory.wf ({ State.reset.store with cells := [(0x10000, 5)], poison := [0x10000], lost := [0x1FFC0] } : Store).cells = true := by
  decide

/-- The device awake, with firmware running. -/
def live : State :=
  { State.reset with
    pool := { State.reset.pool with pwrgd := true, id := 5, joined := true, members := [5, 6] }
    harbour := { State.reset.harbour with boot := 3 } }

/-- A command with a descriptor, ready under key (0, 0), for isle 1. -/
def kk : CmdKey := { sq := 0, seq := 0 }
def mkCmd (desc : Nat) (arg : List Byte) : Cmd := { freshCmd kk 1 desc .ready with arg := arg }
def withC (c : Cmd) (s : State) : State := { s with bobbin := { s.bobbin with cmds := [c] } }

/-- Isle 1 with two 512 MiB blocks with every right, a level-1 table at 0x10000 and a level-2 table at 0x20000: virtual address 0 lies in
HBM at 0x20000000, and 0x20000000 in the scratchpads. -/
def mem : State :=
  { live with
    isles := [(1, { state := .active, timeShared := false, weight := 1, ringQuota := 4, transRoot := 0x10000, bar2Base := 0, heddleQuota := 16,
                    shuttleQuota := 256, reefQuota := 512, hbmQuota := 64, ddrQuota := 0, flashQuota := 0, clusterMask := 3, keys := some 5 })]
    store := { live.store with cells := [(0x10000, 3), (0x10002, 2), (0x20000, 0x39), (0x20003, 0x20), (0x20008, 0x39), (0x2000C, 0x40)] } }

def cNop : Cmd := mkCmd 0x0001 []
def cFence : Cmd := mkCmd (0x0030 + 2 ^ 128) []
def cRel : Cmd := mkCmd (0x0031 + 2 ^ 128 * 1 + 0x40 * 2 ^ 192 + 7 * 2 ^ 256) []

/-- NOP, FENCE and RELEASE that may run, with the premises of `NopFenceAndRelease`. -/
theorem wit_nop : Runs (withC cNop live) kk 0x0001 cNop ∧ descArgBlock cNop.desc = false ∧ cNop.zero 16 63 = true := by decide +kernel
theorem wit_fence : Runs (withC cFence live) kk 0x0030 cFence ∧ fenceFieldsOk cFence = true ∧
    Runs (withC { cFence with phase := .running } live) kk 0x0030 { cFence with phase := .running } ∧ cFence.fld 16 0 2 = 1 ∧
    earlier (withC { cFence with phase := .running } live) kk = [] := by decide +kernel
theorem wit_release : Runs (withC cRel mem) kk 0x0031 cRel ∧ releaseFieldsOk cRel = true ∧ releaseDone (withC cRel mem) cRel = true ∧
    (access kk 1 [⟨.load, true, cRel.va 24, 8⟩] (startCmd kk (withC cRel mem))).1 = .ok ∧
    (vwrite kk 1 (cRel.va 24) (leBytes (cRel.fld 32 0 64) 8)
      (access kk 1 [⟨.load, true, cRel.va 24, 8⟩] (startCmd kk (withC cRel mem))).2).1 = false := by decide +kernel

def cAcq : Cmd := mkCmd (0x0032 + 2 ^ 128 * 1 + 2 ^ 136 + 9 * 2 ^ 160 + 0x40 * 2 ^ 192 + 7 * 2 ^ 256) []
def cAcqRun : Cmd := { cAcq with phase := .running, aux := [3] }

/-- An ACQUIRE that reads its flag, one that reads it again, and one whose timeout comes: the premises of
`AcquireReadsUntilItsConditionHolds`. -/
theorem wit_acquire : Runs (withC cAcq mem) kk 0x0032 cAcq ∧ acquireFieldsOk cAcq = true ∧ cAcq.phase = .ready ∧
    (access kk 1 [⟨.load, false, cAcq.va 24, 8⟩] (startCmd kk (withC cAcq mem))).1 = .ok ∧
    (let u := (access kk 1 [⟨.load, false, cAcq.va 24, 8⟩] (startCmd kk (withC cAcq mem))).2
     vstatus u (cmdNow u cAcq) (cAcq.va 24) 8 = stOk) := by decide +kernel
theorem wit_acquireReread : Runs (withC cAcqRun mem) kk 0x0032 cAcqRun ∧ cAcqRun.phase = .running ∧
    holdsEntry (withC cAcqRun mem) kk = false ∧ (access kk 1 [⟨.load, false, cAcq.va 24, 8⟩] (withC cAcqRun mem)).1 = .ok ∧
    (let u := (access kk 1 [⟨.load, false, cAcq.va 24, 8⟩] (withC cAcqRun mem)).2
     vstatus u (cmdNow u cAcqRun) (cAcq.va 24) 8 = stOk) := by decide +kernel
theorem wit_acquireTimeout : cAcqRun.phase = .running ∧ cAcqRun.fld 20 0 32 ≠ 0 ∧ cAcqRun.aux = 3 :: [] := by decide +kernel

def cCopy : Cmd := mkCmd (0x0010 + 0x40 * 2 ^ 128 + 0x1001 * 2 ^ 192 + 3 * 2 ^ 256) []
def cFill : Cmd := mkCmd (0x0011 + 0x41 * 2 ^ 128 + 9 * 2 ^ 256 + 0x0807060504030201 * 2 ^ 320) []
def cCheck : Cmd := mkCmd (0x0018 + 2 * 2 ^ 128 + 0x41 * 2 ^ 192 + 3 * 2 ^ 256) []

/-- COPY, FILL and CHECK with a byte left whose burst can be made: the premises of `CopyFillAndCheckTakeOneBurst`. -/
theorem wit_copy :
    let r := { cCopy with phase := Phase.running }
    let s := withC cCopy mem
    Runs s kk 0x0010 cCopy ∧ copyFieldsOk cCopy = true ∧ overlap 0x40 3 0x1001 3 = false ∧ cCopy.done < cCopy.fld 32 0 64 ∧
    budgetHolds (startCmd kk s) r [0x40, 0x1001] = false ∧
    (copyBurst kk r 0x40 0x1001 (burstLen 0x40 0x1001 3) (coversPage 0x1001 3 0x1001) (startCmd kk s)).1 = .ok := by decide +kernel
/-- The same with a line whose check failed once, and with one that goes on failing. -/
theorem wit_copyBad :
    let r := { cCopy with phase := Phase.running }
    let t := startCmd kk ([⟨0x20000040, false, false⟩, ⟨0x20000080, false, true⟩].foldl lineFault (withC cCopy mem))
    cmd? t kk = some r ∧ budgetHolds t r [0x40, 0x1001] = false ∧
    (copyBurst kk r 0x40 0x1001 (burstLen 0x40 0x1001 3) (coversPage 0x1001 3 0x1001) t).1 = .ok := by decide +kernel
/-- R666, R732: a check mismatch that goes counts in SEL_TRANSIENT_COUNT; one that stays poisons the line and counts. -/
theorem test_lineFault : let t := [⟨0x20000040, false, false⟩, ⟨0x20000080, false, true⟩].foldl lineFault mem
    t.trust.transientCount = 1 ∧ t.trust.lastingCount = 1 ∧ isPoisoned t 0x20000080 = true ∧ isPoisoned t 0x20000040 = false := by decide +kernel
theorem wit_fill :
    let s := withC cFill mem
    Runs s kk 0x0011 cFill ∧ fillFieldsOk cFill = true ∧ cFill.done < cFill.fld 32 0 64 ∧
    (readyPiece kk 1 .dma true false 0x41 (burstLen 0x41 0x41 9) (startCmd kk s)).1 = .ok := by decide +kernel
theorem wit_check :
    let s := withC cCheck mem
    Runs s kk 0x0018 cCheck ∧ checkFieldsOk cCheck = true ∧ cCheck.va 56 = 0 ∧ cCheck.done < cCheck.fld 32 0 64 ∧
    (readyPiece kk 1 .dma false false 0x41 (burstLen 0x41 0x41 3) (startCmd kk s)).1 = .ok ∧
    goodPrefix (readyPiece kk 1 .dma false false 0x41 (burstLen 0x41 0x41 3) (startCmd kk s)).2 cCheck 0x41 3 = none := by decide +kernel

def cTile : Cmd := mkCmd (0x0012 + 0x100 * 2 ^ 128 + 0x2000 * 2 ^ 192 + 4 * 2 ^ 256 + 2 * 2 ^ 288 + 16 * 2 ^ 320 + 32 * 2 ^ 384) []
def cTileBad : Cmd := mkCmd (0x0012 + (2 ^ 54) * 2 ^ 128 + 0x2000 * 2 ^ 192 + 4 * 2 ^ 256 + 2 * 2 ^ 288 + 16 * 2 ^ 320 + 32 * 2 ^ 384) []

/-- A tile whose first burst can be made, and one whose source is not mapped: the premises of `TileCopyTranslatesThenTakesOneBurst`. -/
theorem wit_tile :
    let s := withC cTile mem
    Runs s kk 0x0012 cTile ∧ tileFieldsOk cTile = true ∧ tileOverlap cTile = false ∧
    failingParts s 1 1 (tileSrc cTile) ++ failingParts s 1 2 (tileDst cTile) = [] ∧
    (copyBurst kk { cTile with phase := .running } 0x100 0x2000 (burstLen 0x100 0x2000 4) false (startCmd kk s)).1 = .ok := by decide +kernel
theorem wit_tileBad :
    let s := withC cTileBad mem
    Runs s kk 0x0012 cTileBad ∧ tileFieldsOk cTileBad = true ∧ tileOverlap cTileBad = false ∧
    (lowestPart (failingParts s 1 1 (tileSrc cTileBad) ++ failingParts s 1 2 (tileDst cTileBad))).isSome = true := by decide +kernel

def cBatch : Cmd := mkCmd (0x0020 + 1 * 2 ^ 128 + 0x100 * 2 ^ 192 + 0x200 * 2 ^ 256) []
def cPoison : Cmd := mkCmd (0x0405 + 0x40 * 2 ^ 192 + 64 * 2 ^ 256) []

/-- An ATOMIC_BATCH of one entry before and after it is performed, and a POISON_CLEAR of one line: the premises of
`AtomicBatchAndPoisonClear`. The first list's entry has no operation and fails its check. -/
theorem wit_batch :
    let s := withC cBatch mem
    let r := access kk 1 [⟨.load, false, 0x100, 64⟩, ⟨.load, true, 0x200, 16⟩] (startCmd kk s)
    Runs s kk 0x0020 cBatch ∧ batchFieldsOk cBatch = true ∧ cBatch.fld 16 0 32 = 1 ∧ r.1 = .ok ∧
    vstatus r.2 (cmdNow r.2 cBatch) 0x100 64 = stOk ∧ (cmdNow r.2 cBatch).done = 0 ∧
    entryStatus r.2 1 (vread r.2 (cmdNow r.2 cBatch) 0x100 64) ≠ stOk := by decide +kernel
theorem wit_batchDone :
    let s := withC { cBatch with phase := .running, done := 1, aux := [1, 0] } mem
    let r := access kk 1 [⟨.load, false, 0x100, 64⟩, ⟨.load, true, 0x200, 16⟩] (startCmd kk s)
    r.1 = .ok ∧ (cmdNow r.2 cBatch).done = 1 ∧ cmd? r.2 kk = some (cmdNow r.2 cBatch) ∧ (cmdNow r.2 cBatch).desc = cBatch.desc := by decide +kernel
theorem wit_poisonClear :
    let s := withC cPoison mem
    let r := access kk 1 [⟨.dma, true, 0x40, 64⟩] (startCmd kk s)
    Runs s kk 0x0405 cPoison ∧ poisonFieldsOk cPoison = true ∧ cPoison.fld 32 0 64 = 64 ∧ r.1 = .ok ∧
    walk r.2 1 0 = .entry 0x20000039 := by decide +kernel

/-- Both cases of `LineStoreWritesExactlyItsBytes`: a store that fills the end of a clean line, and one into part of a poisoned line. -/
theorem wit_lineStore : Memory.wf mem.store.cells = true ∧ (0x7F % 64 + [1].length (α := Byte)) ≤ 64 ∧
    mem.heddle.caches.any (fun c => c.off == lineOf 0x7F && c.state == .m) = false ∧ lineStatus mem (lineOf 0x7F) = stOk ∧
    lineStatus (setPoison 0x40 mem) (lineOf 0x7F) ≠ stOk := by decide +kernel

/-- A GATHER of one FP32 element from an address, a WRITE of it, and their flags: at 0x40 acquired for 0, at 0x80 released with 7. -/
def stGather (va sync : Nat) : Nat := 1 + 2 ^ 32 + va * 2 ^ 64 + 4 * 2 ^ 128 + sync * (5 * 2 ^ 320 + 0x40 * 2 ^ 384)
def stWrite (va sync : Nat) : Nat := 0x0E + 2 ^ 32 + va * 2 ^ 64 + 4 * 2 ^ 128 + sync * (5 * 2 ^ 320 + 0x80 * 2 ^ 384 + 7 * 2 ^ 448)
def chainOf (l : List Nat) : List Byte :=
  leBytes l.length 4 ++ leBytes 1 4 ++ leBytes 0 8 ++ leBytes 4096 4 ++ List.replicate 44 0 ++ l.flatMap (fun g => leBytes g 64)
def cWeave (l : List Nat) : Cmd := mkCmd (0x0040 + 2 ^ 19 + 64 * (1 + l.length) * 2 ^ 192) (chainOf l)
def cWeaveAt (l : List Nat) (aux : List Nat) (done : Nat) : Cmd := { cWeave l with phase := .running, clusters := [0], aux := aux, done := done }

/-- A chain dispatched, one whose stages are done, one at a later phase, one at a flag to acquire, one at a flag to release: the premises
of `WeaveRunsItsChain`. -/
theorem wit_weave : let c := cWeave [stGather 0x100 1, stWrite 0x200 1]
    Runs (withC c mem) kk 0x0040 c ∧ c.phase = .ready ∧ weaveOk (withC c mem) c = true ∧
    chooseClusters (withC c mem) c true (c.fld 32 0 64) = .ok [0, 1] := by decide +kernel
theorem wit_weaveDone : let c := cWeaveAt [stGather 0x100 1, stWrite 0x200 1] [0] 2
    Runs (withC c mem) kk 0x0040 c ∧ c.phase = .running ∧ c.clusters ≠ [] ∧ stageCount c ≤ c.done := by decide +kernel
theorem wit_weavePhase : let c := cWeaveAt [stGather 0x100 0, stWrite 0x20000000 0, stGather 0x20000000 0] [0] 2
    Runs (withC c mem) kk 0x0040 c ∧ c.done < stageCount c ∧ startsPhase (withC c mem) c c.done = true ∧ c.aux.headD 0 = 0 := by decide +kernel
theorem wit_gatherAcquire : let c := cWeaveAt [stGather 0x100 1, stWrite 0x200 1] [0] 0
    let r := access kk 1 [⟨.load, false, sgFlagVa (atStage c), 8⟩] (withC c mem)
    awaitsFlag (withC c mem) c = true ∧ r.1 = .ok ∧ vstatus r.2 (cmdNow r.2 c) (sgFlagVa (atStage c)) 8 = stOk := by decide +kernel
theorem wit_writeRelease : let c := cWeaveAt [stGather 0x100 1, stWrite 0x200 1] [3] 1
    let r := access kk 1 [⟨.shuttle (itemCluster c 0), true, sgFlagVa (atStage c), 8⟩] (withC c mem)
    Runs (withC c mem) kk 0x0040 c ∧ c.aux.headD 0 = 3 ∧ (sgScope (atStage c) = 2 → c.unacked = []) ∧ r.1 = .ok ∧
    (vwrite kk 1 (sgFlagVa (atStage c)) (leBytes (sgFlag (atStage c)) 8) r.2).1 = false := by decide +kernel

/-- The premises of `WeaveSlotStagesCompute` at slots of two elements and of one. -/
theorem wit_slots : sgKind 0x03 = 0x03 ∧ sgKind 0x04 = 0x04 ∧ sgKind 0x05 = 0x05 ∧ sgKind 0x06 = 0x06 ∧ sgKind 0x0D = 0x0D ∧
    (slotOf [(0, vecSlot [1, 2])] (sgA 0x04)).vals.length = 2 := by decide +kernel

/-- Isle 1 with a 512 MiB block at virtual address 0 of a page type and rights, in HBM at 0x20000000. -/
def memT (rights ty : Nat) : State :=
  { mem with store := { mem.store with cells := [(0x10000, 3), (0x10002, 2), (0x20000, BitVec.ofNat 8 (1 + 8 * rights)),
      (0x20001, BitVec.ofNat 8 (4 * ty)), (0x20003, 0x20)] } }
def tbl : Table :=
  { isle := 1, fmt := 0, sat := false, sr := false, opt := 0, width := 4, rows := 8, firstStep := 0, eps := 0, srSeed := 0,
    stagingVa := 0x10000, stagingLen := 0x10000, slots := [{ first := 0, pool := 5, va := 0x20000 }] }
def memE : State :=
  { memT 7 2 with maps := { mem.maps with cur := { mem.maps.cur with tables := [(3, tbl)] } }, emb := { mem.emb with openStep := [(3, 9)] } }
def lead6 : Hdr := { port := 0, src := 6, stream := 0, tag := 1, sync := 0, epoch := 0, alive := 0, addr := 0, rsv := false }
def cServe (desc : Nat) (words : List Nat) : Cmd := { mkCmd desc [] with lead := some lead6, data := { words := words, bytes := [] } }
def okSub : Sub := { newSub 0 6 0 noData with status := some stOk, counts := (2, 3) }

/-- A gather of the table's rows 0 and 7 that the home serves. -/
theorem wit_gather : let c := cServe (0x0100 + 3 * 2 ^ 256) [0, 0, 0, 7]
    let s := startCmd kk (withC c memE)
    let r := access kk 1 ([0, 7].map (fun r => ⟨.load, false, rowVa tbl r, 16⟩)) s
    Runs (withC c memE) kk 0x0100 c ∧ table? s (gaTable c) = some tbl ∧ subWords c.data = [0, 7] ∧
    [0, 7].find? (fun r => !homeHere s 1 (rowHome tbl r)) = none ∧
    [0, 7].find? (fun r => typedRange s 1 (rowVa tbl r) (vecLen tbl.fmt tbl.width) 2 != stOk) = none ∧ r.1 = .ok ∧ (cmd? r.2 kk).isSome ∧
    [0, 7].find? (fun x => vstatus r.2 c (rowVa tbl x) 16 != stOk) = none := by decide +kernel
/-- A reservation of two contributions of the open step, a prepare of it, and the leads of both whose homes answered. -/
theorem wit_reserve : let c := cServe (0x0101 + 3 * 2 ^ 256 + 9 * 2 ^ 352) [0, 0, 2]
    let s := startCmd kk (withC c memE)
    Runs (withC c memE) kk 0x0101 c ∧ subPhase c.data = 0 ∧ subWords c.data = [2] ∧ table? s (gaTable c) = some tbl ∧
    NMap.get? s.emb.openStep (homeKey 1 3) = some (upStep c) ∧ s.emb.closing = [] ∧ share? s 3 6 (upSeq c) (upStep c) = none ∧
    typedRange s 1 tbl.stagingVa tbl.stagingLen 2 = stOk ∧ stagingUsed s 3 + 2 ≤ tbl.stagingLen / recordSize tbl ∧
    leadOf (withC c memE) c = 6 := by decide +kernel
theorem wit_prepare : let c := cServe (0x0102 + 3 * 2 ^ 128 + 9 * 2 ^ 160) [0, 0]
    let s := startCmd kk (withC c memE)
    Runs (withC c memE) kk 0x0102 c ∧ subPhase c.data = 0 ∧ NMap.get? s.emb.openStep (homeKey 1 (clTable c)) = some (clStep c) ∧
    s.emb.shares = [] := by decide +kernel
theorem wit_leads : let c (op : Nat) : Cmd := { mkCmd op [] with phase := .running, aux := [2, 0], subs := [okSub, okSub] }
    Runs (withC (c 0x0101) memE) kk 0x0101 (c 0x0101) ∧ Runs (withC (c 0x0102) memE) kk 0x0102 (c 0x0102) ∧
    allAnswered (c 0x0101) = true ∧ (c 0x0101).subs.all (fun x => x.status == some stOk) = true := by decide +kernel

/-- EMB_STATS with and without clear: the premises of `EmbStatsWritesTheTableRecord`. -/
theorem wit_stats : let c (f : Nat) := mkCmd (0x0103 + 3 * 2 ^ 128 + f * 2 ^ 144 + 0x40000 * 2 ^ 192) []
    Runs (withC (c 0) memE) kk 0x0103 (c 0) ∧ statsFieldsOk (c 0) = true ∧ statsFieldsOk (c 1) = true ∧ (c 1).fld 18 0 1 = 1 ∧
    (c 0).fld 18 0 1 = 0 ∧ (match cmdTable (withC (c 0) memE) (c 0) 3 with | .inl t => t == tbl | .inr _ => false) = true ∧
    (access kk 1 [⟨.load, true, 0x40000, 32832⟩] (startCmd kk (withC (c 0) memE))).1 = .ok := by decide +kernel

/-- A sequence of isle 1 homed on this device in slot 9, owned by ring 17 of device 6, of one layer and no fill. -/
def seqA : KvSeq :=
  { gen := 0, isle := 1, layers := 1, kvHeads := 1, headDim := 64, fmt := 1, group := 1, sat := false, place := [(5, 0)], fills := [0], refs := 1,
    owner := 6 * 4096 + 17, ostate := 0, isSealed := false, target := 0, keys := [], ownerGone := false, mutating := [] }
def memL (q : KvSeq) : State := { mem with lagoon := { mem.lagoon with seqs := [(9, q)] } }
def hdlA : Nat := 5 * 2 ^ 52 + 9 * 2 ^ 32
def cSeq (op rest ring : Nat) : Cmd := cServe (op + hdlA * 2 ^ 128 + rest * 2 ^ 192) [0, 0, ring, 77]

/-- Offer, the accepts that succeed and fail, release and publish: the premises of `SequenceHomeServesItsCommands`. -/
theorem wit_offer : let c := cSeq 0x0206 7 (6 * 4096 + 17)
    Runs (withC c (memL seqA)) kk 0x0206 c ∧ c.lead = some lead6 ∧ seq? (withC c (memL seqA)) 1 (kvHandle c) = some seqA ∧
    (subWords c.data).headD 0 = seqA.owner ∧ seqA.ostate = 0 ∧ seqA.mutating = [] := by decide +kernel
theorem wit_accept : let c := cSeq 0x0207 0 7
    let q := { seqA with ostate := 1, target := 7 }
    Runs (withC c (memL q)) kk 0x0207 c ∧ seq? (withC c (memL q)) 1 (kvHandle c) = some q ∧ q.target = (subWords c.data).headD 0 ∧
    seq? (withC c (memL { seqA with ostate := 2 })) 1 (kvHandle c) = some { seqA with ostate := 2 } ∧
    ¬ ((seqA.ostate = 1 ∧ seqA.target = 7) ∨ seqA.ostate = 2) := by decide +kernel
theorem wit_seqRelease : let c := cSeq 0x0208 0 7
    Runs (withC c (memL seqA)) kk 0x0208 c ∧ subPhase c.data = 0 ∧ c.fld 24 0 1 = 0 := by decide +kernel
theorem wit_publish : let c := cServe (0x0205 + hdlA * 2 ^ 128) [0, 0, 6 * 4096 + 17, 77]
    let s := withC c (memL { seqA with fills := [pbTokens c] })
    Runs s kk 0x0205 c ∧ pbLookup c = false ∧ ({ seqA with fills := [pbTokens c] } : KvSeq).length = pbTokens c ∧
    registered (startCmd kk s) 1 77 = none ∧ registrySize (startCmd kk s) < 65536 := by decide +kernel

/-- SEQ_CREATE of one layer on this device, a fork whose holders answered, and a query whose home answered: the premises of
`SequenceLeadCommandsComplete`. -/
theorem wit_seqCreate : let c := mkCmd (0x0203 + 2 ^ 19 + 128 * 2 ^ 192) ([0, 0, 1, 0, 1] ++ List.replicate 59 0 ++ leBytes 5 64)
    Runs (withC c mem) kk 0x0203 c ∧ createFieldsOk c (createSeq (withC c mem) kk c) = true ∧
    (createSeq (withC c mem) kk c).place.all (fun p => p.1 == 5) = true ∧ freeSlot (withC c mem) = some 0 := by decide +kernel
theorem wit_fork : let c : Cmd := { mkCmd 0x0204 [] with phase := .running, aux := [2, 99], subs := [okSub] }
    Runs (withC c mem) kk 0x0204 c ∧ allAnswered c = true ∧ okSub.status = some stOk := by decide +kernel
theorem wit_query : let c : Cmd := { mkCmd (0x0209 + hdlA * 2 ^ 128 + 0x40 * 2 ^ 192) [] with phase := .running, aux := [1], subs := [okSub] }
    Runs (withC c mem) kk 0x0209 c ∧ (access kk 1 [⟨.load, true, c.va 24, 64⟩] (startCmd kk (withC c mem))).1 = .ok := by decide +kernel

/-- A KV_APPEND whose holders wrote, a holder's write phase, an ATTN_DECODE whose spans answered, and an ATTN_COMBINE of one record of one head
of 64 elements: the premises of `KvAppendAndAttentionComplete`. -/
theorem wit_append : let c : Cmd := { mkCmd (0x0200 + hdlA * 2 ^ 128) [] with phase := .running, aux := [3, 0, 2], subs := [okSub] }
    Runs (withC c mem) kk 0x0200 c ∧ allAnswered c = true ∧ isMine (withC c mem) (hPool (kvHandle c)) = true := by decide +kernel
theorem wit_appendServed : let c := cServe 0x0200 [0, 2]
    Runs (withC c mem) kk 0x0200 c ∧ subPhase c.data = 2 := by decide +kernel
theorem wit_attn : let c : Cmd := { mkCmd 0x0201 [] with phase := .running, aux := [3], subs := [okSub, { okSub with status := some stPoison }] }
    Runs (withC c mem) kk 0x0201 c ∧ allAnswered c = true := by decide +kernel
theorem wit_combine : let c : Cmd := { mkCmd (0x0202 + 2 ^ 128 + 2 ^ 160 + 0x1000 * 2 ^ 192 + 0x2000 * 2 ^ 256) [] with clusters := [0] }
    let s := withC c mem
    let r := access kk 1 [⟨.shuttle 0, false, 0x1000, cbCount c * cbRecord c⟩,
      ⟨.shuttle 0, true, 0x2000, cbHeads c * headLen (cbMode c) (cbDim c)⟩] (startCmd kk (startCmd kk s))
    Runs s kk 0x0202 c ∧ combineFieldsOk c = true ∧ cbCount c = 1 ∧ r.1 = .ok ∧ (cmd? r.2 kk).any (fun d => d.desc == c.desc && d.isle == 1 &&
      vstatus r.2 d 0x1000 (cbRecord c) == stOk) = true := by decide +kernel

/-- An offer whose owner is there, one whose owner is gone, an orphan, and a notice that names the owner: the premises of
`LagoonTimersAndNotices`. -/
theorem wit_seqTimers : awake (memL seqA) = true ∧
    homedSeq (memL { seqA with ostate := 1 }) hdlA = some (1, { seqA with ostate := 1 }) ∧
    homedSeq (memL { seqA with ostate := 1, ownerGone := true }) hdlA = some (1, { seqA with ostate := 1, ownerGone := true }) ∧
    homedSeq (memL { seqA with ostate := 2 }) hdlA = some (1, { seqA with ostate := 2 }) ∧
    lead6.src ∈ (memL seqA).pool.members ∧ (6 * 4096 + 17) / 4096 = lead6.src ∧ (memL seqA).lagoon.seqs = [(9, seqA)] ∧
    seqA.owner = 6 * 4096 + 17 := by decide +kernel

/-- A shard of 64 dimensions of Atoll 3 of isle 1, with its records and metadata mapped, nothing logged. -/
def shA : Shard :=
  { dims := 64, metric := 0, degree := 16, sideCap := 1024, tombCap := 1024, navPages := 0, recordVa := 0x100000, slots := 1, metaVa := 0x10000,
    so := List.replicate 64 (0x3F800000, 0), active := false, merging := false, gen := 0, sideHead := 0, sideTail := 0, tombHead := 0,
    tombTail := 0, rootA := { nodes := 0, live := 0, entry := 0xFFFFFFFF, segs := [] }, rootB := { nodes := 0, live := 0, entry := 0xFFFFFFFF, segs := [] },
    sides := [], tombs := [], nav := [], merge := none, oldSlots := [] }
def memA (sh : Shard) : State := { memT 1 3 with atolls := { mem.atolls with shards := [(65536 + 3, sh)] } }

/-- The premises of `AtollHomeServesSearchInsertAndDelete`, each for Atoll 3. -/
theorem wit_delete : let c := cServe (0x0302 + 3 * 2 ^ 256) [0, 1, 9]
    Runs (withC c (memA shA)) kk 0x0302 c ∧ shard? (withC c (memA shA)) 1 (asId c) = some shA ∧ subWords c.data = [9] ∧ shA.tombs = [] := by decide +kernel
theorem wit_insert : let c : Cmd := { mkCmd (0x0301 + 3 * 2 ^ 256 + 2 ^ 272) [] with
      lead := some lead6, data := { words := [0, 1, 64, 0], bytes := leBytes 9 64 ++ List.replicate 256 0 } }
    Runs (withC c (memA shA)) kk 0x0301 c ∧ shard? (withC c (memA shA)) 1 (asId c) = some shA ∧ subPhase c.data = 1 ∧ aiCount c = 1 ∧
    subWords c.data = [64, 0] ∧ vecRefused 0 (decodeVec 0 64 ((c.data.bytes.drop 64).take 256)) = false := by decide +kernel
theorem wit_search : let c := cServe (0x0300 + 3 * 2 ^ 256) [0, 1, 64, 0]
    Runs (withC c (memA shA)) kk 0x0300 c ∧ (homeSearch kk 1 c c.data (startCmd kk (withC c (memA shA)))).1 = .done stOk 0 0 0 noData := by decide +kernel
theorem wit_searchLead : let c : Cmd := { mkCmd 0x0300 [] with phase := .running, aux := [2], subs := [okSub] }
    Runs (withC c mem) kk 0x0300 c ∧ allAnswered c = true := by decide +kernel

/-- An ATOLL_CREATE of one record slot in flash at 0x40000000, its metadata at 0x100000, and a scale table of ones at 0x40000, whose eight lines
an external owner forwarded. -/
def cCreateAtoll : Cmd :=
  { mkCmd (0x0304 + 2 ^ 19 + 64 * 2 ^ 192)
      (leBytes 3 2 ++ leBytes 64 2 ++ leBytes 0 1 ++ leBytes 16 1 ++ leBytes 0 2 ++ leBytes 1024 4 ++ leBytes 1024 4 ++ leBytes 0 4 ++
       leBytes 0 4 ++ leBytes 0x40000000 8 ++ leBytes 0x100000 8 ++ leBytes 0x1000000 8 ++ leBytes 0x90000 8 ++ leBytes 0x40000 8) with
    fwd := (List.range 8).map (fun i => (0x20040000 + 64 * i, BitVec.ofNat 512 (0x3F800000 * ((2 ^ 512 - 1) / (2 ^ 64 - 1))), false)) }
def memCA : State :=
  let st := (memT 1 3).store
  withC cCreateAtoll { memT 1 3 with
    store := { st with cells := st.cells ++ [(0x20008, 0x39), (0x20010, 0x39), (0x20011, 0x0C), (0x20016, 1)] }
    flash := { mem.flash with formatted := true, rawGib := 4096 } }
theorem wit_createAtoll : Runs memCA kk 0x0304 cCreateAtoll ∧ createAtollOk cCreateAtoll = true := by decide +kernel
theorem readEntry_caRoot : readEntry memCA 0x10000 1 0 = .entry 0x20003 ∧ readEntry memCA 0x20000 2 16384 = .entry 0x1000000000C39 := by decide +kernel
theorem walkFrom_ca (i : Nat) (h : i < 256) : walkFrom memCA 0x10000 (16384 + i) = .entry (0x1000000000C39 + i * 65536) := by
  have h1 : readEntry memCA 0x10000 1 (16384 + i) = .entry 0x20003 := by
    rw [← readEntry_caRoot.1]
    have : entryAt 0x10000 1 (16384 + i) = entryAt 0x10000 1 0 := by simp only [entryAt, if_true]; omega
    simp only [readEntry, this]
  have h2 : readEntry memCA (eOff 0x20003) 2 (16384 + i) = .entry 0x1000000000C39 := by
    rw [← readEntry_caRoot.2, show eOff 0x20003 = 0x20000 from rfl]
    have : entryAt 0x20000 2 (16384 + i) = entryAt 0x20000 2 16384 := by
      simp only [entryAt, show ¬ (2 = 1) by decide +kernel, if_false, if_true]; omega
    simp only [readEntry, this]
  rw [walkFrom, h1]
  simp only [h2]
  rw [if_neg (by decide +kernel), show (16384 + i) % 8192 = i by omega]
theorem areaStatus_ca (i : Nat) (h : i < 256) : areaStatus memCA 1 true (16384 + i) = stOk := by
  have h0 : isle? memCA 1 = isle? mem 1 := rfl
  have hw : withdrawing memCA 1 (16384 + i) = false := rfl
  have ht : ∀ off, tierOf memCA off = tierOf { mem with flash := { mem.flash with formatted := true, rawGib := 4096 } } off := fun _ => rfl
  have hall : (List.range 256).all (fun i => let e := 0x1000000000C39 + i * 65536
      (tierOf { mem with flash := { mem.flash with formatted := true, rawGib := 4096 } } (eOff e)).isNone == false && eType e == 3 &&
        inTier .flash (eOff e / pageSize)) = true := by decide +kernel
  have he := List.all_eq_true.mp hall i (List.mem_range.mpr h)
  simp only [Bool.and_eq_true, beq_iff_eq] at he
  have hr : ∃ r, isle? memCA 1 = some r ∧ r.transRoot = 0x10000 := ⟨_, rfl, rfl⟩
  obtain ⟨r, hr1, hr2⟩ := hr
  simp only [areaStatus, walk, hr1, hr2, walkFrom_ca i h, hw, ht, he.1.1]
  rw [if_neg (by decide +kernel), if_neg (by decide +kernel)]
  simp [he.1.2, he.2]
theorem wit_createAreas : areasStatus memCA cCreateAtoll = stOk := by
  have h1 : pagesOf (crRecord cCreateAtoll) (crRecordLen cCreateAtoll) = (List.range 256).map (16384 + ·) := by decide +kernel
  have h2 : ((pagesOf (crMeta cCreateAtoll) (crMetaLen cCreateAtoll)).map (areaStatus memCA 1 false)).all (· == stOk) = true := by decide +kernel
  have h : ((pagesOf (crRecord cCreateAtoll) (crRecordLen cCreateAtoll)).map (areaStatus memCA 1 true) ++
      (pagesOf (crMeta cCreateAtoll) (crMetaLen cCreateAtoll)).map (areaStatus memCA 1 false)).find? (· != stOk) = none := by
    rw [List.find?_eq_none]
    intro x hx
    rcases List.mem_append.mp hx with hx | hx
    · rw [h1] at hx
      simp only [List.map_map, List.mem_map, List.mem_range, Function.comp_apply] at hx
      obtain ⟨i, hi, rfl⟩ := hx
      simp [areaStatus_ca i hi]
    · have := List.all_eq_true.mp h2 x hx
      simpa using this
  have hc : cCreateAtoll.isle = 1 := rfl
  simp only [areasStatus, hc, h]
theorem wit_createNone : NMap.get? memCA.atolls.shards (65536 + 3) = none := by decide +kernel
def gotCA : Got × State := access kk 1 [⟨.reef, false, 0x40000, 512⟩] (startCmd kk memCA)
theorem wit_createAccess : gotCA.1 = .ok ∧ gotCA.2.atolls.shards.length < 256 := by decide +kernel
theorem wit_createTable : (cmd? gotCA.2 kk).any (fun d => d.arg == cCreateAtoll.arg && d.isle == 1 && vstatus gotCA.2 d 0x40000 512 == stOk &&
    ((List.range 64).map (fun i => (field (vread gotCA.2 d 0x40000 512) (8 * i) 4, field (vread gotCA.2 d 0x40000 512) (8 * i + 4) 4))).all soOk)
    = true := by decide +kernel

def mergeM (g : List (Option (List Byte))) (cp : Nat) : Merge :=
  { cmd := some kk, sideTail := 0, tombTail := 0, graph := g, removed := 0, lost := 0, entry := 0xFFFFFFFF, written := [], checkpoint := cp }
def cMerge : Cmd := mkCmd (0x0303 + 3 * 2 ^ 256 + 16 * 2 ^ 288) []
def memAM (sh : Shard) : State :=
  withC { cMerge with phase := .running } { memA sh with maps := { mem.maps with cur := { mem.maps.cur with atolls := [(3, { isle := 1, homes := [5] })] } } }

/-- A merge that starts, one at an empty segment, one whose segments are written: the premises of `AtollMergeStartsCheckpointsAndCommits`. -/
theorem wit_merge : let s := withC cMerge (memAM shA)
    Runs s kk 0x0303 cMerge ∧ mergeFieldsOk cMerge = true ∧ amDiscard cMerge = false ∧
    (match cmdAtoll s cMerge 3 with | .inl a => a.homes == [5] | .inr _ => false) = true ∧ shard? s 1 (asId cMerge) = some shA ∧
    512 ≤ reefFree s 1 ∧ ceilDiv (shA.root.nodes + shA.sides.length) 4096 ≤ shA.slots - (usedSlots shA).length := by decide +kernel
theorem wit_checkpoint : let m := mergeM [none] 0
    awake (memAM { shA with merge := some m }) = true ∧
    mergeOf (memAM { shA with merge := some m }) kk = some (1, 3, { shA with merge := some m }, m) ∧ m.checkpoint < m.segCount ∧
    (m.graph.drop 0).take 4096 = [none] := by decide +kernel
theorem wit_commit : let m := mergeM [] 0
    mergeOf (memAM { shA with merge := some m }) kk = some (1, 3, { shA with merge := some m }, m) ∧ m.segCount ≤ m.checkpoint := by decide +kernel
theorem wit_oldRoot : NMap.get? (memA shA).atolls.shards (1 * 65536 + 3) = some shA := by decide +kernel

/-- Isle 1 with page 0 at 0x20000000, through a level-3 table at 0x30000; the low byte of its entry is given (bit 6 set: pinned). -/
def memPg (low : BitVec 8) : State :=
  { mem with store := { mem.store with cells := [(0x10000, 3), (0x10002, 2), (0x20000, 3), (0x20002, 3), (0x30000, low), (0x30003, 0x20)] } }
/-- A command on a management ring of function 0, ring 0. -/
def mgmtSq : Sq :=
  { isle := 0, fn := 0, host := true, dbHost := false, management := true, events := false, log2 := 4, base := 0x100000, dbLine := 0, dbSlot := 0,
    pollGroup := 0, inflightMax := 16, cq := 0, alive := 1, accepted := 1, fetched := 1, err := none, errRecord := false, destroying := false,
    destroyCmd := none, destroyFn := none, ignored := 0, rereads := 0, awaitBme := false }
def onMgmt (c : Cmd) (s : State) : State := withC { c with isle := 0 } { s with bobbin := { s.bobbin with sqs := [(0, mgmtSq)] } }

/-- The premises of `RegionCommandsComplete`: a region of one page at 8 GiB, a scratchpad window there, a window, a pin and an unpin, and a
PIN_TIER at its end. -/
theorem wit_regionAlloc : let c := mkCmd (0x0400 + 0x200000000 * 2 ^ 128 + 0x10000 * 2 ^ 192) []
    let s := withC c mem
    let u := (ensureTables 1 [0x20000] s).getD s
    Runs s kk 0x0400 c ∧ allocFieldsOk c = true ∧ raMirrored c = false ∧ (List.range (raLen c / pageSize)).map (c.va 16 / pageSize + ·) = [0x20000] ∧
    mapped s 1 0x20000 = false ∧ lowestFree (regionsOf s 1) 1 1048576 = some 1 ∧ (ensureTables 1 [0x20000] s).isSome = true ∧
    (placePages 1 1 (allocOrder (raHint c) (raPin c)) [0x20000] u).isSome = true := by decide +kernel
theorem wit_mapScratch : let c := mkCmd (0x0402 + 2 ^ 144 + 7 * 2 ^ 176 + 0x200000000 * 2 ^ 192) []
    let s := withC c { mem with clusters := mem.clusters }
    Runs s kk 0x0402 c ∧ mapFieldsOk c = true ∧ c.fld 16 0 2 = 0 ∧ ((List.range 32).map (0x20000 + ·)).all (fun p => !mapped s 1 p) = true ∧
    dedicatedTo s (c.fld 18 0 12) = some 1 ∧ (ensureTables 1 ((List.range 32).map (0x20000 + ·)) s).isSome = true := by decide +kernel
theorem wit_mapWindow : let c := mkCmd (0x0402 + 2 ^ 128 + 9 * 2 ^ 144 + 2 ^ 160 + 7 * 2 ^ 176 + 0x20000 * 2 ^ 256) []
    let s := onMgmt c mem
    Runs s kk 0x0402 { c with isle := 0 } ∧ mapFieldsOk c = true ∧ c.fld 16 0 2 = 1 ∧ onManagement s kk = true ∧ NMap.get? s.trans.windows 9 = none := by
  decide
theorem wit_mapPin : let c := mkCmd (0x0402 + 2 * 2 ^ 128 + 0x10000 * 2 ^ 256) []
    let d := mkCmd (0x0402 + 2 * 2 ^ 128 + 2 ^ 136 + 0x10000 * 2 ^ 256) []
    let s := withC c (memPg 0x39)
    Runs s kk 0x0402 c ∧ mapFieldsOk c = true ∧ c.fld 16 0 2 = 2 ∧ c.fld 17 0 1 = 0 ∧ pagesOf (c.va 24) (c.fld 32 0 64) = [0] ∧
    walk s 1 0 = .entry 0x20000039 ∧ (pinPages 1 [0] s).isSome = true ∧ Runs (withC d (memPg 0x79)) kk 0x0402 d ∧ mapFieldsOk d = true ∧
    d.fld 17 0 1 = 1 ∧ planUses (withC d (memPg 0x79)) 1 0 = false := by decide +kernel
theorem wit_pinTier : let c : Cmd := { mkCmd (0x0404 + 0x10000 * 2 ^ 256) [] with phase := .running, aux := [1, 1, 0, 0] }
    Runs (withC c mem) kk 0x0404 c ∧ (pagesOf (c.va 24) (c.fld 32 0 64)).length ≤ 1 := by decide +kernel

def wdA (kind phase : Nat) : Withdrawal :=
  { id := 3, cmd := some kk, kind := kind, isle := 1, vpages := [0], windows := [], phase := phase, cut := 0, recalls := [], obj := 0 }
def memW (w : Withdrawal) : State := { mem with trans := { mem.trans with withdrawals := [w], nextWd := 4 } }
def regA : Region := { isle := 1, va := 0, len := 0x10000, coherent := false, ty := 0, mirrored := false, replica := none, cursor := none }

/-- The premises of `WithdrawalsStartDrainAndComplete`: a free, unmaps of both forms, and each phase of a withdrawal of page 0; a pinned page. -/
def memR (low : BitVec 8) : State :=
  let st := (memPg low).store
  { memPg low with store := { st with
      regions := [(4, regA)]
      pages := [(0x2000, { isle := 1, vpage := some 0, region := 4, counter := 0, idle := 0, chan := 0, move := none })] } }
theorem wit_regionFree : let c := mkCmd (0x0401 + 4 * 2 ^ 128) []
    let s := withC c (memR 0x39)
    Runs s kk 0x0401 c ∧ c.phase ≠ .running ∧ descArgBlock c.desc = false ∧ c.zero 20 63 = true ∧ NMap.get? (regionsOf s 1) 4 = some regA ∧
    regA.isle = c.isle % twinIsle ∧ regionPages s 1 4 regA = [0] ∧ pinnedPage s 1 0 = false ∧
    regionPages (withC c (memR 0x79)) 1 4 regA = [0] ∧ pinnedPage (withC c (memR 0x79)) 1 0 = true := by decide +kernel
theorem wit_unmap : let c := mkCmd (0x0403 + 0x10000 * 2 ^ 256) []
    let s := withC c mem
    let pinned := withC c (memPg 0x79)
    Runs s kk 0x0403 c ∧ c.phase ≠ .running ∧ unmapFieldsOk c = true ∧ c.fld 16 0 1 = 0 ∧ pagesOf (c.va 24) (c.fld 32 0 64) = [0] ∧
    mapped s 1 0 = true ∧ withdrawing s 1 0 = false ∧ pinnedPage s 1 0 = false ∧ Runs pinned kk 0x0403 c ∧ mapped pinned 1 0 = true ∧
    pinnedPage pinned 1 0 = true := by decide +kernel
theorem wit_unmapWindow : let c := mkCmd (0x0403 + 2 ^ 128 + 9 * 2 ^ 144) []
    let w : Window := { isle := 1, rights := 7, pages := 1, base := 0, leaving := false }
    let s := onMgmt c { mem with trans := { mem.trans with windows := [(9, w)] } }
    Runs s kk 0x0403 { c with isle := 0 } ∧ unmapFieldsOk c = true ∧ c.fld 16 0 1 = 1 ∧ onManagement s kk = true ∧
    NMap.get? s.trans.windows 9 = some w := by decide +kernel
theorem wit_wdStart : (memW (wdA 0 0)).trans.withdrawals.find? (fun x => x.phase == 0) = some (wdA 0 0) ∧ activeWds (memW (wdA 0 0)) < 16 := by decide +kernel
theorem wit_wdPhases : awake (memW (wdA 0 1)) = true ∧ wd? (memW (wdA 0 1)) 3 = some (wdA 0 1) ∧
    wdLines (cutRequests (wdA 0 1) (tlbDrop (fun t => t.covers 1 0) (memW (wdA 0 2)))) (wdA 0 1) = [] ∧ (memW (wdA 0 1)).bobbin.cmds = [] ∧
    wd? (memW (wdA 0 2)) 3 = some (wdA 0 2) ∧ wdLines (memW (wdA 0 2)) (wdA 0 2) = [] ∧ (memW (wdA 0 2)).flash.reads = [] ∧
    wd? (memW (wdA 1 3)) 3 = some (wdA 1 3) ∧ (entryOf (memW (wdA 0 3)) 1 0).map eMirrored = some false := by decide +kernel

def recA : Isle :=
  { state := .created, timeShared := false, weight := 1, ringQuota := 4, transRoot := 0, bar2Base := 0, heddleQuota := 16, shuttleQuota := 256,
    reefQuota := 512, hbmQuota := 64, ddrQuota := 0, flashQuota := 0, clusterMask := 0, keys := some 5 }
def isleBlk (id : Nat) : List Byte := leBytes id 2 ++ leBytes 0 2 ++ leBytes 1 2 ++ leBytes 4 2 ++ List.replicate 24 0 ++ leBytes 64 4 ++ List.replicate 28 0
def cIsle (op id : Nat) : Cmd := { mkCmd (op + id * 2 ^ 128) [] with isle := 0 }
def cIsleArg (op : Nat) (arg : List Byte) : Cmd := { mkCmd (op + 2 ^ 19 + arg.length * 2 ^ 192) arg with isle := 0 }
def withIsle (i : Nat) (r : Isle) (c : Cmd) : State := withC c { live with isles := [(i, r)] }

/-- The premises of `IsleCommandsComplete`, each with isle 9. -/
theorem wit_isleCreate : let c := cIsleArg 0x0F01 (isleBlk 9)
    let s := withC c live
    Runs s kk 0x0F01 c ∧ c.hasArg (fun n => n == 64) = true ∧ c.zero 32 63 = true ∧ isleBlockOk c.arg = true ∧ field c.arg 0 2 % 2 ^ 14 = 9 ∧
    NMap.get? s.isles 9 = none ∧ maskTaken s 9 (isleOfBlock c.arg .created 0 none).clusterMask = false ∧
    maskThreads (isleOfBlock c.arg .created 0 none).clusterMask ≤ 0 ∧
    (newTable 9 { s with isles := NMap.set s.isles 9 (isleOfBlock c.arg .created 0 none) }).isSome = true := by decide +kernel
theorem wit_isleChange : let c := cIsleArg 0x0F02 (isleBlk 9)
    let s := withIsle 9 recA c
    let u := updCmd kk (fun c => { c with aux := [1] }) (startCmd kk s)
    Runs s kk 0x0F02 c ∧ c.phase = .ready ∧ c.hasArg (fun n => n == 64) = true ∧ c.zero 32 63 = true ∧ isleBlockOk c.arg = true ∧
    s.trans.withdrawals = [] ∧ shuttleBefore s kk 9 = [] ∧ NMap.get? s.isles 9 = some recA ∧
    changeStatus u 9 recA (isleOfBlock c.arg .created 0 (some 5)) = stOk ∧ scratchPages u 9 0 = [] := by decide +kernel
theorem wit_keyLoad :
    let d := cIsleArg 0x0F42 (leBytes 9 2 ++ leBytes 0 2 ++ leBytes 7 4 ++ List.replicate 12 1 ++ List.replicate 12 0 ++ List.replicate 80 1 ++ List.replicate 16 0)
    let s : State := withC d { live with isles := [(9, recA)], trust := { live.trust with transport := some 3, lastKeySeq := some 6 } }
    Runs s kk 0x0F42 d ∧ keyLoadFieldsOk d = true ∧ field d.arg 0 2 % 2 ^ 14 = 9 ∧ NMap.get? s.isles 9 = some recA ∧
    6 < field d.arg 4 4 := by decide +kernel
theorem wit_isleActivate : let c := cIsle 0x0F05 9
    Runs (withIsle 9 recA c) kk 0x0F05 c ∧ isleOnlyOk c = true ∧ NMap.get? (withIsle 9 recA c).isles 9 = some recA ∧ recA.keys.isSome = true ∧
    NMap.get? (withIsle 9 { recA with keys := none } c).isles 9 = some { recA with keys := none } ∧
    NMap.get? (withC c live).isles 9 = none := by decide +kernel
theorem wit_isleDestroy : let c := cIsle 0x0F03 9
    let s := withIsle 9 recA c
    let b : State := withC c { live with isles := [(9, recA)], links := { live.links with binds := [(0, BitVec.ofNat 64 (2 ^ 34 + 9 * 2 ^ 20))] } }
    Runs s kk 0x0F03 c ∧ isleOnlyOk c = true ∧ c.phase ≠ .running ∧ bound s 9 = false ∧ s.bobbin.sqs = [] ∧ s.treadle.plans = [] ∧
    Runs b kk 0x0F03 c ∧ NMap.get? b.isles 9 = some recA ∧ bound b 9 = true := by decide +kernel
theorem wit_isleReset : let c : Cmd := { cIsle 0x0F06 9 with phase := .running, aux := [2] }
    let s := withIsle 9 { recA with state := .resetting } c
    Runs s kk 0x0F06 c ∧ isleOnlyOk c = true ∧ s.bobbin.sqs = [] ∧ s.bobbin.cmds.all (fun x => x.isle != 9) = true ∧
    (NMap.get? s.isles 9).isSome = true := by decide +kernel

/-- A plan of one NOP pick on ring 0 of this device, laid out by R379 to R381: cycle 1, one pick, one member (pool id 5). -/
def planA : List Byte :=
  leBytes 1 2 ++ leBytes 0 2 ++ leBytes 1 4 ++ leBytes 1 2 ++ leBytes 0 4 ++ leBytes 1 2 ++ List.replicate 48 0 ++ leBytes 5 4 ++ List.replicate 60 0 ++
    leBytes 0 4 ++ leBytes 1 2 ++ List.replicate 58 0
def lineAt (bs : List Byte) (i : Nat) : Line := BitVec.ofNat 512 (leVal ((bs.drop (64 * i)).take 64))
def cAdmit : Cmd :=
  { mkCmd (0x0500 + 0x1000 * 2 ^ 128 + 192 * 2 ^ 192 + 0xBE4708C * 2 ^ 224) [] with
    fwd := (List.range 3).map (fun i => (0x20001000 + 64 * i, lineAt planA i, false)) }
def memPl (root : Bool) : State :=
  withC cAdmit { mem with treadle := { mem.treadle with root := root }, bobbin := { mem.bobbin with sqs := [(0, { mgmtSq with isle := 1 })] } }
def gotPl (root : Bool) : Got × State := access kk 1 [⟨.load, false, 0x1000, 192⟩] (startCmd kk (memPl root))
def textA : PlanText := (parsePlan planA).getD { cycle := 0, digest := 0, members := [], picks := [], ranges := [], syncs := [] }

/-- A plan that is admitted (the device is root) and one that is refused (its beat is not locked), a start and a stop: the premises of
`PlanCommandsComplete`. -/
theorem wit_admitParse : (parsePlan planA).isSome = true ∧ planLength planA = planA.length ∧ textA.members = [5] := by decide +kernel
theorem crcRun_append (p : CrcPoly) (a b : List Byte) (v : Nat) : crcRun p v (a ++ b) = crcRun p (crcRun p v a) b := by
  simp only [crcRun, List.foldl_append]
theorem wit_admitCrc : crc crc32c planA = 0xBE4708C := by
  have e : planA = planA.take 48 ++ ((planA.drop 48).take 48 ++ ((planA.drop 96).take 48 ++ planA.drop 144)) := by decide +kernel
  have h1 : crcRun crc32c 0xFFFFFFFF (planA.take 48) = 0x83F6287 := by decide +kernel
  have h2 : crcRun crc32c 0x83F6287 ((planA.drop 48).take 48) = 0xF0A08409 := by decide +kernel
  have h3 : crcRun crc32c 0xF0A08409 ((planA.drop 96).take 48) = 0x3E13EE0D := by decide +kernel
  have h4 : crcRun crc32c 0x3E13EE0D (planA.drop 144) = 0xF41B8F73 := by decide +kernel
  have h : crcRun crc32c crc32c.init planA = 0xF41B8F73 := by
    rw [e, crcRun_append, crcRun_append, crcRun_append, show crc32c.init = 0xFFFFFFFF from rfl, h1, h2, h3, h4]
  rw [crc, h]; rfl
theorem wit_admit : Runs (memPl true) kk 0x0500 cAdmit ∧ admitFieldsOk cAdmit = true ∧ admitTurn (memPl true) kk = true ∧
    (memPl true).treadle.plans = [] ∧ (gotPl true).1 = .ok ∧ cAdmit.fld 28 0 32 = 0xBE4708C ∧
    (cmd? (gotPl true).2 kk).any (fun d => d.desc == cAdmit.desc && d.isle == 1 && vstatus (gotPl true).2 d 0x1000 192 == stOk &&
      vread (gotPl true).2 d 0x1000 192 == planA) = true ∧
    (planChecks (gotPl true).2 textA 5 0 1).yes = true := by decide +kernel
theorem wit_admitNo : Runs (memPl false) kk 0x0500 cAdmit ∧ (planChecks (gotPl false).2 textA 5 0 1).yes = false := by decide +kernel
def planR (st : PlanState) : Plan :=
  { text := textA, state := st, isle := 1, me := 0, order := 0, startBeat := 0, cmd := none, waiting := [], refusals := [], stopping := 0
    pausing := none, owes := [] }
def memPR (st : PlanState) (c : Cmd) : State := withC c { mem with treadle := { mem.treadle with root := true, plans := [(5, planR st)] } }
theorem wit_start : let c := mkCmd (0x0501 + 5 * 2 ^ 128 + 2048 * 2 ^ 192) []
    let s := memPR .admitted c
    let d := mkCmd (0x0501 + 5 * 2 ^ 128 + 1 * 2 ^ 192) []
    Runs s kk 0x0501 c ∧ descArgBlock c.desc = false ∧ c.zero 20 23 = true ∧ c.rz 24 48 16 = true ∧ c.zero 32 63 = true ∧
    planNamed s c = .inr 5 ∧ plan? s 5 = some (planR .admitted) ∧ startOk s (planR .admitted) 2048 = true ∧ (planR .admitted).others = [] ∧
    Runs (memPR .paused d) kk 0x0501 d ∧ planNamed (memPR .paused d) d = .inr 5 ∧ startOk (memPR .paused d) (planR .paused) 1 = false := by decide +kernel
theorem wit_stop : let c := mkCmd (0x0502 + 5 * 2 ^ 128 + 2 ^ 160) []
    let s := memPR .started c
    Runs s kk 0x0502 c ∧ descArgBlock c.desc = false ∧ c.rz 20 1 7 = true ∧ c.zero 21 63 = true ∧ planNamed s c = .inr 5 ∧
    plan? s 5 = some (planR .started) ∧ (planR .started).others = [] := by decide +kernel

/-- Tentative, preparing, admitted and unknown plans of this device: the premises of `PlanMessagesAdmitArmAndStopMembers`. -/
def planP (st : PlanState) (w : List Nat) : Plan := { planR st with text := { textA with members := [5, 6] }, cmd := some kk, waiting := w }
def memPP (p : Plan) (root : Bool) : State :=
  withC { mkCmd 0x0500 [] with phase := .running } { mem with
    treadle := { mem.treadle with root := root, plans := [(5, p)] }, bobbin := { mem.bobbin with sqs := [(0, { mgmtSq with isle := 1 })] } }
theorem wit_planPrepare : let s := { memPP (planR .admitted) true with treadle := { mem.treadle with root := true } }
    let t := { memPP (planR .admitted) true with treadle := { mem.treadle with root := false } }
    awake s = true ∧ plan? s 6 = none ∧ planChecks s textA 5 (textA.members.idxOf s.pool.id) 1 = planYes ∧
    (planChecks t textA 5 0 1).yes = false ∧ plan? s (6 + 2 ^ 32) = none := by decide +kernel
theorem wit_answer : let p := planP .preparing [1]
    awake (memPP p true) = true ∧ plan? (memPP p true) 5 = some p ∧ p.state = .preparing ∧ p.cmd = some kk ∧ p.refusals = [] ∧
    p.waiting = [p.memberOf 6] := by decide +kernel
theorem wit_tentative : plan? (memPP (planR .tentative) true) 5 = some (planR .tentative) := by decide +kernel
theorem wit_armed : let p := planP .admitted [1]
    (memPP p true).treadle.plans = [(5, p)] ∧ 6 ∈ p.text.members ∧ p.pausing = none ∧ plan? (memPP p true) 5 = some p ∧ p.stopping = 0 ∧
    (memPP p true).treadle.root = true ∧ (cmd? (memPP p true) kk).map (·.opcode) = some 0x0500 ∧ p.waiting = [p.memberOf 6] := by decide +kernel

/-- Port 0 up as the primary beat input of a member, with or without lock, and a pick one beat late: the premises of
`BeatMarkersLockAndLoseSync`. -/
def memB (locked : Bool) (since : Nat) : State :=
  { mem with
    links := { mem.links with ports := mem.links.ports.map (fun p => if p.1 = 0 then (0, { p.2 with state := 2, enable := true, los := false }) else p) }
    treadle := { mem.treadle with root := false, primary := 0, alternate := 1, onAlternate := false, locked := locked, unsynced := false, run := 63,
                                  sinceMarker := since, beat := 12 } }
theorem wit_beat : awake (memB false 0) = true ∧ portUp (memB false 0) 0 = true ∧ (memB false 0).treadle.root = false ∧
    (memB false 0).treadle.run = 63 ∧ (memB true 0).treadle.locked = true ∧ (memB false 16).treadle.alternate < 26 ∧
    16 ≤ (memB false 16).treadle.sinceMarker ∧ (memB false 16).treadle.plans = [] := by decide +kernel
theorem wit_overrun : let c : Cmd := { mkCmd 0x0001 [] with pick := some (5, 0), due := 11 }
    cmd? (withC c (memB true 0)) kk = some c ∧ beatsLate (withC c (memB true 0)) c = 1 ∧ c.overrun = false ∧
    beatsLate (withC c (memB true 0)) { c with overrun := true } = 1 := by decide +kernel

/-- The premise of `EachBoundaryAdvancesTheBeatByOne`. -/
theorem wit_boundary : awake (memB true 0) = true := by decide +kernel

/-- Both cases of `UnmapNeedsMappedPages`: page 0 mapped, and a page beyond the last block unmapped. -/
theorem wit_unmapStated : let c := mkCmd (0x0403 + 0x10000 * 2 ^ 256) []
    let d := mkCmd (0x0403 + 0x200000000 * 2 ^ 192 + 0x10000 * 2 ^ 256) []
    Runs (withC c mem) kk 0x0403 c ∧ c.phase ≠ .running ∧ unmapFieldsOk c = true ∧ c.fld 16 0 1 = 0 ∧
    (pagesOf (c.va 24) (c.fld 32 0 64)).all (fun p => mapped mem 1 p && !withdrawing mem 1 p) = true ∧
    Runs (withC d mem) kk 0x0403 d ∧ unmapFieldsOk d = true ∧ d.fld 16 0 1 = 0 ∧ pagesOf (d.va 24) (d.fld 32 0 64) = [0x20000] ∧
    mapped (withC d mem) 1 0x20000 = false := by decide +kernel

/-- A VF binding with and without a ring of the VF, a Strait binding, an eviction, a route, a unit reset, an empty map of the next epoch and of
another, and a retrain of an enabled port that is down: the premises of `ManagementCommandsOfBindingsMapsAndUnits`. -/
theorem wit_bindVf : let c := { mkCmd (0x0F04 + 3 * 2 ^ 144 + (2 ^ 15 + 1) * 2 ^ 192) [] with isle := 0 }
    let s := withC c mem
    let t : State := withC c { mem with bobbin := { mem.bobbin with sqs := [(0, { mgmtSq with fn := 3 })] } }
    Runs s kk 0x0F04 c ∧ bindFieldsOk c = true ∧ c.phase ≠ .running ∧ c.fld 16 0 1 = 0 ∧ vfOwnsRing s (c.fld 18 0 11) = false ∧
    Runs t kk 0x0F04 c ∧ vfOwnsRing t (c.fld 18 0 11) = true := by decide +kernel
theorem wit_bindStrait : let c := mkCmd (0x0F04 + 2 ^ 128 + 2 * 2 ^ 136 + 3 * 2 ^ 144 + (6 + 2 ^ 20 + 2 ^ 34) * 2 ^ 192) []
    Runs (withC c mem) kk 0x0F04 c ∧ bindFieldsOk c = true ∧ c.fld 16 0 1 = 1 ∧ agentAt (withC c mem) 2 3 = none ∧
    bindCaching (c.fld 24 0 64) = false := by decide +kernel
def agA : Agent :=
  { port := 2, entry := 3, src := 6, stream := 0, isle := 1, window := none, lost := false, reclaimed := 0, poisonedLost := 0, cmd := none }
def memAg : State :=
  { mem with
    heddle := { mem.heddle with agents := [(0, agA)] }
    links := { mem.links with binds := [(2 * 2048 + 3, BitVec.ofNat 64 (6 + 2 ^ 20 + 2 ^ 34 + 2 ^ 35))] } }
theorem wit_evict : let c := mkCmd (0x0F0A + 2 * 2 ^ 128 + 3 * 2 ^ 144) []
    Runs (withC c memAg) kk 0x0F0A c ∧ descArgBlock c.desc = false ∧ c.rz 16 5 3 = true ∧ c.zero 17 17 = true ∧ c.rz 18 11 5 = true ∧
    c.zero 20 63 = true ∧ c.fld 16 0 5 = 2 ∧ agentAt (withC c memAg) 2 3 = some 0 ∧
    bindCaching (NMap.getD memAg.links.binds (2 * 2048 + 3) 0).toNat = true := by decide +kernel
theorem wit_routeUnit : let c := mkCmd (0x0F31 + 6 * 2 ^ 128 + 5 * 2 ^ 192) []
    let d := mkCmd (0x0F07 + 4 * 2 ^ 128 + 7 * 2 ^ 136) []
    Runs (withC c mem) kk 0x0F31 c ∧ routeFieldsOk c = true ∧ Runs (withC d mem) kk 0x0F07 d ∧ descArgBlock d.desc = false ∧
    d.zero 18 63 = true ∧ unitOk (d.fld 16 0 8) (d.fld 17 0 8) = true := by decide +kernel
def mapBlk (epoch : Nat) : List Byte := leBytes 1 2 ++ leBytes epoch 1 ++ List.replicate 5 0 ++ leBytes 64 4 ++ List.replicate 52 0
def cInstall (epoch crc : Nat) : Cmd :=
  { mkCmd (0x0F08 + 0x1000 * 2 ^ 128 + 64 * 2 ^ 192 + crc * 2 ^ 224) [] with isle := 0, fwd := [(0x20001000, lineAt (mapBlk epoch) 0, false)] }
def memI (c : Cmd) : State := withC c { mem with isles := mem.isles.map (fun r => (0, r.2)) }
def gotI (epoch crc : Nat) : Got × State := access kk 0 [⟨.load, false, 0x1000, 64⟩] (startCmd kk (memI (cInstall epoch crc)))
theorem wit_install : let c := cInstall 1 0x4D8AEF34
    Runs (memI c) kk 0x0F08 c ∧ installFieldsOk c = true ∧ (memI c).emb.migration = none ∧ (gotI 1 0x4D8AEF34).1 = .ok ∧
    (cmd? (gotI 1 0x4D8AEF34).2 kk).any (fun d => d.desc == c.desc && vstatus (gotI 1 0x4D8AEF34).2 { d with isle := 0 } 0x1000 64 == stOk &&
      vread (gotI 1 0x4D8AEF34).2 { d with isle := 0 } 0x1000 64 == mapBlk 1) = true ∧
    crc crc32c (mapBlk 1) = c.fld 28 0 32 ∧ (parseMap (mapBlk 1)).map (·.epoch) = some 1 ∧ (gotI 1 0).2.maps.cur.epoch = 0 ∧
    (parseMap (mapBlk 1)).any (mapKeeps (gotI 1 0).2.maps.cur) = true := by decide +kernel
theorem wit_installStale : let c := cInstall 5 0x7E4AC1AC
    Runs (memI c) kk 0x0F08 c ∧ installFieldsOk c = true ∧ (gotI 5 0x7E4AC1AC).1 = .ok ∧ crc crc32c (mapBlk 5) = c.fld 28 0 32 ∧
    (parseMap (mapBlk 5)).map (·.epoch) = some 5 ∧ c.fld 32 0 1 = 0 := by decide +kernel
theorem wit_retrain : let c := mkCmd (0x0F09 + 2 * 2 ^ 128) []
    let s := withC c { mem with links := { mem.links with ports := mem.links.ports.map (fun p => (p.1, { p.2 with enable := true, state := 0 })) } }
    Runs s kk 0x0F09 c ∧ descArgBlock c.desc = false ∧ c.zero 17 63 = true ∧ c.fld 16 0 8 = 2 ∧
    (port? s 2).any (fun p => p.enable && p.cmd == none && p.state == 0) = true := by decide +kernel

def certA : List Byte := leBytes 1 1 ++ List.replicate 1 0 ++ leBytes 6 2 ++ List.replicate 60 0 ++ leBytes 1 1 ++ List.replicate 191 0

/-- The premises of `TrustCommandsComplete`. -/
theorem wit_attest : let c := mkCmd (0x0F40 + 0x1000 * 2 ^ 384) []
    Runs (memI c) kk 0x0F40 c ∧ attestFieldsOk c = true ∧ (access kk 0 [⟨.load, true, c.va 48, 256⟩] (startCmd kk (memI c))).1 = .ok := by decide +kernel
theorem wit_agree : let c := mkCmd (0x0F41 + 2 ^ 19 + 128 * 2 ^ 192) (List.replicate 64 7 ++ leBytes 0x1000 8 ++ List.replicate 56 0)
    Runs (memI c) kk 0x0F41 c ∧ agreeFieldsOk c = true ∧ (access kk 0 [⟨.load, true, agreeVa c, 128⟩] (startCmd kk (memI c))).1 = .ok := by decide +kernel
theorem wit_cert : let c := mkCmd (0x0F43 + 2 ^ 19 + 256 * 2 ^ 192) certA
    Runs (memI c) kk 0x0F43 c ∧ certFieldsOk c = true ∧ (parseCert c.arg).isSome = true ∧ portUp (memB true 0) 0 = true ∧
    (memB true 0).harbour.boot = 3 ∧ (memB true 0).pool.joined = true := by decide +kernel

/-- A host ring of depth 64 with a completion ring of its own: sizes 6, in-flight limit 4, host rings and doorbells. -/
def setupA : Nat :=
  7 * 2 ^ 16 + 6 * 2 ^ 24 + 6 * 2 ^ 32 + 4 * 2 ^ 48 + 8 * 2 ^ 96 + 0x1000 * 2 ^ 128 + 0x2000 * 2 ^ 192 + 0x9000 * 2 ^ 256 + 0x9000 * 2 ^ 320
def fnA (r : Nat) : Fn := { Fn.reset 1 with ringRec := r }
def memF (c : Cmd) (r : Nat) : State :=
  let s := onMgmt c mem
  { s with bobbin := { s.bobbin with fns := [(0, fnA r)] }, isles := mem.isles.map (fun x => (0, x.2)) }
def cRing (r : Nat) : Cmd := { mkCmd (0x0F10 + 2 ^ 19 + 64 * 2 ^ 192) (leBytes r 64) with isle := 0 }
/-- A creation by command and by registers, and one refused (no ring sizes); destructions of another ring, and of a ring that is not there: the
premises of `RingsAreCreatedAndDestroyed`. -/
theorem wit_ringCreate : let c := cRing setupA
    let s := memF c setupA
    Runs s kk 0x0F10 c ∧ c.hasArg (fun n => n == 64) = true ∧ c.zero 32 63 = true ∧ leVal c.arg = setupA ∧ setupStatus s 0 0 true false setupA = stOk ∧
    (devReady 0 (setupPieces setupA) (startCmd kk s)).1 = .ok ∧ setupActs s 0 = true ∧ fnDestroying s 0 = false ∧
    NMap.get? s.bobbin.fns 0 = some (fnA setupA) ∧ fnIsle s 0 = some 0 ∧ setupStatus s 0 0 true true setupA = stOk ∧
    (devReady 0 (setupPieces setupA) s).1 = .ok := by decide +kernel
theorem wit_ringRefused : let c := cRing 0
    let s := memF c 0
    Runs s kk 0x0F10 c ∧ c.hasArg (fun n => n == 64) = true ∧ setupStatus s 0 0 true false 0 = stBadDescriptor ∧
    setupStatus s 0 0 true true 0 = stBadDescriptor := by decide +kernel
theorem wit_ringDestroy : let c := { mkCmd (0x0F11 + 1 * 2 ^ 128) [] with isle := 0 }
    let s := memF c 0
    let t := { s with bobbin := { s.bobbin with sqs := s.bobbin.sqs ++ [(1, mgmtSq)] } }
    Runs t kk 0x0F11 c ∧ c.phase ≠ .running ∧ descArgBlock c.desc = false ∧ c.rz 16 12 4 = true ∧ c.zero 18 63 = true ∧
    destroyRefusal t 1 (some 0) none = none ∧ Runs s kk 0x0F11 c ∧ destroyRefusal s 1 (some 0) none = some stBadDescriptor ∧
    setupActs t 0 = true ∧ (fnA 0).busy = false ∧ destroyRefusal t 1 none (some 0) = none ∧ destroyRefusal s 1 none (some 0) = some stBadDescriptor := by
  decide

/-- A head doorbell with index 2 and alive 0 (its check by R332) on a ring with three records written and none consumed, and with one record
written: both cases of `CqDoorbellTakesItsIndex`. -/
def cqA (written : BitVec 32) : Cq :=
  { isle := 0, fn := 0, host := true, log2 := 6, base := 0x2000, dbHost := true, dbLine := 0x9000, dbSlot := 1, alive := 0xFFFF, written := written
    consumed := 0, reserved := 0, msixEn := false, msixVector := 0, modCount := 0, modTime := 0, counted := 0, ignored := 0, broken := false }
def memCq (written : BitVec 32) : State :=
  { live with bobbin := { live.bobbin with cqs := [(0, cqA written)], polls := [(0, 0x9000)] } }
theorem wit_cqDoorbell : let b := leBytes 2 4 ++ leBytes 0 2 ++ leBytes (crc crc16dif (leBytes 2 4 ++ leBytes 0 2)) 2
    awake (memCq 3) = true ∧ (memCq 3).bobbin.sqs = [] ∧ doorbellOk b (cqA 3).alive = true ∧
    (BitVec.ofNat 32 (field b 0 4) - 0).toNat ≤ ((3 : BitVec 32) - 0).toNat ∧
    ¬ (BitVec.ofNat 32 (field b 0 4) - 0).toNat ≤ ((1 : BitVec 32) - 0).toNat := by decide +kernel

/-- The premises of `DoorbellsAreTakenAndDescriptorsFetched`: a head doorbell's line due, in flight and with 64 polls out; a clean watched line that
woke; a host ring with one descriptor to fetch; a NOP that arrives good and with a bad check. -/
def fnB : Fn := { Fn.reset 1 with bme := true }
def memDb (polls : List (Nat × BitVec 64)) : State :=
  { mem with
    bobbin := { mem.bobbin with cqs := [(0, cqA 0)], sqs := [(0, { mgmtSq with dbHost := true, dbLine := 0x9000, accepted := 2 })], fns := [(0, fnB)]
                                polls := polls }
    isles := mem.isles.map (fun x => (0, x.2)), heddle := { mem.heddle with wakeups := [0x20000000] } }
theorem wit_poll : let s := memDb [(0, 0x9000)]
    awake s = true ∧ s.bobbin.sqs.any (fun q => sqOnLine 0 0x9000 q.2) = true ∧ s.bobbin.cqs.any (fun q => cqOnLine 0 0x9000 q.2) = true ∧
    (NMap.get? s.bobbin.fns 0).any (·.bme) = true ∧ s.bobbin.polls.length < 64 ∧ s.bobbin.polls.contains (0, 0x9000) = true ∧
    s.bobbin.pollQueue = [] ∧ 64 ≤ (memDb (List.replicate 64 (0, 0x9000))).bobbin.polls.length ∧
    s.heddle.wakeups.contains 0x20000000 = true ∧ lineStatus s 0x20000000 = stOk ∧ cacheDirty s 0x20000000 = none := by decide +kernel
theorem wit_fetch : let s := memDb []
    nextRing s = some 0 ∧ (NMap.get? s.bobbin.sqs 0).any (·.host) = true ∧
    (NMap.get? (fetchRun 0 8 { s with bobbin := { s.bobbin with lastServed := 0 } }).bobbin.sqs 0).map (·.fetched) = some 2 := by decide +kernel
def nopDesc : List Byte := leBytes 1 2 ++ List.replicate 10 0 ++ leBytes 0x77C60465 4 ++ List.replicate 48 0
def cFetch (p : Phase) : Cmd := freshCmd kk 0 0 p
def memA0 (p : Phase) : State := let s := memDb []; { s with bobbin := { s.bobbin with cmds := [cFetch p] } }
theorem wit_arrival : let s := memA0 .fetching
    cmd? s kk = some (cFetch .fetching) ∧ (sqOf s kk).any (·.host) = true ∧ nopDesc.length = 64 ∧
    crc crc32c (splice nopDesc 12 [0, 0, 0, 0]) = field nopDesc 12 4 ∧ field nopDesc 8 2 = kk.seq.toNat % 65536 ∧ bits (leVal nopDesc) 20 12 = 0 ∧
    bits (leVal nopDesc) 80 16 = 0 ∧ assignedOps.contains (bits (leVal nopDesc) 0 16) = true ∧ isleActive s 0 = true ∧
    descScheduled (leVal nopDesc) = pickRing s 0 ∧ argRefOk mgmtSq (leVal nopDesc) = true ∧ descArgBlock (leVal nopDesc) = false ∧
    cmd? (memA0 .rereading) kk = some (cFetch .rereading) := by decide +kernel
theorem wit_arrivalBad : let bs := List.replicate 64 (1 : Byte)
    crc crc32c (splice bs 12 [0, 0, 0, 0]) ≠ field bs 12 4 := by decide +kernel
theorem wit_cplTimeout : let c : Cmd := { cFetch .fetching with desc := 2 ^ 208 }
    cmd? (withC c (memDb [])) kk = some c ∧ refHost c.desc = true ∧ c.desc ≠ 0 := by decide +kernel

/-- An ended NOP whose record is due, a stopped ring, a moderated ring, a vector, and bus mastering: the premises of
`RecordsAreWrittenAndVectorsSent`. -/
theorem wit_recordDue : let c := cFetch .ended
    let s := withC c (memDb [])
    awake s = true ∧ cmd? s kk = some c ∧ (sqOf s kk).map (·.cq) = some 0 ∧ recordDue s c = true ∧ NMap.get? s.bobbin.cqs 0 = some (cqA 0) ∧
    (cqA 0).broken = false ∧ (cqA 0).host = true ∧ s.bobbin.vfEnable = false ∧ (fnB.msix) = [] ∧ NMap.get? s.bobbin.fns 0 = some fnB ∧
    0 < fnB.vectors ∧ ({ s with bobbin := { s.bobbin with vfEnable := true } } : State).bobbin.vfEnable = true := by decide +kernel
theorem wit_ringError : let q := { mgmtSq with err := some stBadDescriptor, errRecord := true }
    let s := { mem with bobbin := { mem.bobbin with sqs := [(0, q)], cqs := [(0, { cqA 0 with msixEn := true, modTime := 5, counted := 1 })] } }
    NMap.get? s.bobbin.sqs 0 = some q ∧ ringCmds s 0 = [] ∧ (NMap.get? s.bobbin.cqs 0).any (fun c => c.free && c.host && c.msixEn && c.modTime == 5 &&
      c.counted == 1) = true := by decide +kernel

/-- The premises of `SetupWritesTakeEffectBeforeTheSeal`: a device that may be sealed, an unsealed one with and without its port enabled, one with
two trained flash channels, one that formats, and switches under way. -/
def memSeal : State :=
  { live with
    bobbin := { live.bobbin with sqs := [(0, mgmtSq)] }
    harbour := { live.harbour with blob := some (leBytes 1 2 ++ leBytes 0 1 ++ leBytes live.treadle.period 1 ++ leBytes 6 2 ++ leBytes live.trust.keyCount 1 ++
      leBytes live.trust.threshold 1 ++ leBytes live.links.reqTimeout 2 ++ List.replicate 4086 0) } }
theorem wit_sealWrite : awake memSeal = true ∧ (1 : BitVec 32).getLsbD 0 = true ∧ memSeal.harbour.sealed = false ∧ sealCause memSeal = 0 := by decide +kernel
theorem wit_setupWrites : live.harbour.sealed = false ∧ live.links.binds = [] ∧ vfOwnsRing live 3 = false ∧ vfBindOk (2 ^ 15 + 1) = true ∧
    live.bobbin.vfEnable = false ∧ msixSum live - msixCount live 3 + 4 ≤ 2048 ∧ (port? live 0).any (·.enable) = true ∧
    live.clocks.refSel = false := by decide +kernel
theorem wit_setupWrites2 : let s := { live with
      links := { live.links with ports := live.links.ports.map (fun p => (p.1, { p.2 with enable := false })) }
      flash := { live.flash with chans := live.flash.chans.map (fun c => (c.1, { c.2 with present := true })), formatting := true }
      clocks := { live.clocks with domReset := 0, domPending := 1, switchPending := true, oscAlive := true, rootAlive := true, refIsLane := false, laneAlive := 1,
                                   timingPort := 0 } }
    awake s = true ∧ (port? s 0).any (fun p => !p.enable) = true ∧ mayFormat s = true ∧ s.flash.formatting = true ∧ s.clocks.domPending.getLsbD 0 = true ∧
    refAlive s = true ∧ otherAlive s = true ∧ ((List.range 100).any (fun d => domainUnit d == none && !s.clocks.domReset.getLsbD d && !s.clocks.domSel.getLsbD d)) = true := by decide +kernel

/-- The premises of `SealedDeviceKeepsItsSetup`. -/
theorem wit_sealed : awake ({ live with harbour := { live.harbour with sealed := true } } : State) = true := by decide +kernel

/-- The premises of `SealNeedsAManagementRing`. -/
theorem wit_sealRing : awake live = true ∧ live.harbour.sealed = false ∧ (1 : BitVec 32).getLsbD 0 = true ∧ live.bobbin.sqs = [] ∧
    live.harbour.sealRefusals < 255 := by decide +kernel

/-- The premises of `MsixAllocationIsFixedWhileVfsAreEnabled`. -/
theorem wit_vfEnabled : awake ({ live with bobbin := { live.bobbin with vfEnable := true } } : State) = true ∧ 1 ≤ 255 := by decide +kernel

/-- The premises of `RegisterAccessesReadLatchAndWrite`, and accesses it names: a bad size, a misaligned offset. -/
theorem wit_registers : awake live = true ∧ accessOk 0x6 4 = false ∧ accessOk 0x4 8 = false ∧ accessOk 0x8 8 = true := by decide +kernel

/-- The premises of `ResetsPowerAndBootTakeTheirSteps`, each at a small state. -/
theorem wit_powerUp : State.reset.pool.pwrgd = false ∧ live.pool.pwrgd = true ∧ live.harbour.inEntry = false ∧ live.pool.resetN = true := by decide +kernel
def memEntry (i r : Bool) : State :=
  { live with pool := { live.pool with resetN := false }, harbour := { live.harbour with inEntry := i, entryRise := r } }
theorem wit_entry : (memEntry false false).pool.pwrgd = true ∧ (memEntry false false).pool.resetN = false ∧
    (memEntry true true).harbour.entryRise = true ∧ (memEntry true false).harbour.inEntry = true := by decide +kernel
def memBoot (b : Nat) : State :=
  { live with
    harbour := { live.harbour with boot := b, verified := true, fwLen := 64, jCause := 0 }
    bobbin := { live.bobbin with fns := [(0, fnB)] }, clocks := { live.clocks with stepDone := 1 } }
theorem wit_boot : awake (memBoot 0) = true ∧ stepDue (memBoot 0) 2 = true ∧ (memBoot 0).clocks.portsGo = false ∧ (memBoot 0).harbour.sealed = false ∧
    (memBoot 0).harbour.fwAddr.toNat % 64 = 0 ∧ (memBoot 0).harbour.fwLen.toNat % 64 = 0 ∧ (NMap.get? (memBoot 0).bobbin.fns 0).any (·.bme) = true ∧
    (memBoot 1).harbour.boot = 1 ∧ (List.replicate 64 (0 : Byte)).length = (memBoot 1).harbour.fwLen.toNat ∧
    imageFault (List.replicate 64 0) ≠ 0 ∧ (memBoot 2).harbour.verified = true ∧ (memBoot 2).harbour.boot = 2 ∧ 1 ≤ (memBoot 2).clocks.stepDone ∧
    (memBoot 0).harbour.cfgAddr.toNat % 64 = 0 ∧ (memBoot 0).clocks.stepDone < 10 := by decide +kernel

/-- The premises of `SmbusCommandsAnswerAndCommit`: a device that holds the token, one with both values recorded, and a committed one. -/
def memSmb (ei done : Bool) (p a : Option Nat) : State :=
  { live with clocks := { live.clocks with stepDone := 1 }
              pool := { live.pool with enumIn := ei, enumOut := some done, smbPool := p, smbAddr := a, committed := done, id := if done then 5 else 0xFFF } }
theorem wit_smbus : awake (memSmb true false none none) = true ∧ smbAnswers (memSmb true false none none) 0x2D = false ∧
    smbAnswers (memSmb true false none none) 0x2C = true ∧ smbAnswers (memSmb false false none none) 0x2C = false ∧
    smbAnswers (memSmb false true (some 5) (some 0x30)) 0x30 = true ∧ smbAnswers (memSmb false true (some 5) (some 0x30)) 0x2C = false ∧
    smbAnswers (memSmb true false (some 5) (some 0x30)) 0x2C = true ∧ (memSmb true false none none).pool.pwrgd = true := by decide +kernel
/-- The token handed on: after COMMIT of pool id 5 the device answers at 0x30 and drives ENUM_OUT high. -/
theorem test_commit : (next? (exec (.commit ⟨0x2C, true⟩) (memSmb true false (some 5) (some 0x30)))).any
    (fun t => t.pool.id == 5 && t.pool.enumOut == some true && smbAnswers t 0x30 && !smbAnswers t 0x2C) = true := by decide +kernel
/-- The reserved address 0x2C is not admitted as an own address (R813), and 0x77 is. -/
theorem test_setAddr : (next? (exec (.setAddr ⟨0x2C, true⟩ 0x2C) (memSmb true false none none))).any
      (fun t => t.pool.smbAddr.isNone && t.out.getLast? == some (.smbus none)) = true ∧
    (next? (exec (.setAddr ⟨0x2C, true⟩ 0x77) (memSmb true false none none))).any (fun t => t.pool.smbAddr == some 0x77) = true := by decide +kernel

/-- The premises of `ClockAndThermalEventsComplete`, with a plan started so that 735 mV bounds the setpoint. -/
def memClk (lane sel osc : Bool) : State :=
  { live with
    clocks := { live.clocks with refIsLane := lane, refSel := sel, oscAlive := osc, refclkAlive := true, laneAlive := 1, timingPort := 0 }
    harbour := { live.harbour with boot := 3 }
    treadle := { live.treadle with plans := [(1, planR .started)] }
    links := { live.links with ports := live.links.ports.map (fun p => (p.1, { p.2 with enable := true, state := 2 })) } }
theorem wit_clocks : awake (memClk false true true) = true ∧ (memClk false true true).clocks.switchPending = false ∧ refAlive (memClk false true true) = true ∧
    (memClk false true true).clocks.trimSrc = false ∧ portUp (memClk false true true) 0 = true ∧ (memClk true true true).clocks.refIsLane = true ∧
    (memClk false true false).clocks.oscAlive = false ∧ (memClk false true true).clocks.floor ≤ 735 ∧ 735 ≤ (memClk false true true).clocks.ceiling ∧
    735 % 5 = (memClk false true true).clocks.vloom % 5 ∧ (memClk false true true).pool.pwrgd = true ∧ (memClk false true true).pool.tripped = false := by decide +kernel
/-- R791: 105.0 °C is no warning and 105.1 °C is one; 115.0 °C throttles. -/
theorem test_warning : (next? (exec (.thermalSample ⟨1050, 1⟩ ⟨0, 0⟩) live)).any (fun t => !t.thermal.warn) = true ∧
    (next? (exec (.thermalSample ⟨1051, 1⟩ ⟨0, 0⟩) live)).any (fun t => t.thermal.warn && !t.thermal.throttle) = true ∧
    (next? (exec (.thermalSample ⟨1150, 1⟩ ⟨0, 0⟩) live)).any (fun t => t.thermal.throttle) = true := by decide +kernel

/-- The premises of `PortsTrainUpFallBackAndFail`: port 3 in each state the clauses name. -/
def memPort (f : Port → Port) : State :=
  { live with links := { live.links with ports := live.links.ports.map (fun p => (p.1, f { p.2 with enable := true, started := true, txIdle := false })) } }
theorem wit_ports : (port? (memPort id) 3).any (fun p => p.enable && p.started && !p.txIdle && p.state == 0 && p.allowX4 && !p.fallback && !p.warm && p.failures < 2) = true ∧
    (port? (memPort fun p => { p with state := 1, warm := true, failures := 2 }) 3).any (fun p => p.state == 1 && p.warm && !p.fallback && p.failures == 2 && p.retired != 0xFF) = true ∧
    (port? (memPort fun p => { p with state := 1, fallback := true, retiring := some (0, some 6) }) 3).any (fun p => p.state == 1 && p.fallback && p.retiring == some (0, some 6)) = true ∧
    (port? (memPort fun p => { p with state := 2, allowX4 := false, retiring := some (1, some 2) }) 3).any
      (fun p => p.state == 2 && !p.allowX4 && !p.los && p.retiring == some (1, some 2)) = true ∧
    portUp (memPort fun p => { p with state := 2 }) 3 = true ∧ awake (memPort id) = true := by decide +kernel
/-- R636, R632: RETIRE_REQ for half 0 retires L4–L7 and trains the port again at ×4, on which it comes up. -/
theorem test_retire : ((next? (exec (.retireReq 3 0) (memPort fun p => { p with state := 2 }))).bind fun t => next? (exec (.portUp 3 none false 0) t)).any
    (fun t => (port? t 3).any (fun p => p.state == 3 && p.retired == 0xF0)) = true := by decide +kernel

/-- The premises of `FlitsAreTakenInOrderAndReplayed`. -/
def memFlit (f : Option Nat) (a : Bool) : State := memPort fun p => { p with state := 2, failing := f, allowX4 := a }
theorem wit_flit : portUp (memFlit none true) 3 = true ∧ (port? (memFlit none true) 3).any (fun p => p.retiring.isNone && p.failing.isNone && p.rxSeq == 0x3FF) = true ∧
    (port? (memFlit (some 0) true) 3).any (fun p => p.failing == some 0 && p.state == 2 && p.allowX4) = true ∧
    (port? (memFlit (some 0) false) 3).any (fun p => !p.allowX4) = true := by decide +kernel
def okFlit : Flit := { ftype := 1, seq := 0, ackSeq := 0x3FF, nak := false, creditClass := 0, creditCount := 0, crcOk := true, badLane := 0 }
/-- The example of R639: the second failure of a flit with most errors on L6 asks to retire half 0. -/
theorem test_lasting : (next? (exec (.flitReceive 3 { okFlit with crcOk := false, badLane := 6 }) (memFlit (some 0) true))).any
    (fun t => t.out.getLast? == some (.control 3 3 0 0)) = true := by decide +kernel
theorem test_flit : (next? (exec (.flitReceive 3 okFlit) (memFlit none true))).any (fun t => (port? t 3).any (fun p => p.rxSeq == 0)) = true := by decide +kernel

/-- Device 5: port 2 is up to member 6, whose stream 0 is bound to isle 1; window 1 covers the isle's page 0, mapped at 0x20000000. -/
def memQ : State :=
  { memAg with
    store := { memAg.store with cells := [(0x10000, 3), (0x10002, 2), (0x20000, 3), (0x20002, 3), (0x30000, 0x39), (0x30001, 1), (0x30003, 0x20)]
                                pages := [(0x2000, { isle := 1, vpage := some 0, region := 0, counter := 0, idle := 0, chan := 0, move := none })] }
    links := { memAg.links with ports := NMap.upd memAg.links.ports 2 (fun p => { p with state := 2 }) }
    trans := { memAg.trans with windows := [(1, { isle := 1, rights := 15, pages := 1, base := 0, leaving := false })]
                                tlb := [{ isle := 1, vpage := 0, gran := 16, entry := 0x20000139, pinned := false }] }
    bobbin := { memAg.bobbin with fns := [(3, fnB)] } }
def hdrQ (off : Nat) : Hdr :=
  { port := 2, src := 6, stream := 0, tag := 9, sync := 0, epoch := 0, alive := 0, addr := BitVec.ofNat 64 (5 * 2 ^ 52 + 2 ^ 40 + off), rsv := false }
def okLine (off : Nat) : WireLine := { data := 7, check := wireCheck (BitVec.ofNat 64 (2 ^ 40 * (5 * 2 ^ 12 + 1) + off)) 7 }
def arrival (s : State) (r : Req) : State := takeId (receive r.hdr (heldPool s r.pool) s).2
theorem arrives_of {s : State} {r : Req} {isle : Nat} (caching : Bool)
    (h : awake s = true ∧ r.hdr.port < 24 ∧ (receive r.hdr (heldPool s r.pool) s).1 = true ∧
      portClosed (arrival s r) r.hdr.port r.hdr.src = false ∧ isPartner (arrival s r) r.pool = false ∧
      (bindOf (arrival s r) (heldPool (arrival s r) r.pool) r.hdr.port r.hdr.src r.hdr.stream = some (isle, caching) ∧ (r.kind.caching = true → caching = true)) ∧
      r.malformed = false ∧ r.mismatch = false ∧ isMine (arrival s r) r.pool = true ∧ epochVerdict (arrival s r) r.hdr.epoch = 0 ∧
      isleActive (arrival s r) isle = true) : Arrives s r isle (arrival s r) :=
  ⟨h.1, h.2.1, ⟨_, Prod.ext h.2.2.1 rfl, rfl⟩, h.2.2.2.1, h.2.2.2.2.1, ⟨caching, h.2.2.2.2.2.1⟩, h.2.2.2.2.2.2⟩
def reached (v : State) (r : Req) (l0 l : List (Nat × Nat × Nat)) : State :=
  l.foldl (fun s p => touchPage (eOff p.2.2 / pageSize) (burstsOf p.1 p.2.1) s) (reachAll r l0 v).2
theorem reaches_of {v : State} {r : Req} {rights : Nat} {l : List (Nat × Nat × Nat)} (va : Nat) (l0 : List (Nat × Nat × Nat))
    (h : target v r = .inl (va, rights) ∧ translate v r none (pieces va r.size) = .ok l0 ∧
      (hasRights (8 * rights) r.kind.need && l0.all (fun p => hasRights p.2.2 r.kind.need)) = true ∧
      (r.kind.caching = true → (bit rights 3 && l0.all (fun p => eCoherent p.2.2)) = true) ∧ (takenOver v r l0).1 = stOk ∧
      (ordered r = true → earlierPending v r = false) ∧ (reachAll r l0 v).1 = .all l ∧ (reached v r l0 l).heddle.txns.length < 8192) :
    Reaches v r rights l (reached v r l0 l) :=
  ⟨va, l0, _, h.1, h.2.1, h.2.2.1, h.2.2.2.1, h.2.2.2.2.1, h.2.2.2.2.2.1, Prod.ext h.2.2.2.2.2.2.1 rfl, rfl, h.2.2.2.2.2.2.2⟩
abbrev eQ : Nat := 0x20000139
abbrev lQ (n : Nat) : List (Nat × Nat × Nat) := [(0, n, eQ)]
abbrev vQ (r : Req) : State := arrival memQ r
abbrev tQ (r : Req) (n : Nat) : State := reached (vQ r) (admitted r 1 (vQ r)) (lQ n) (lQ n)

/-- The premises of `ReadsWritesAndAtomicsAreServed`, form by form. -/
theorem wit_rdUncached : let r := newReq .rdUncached (hdrQ 0)
    Arrives memQ r 1 (vQ r) ∧ Reaches (vQ r) (admitted r 1 (vQ r)) 15 (lQ 64) (tQ r 64) ∧
      (reqRead (admitted r 1 (vQ r)) (linesUnder (lQ 64)) (tQ r 64)).1 = .inl [(0, 0)] :=
  ⟨arrives_of true (by decide +kernel), reaches_of 0 (lQ 64) (by decide +kernel), by decide +kernel⟩
theorem wit_rdUncachedBad : let s := [⟨0x20000000, false, true⟩, ⟨0x20000040, true, false⟩].foldl lineFault memQ
    let r := newReq .rdUncached (hdrQ 0)
    awake memQ = true ∧ portUp memQ (hdrQ 0).port = true ∧ memQ.twin.state ≠ .fenced ∧ Arrives s r 1 (arrival s r) ∧
      Reaches (arrival s r) (admitted r 1 (arrival s r)) 15 (lQ 64) (reached (arrival s r) (admitted r 1 (arrival s r)) (lQ 64) (lQ 64)) ∧
      (reqRead (admitted r 1 (arrival s r)) (linesUnder (lQ 64)) (reached (arrival s r) (admitted r 1 (arrival s r)) (lQ 64) (lQ 64))).1 = .inl [(0, stPoison)] :=
  ⟨by decide +kernel, by decide +kernel, by decide +kernel, arrives_of true (by decide +kernel), reaches_of 0 (lQ 64) (by decide +kernel), by decide +kernel⟩
theorem wit_rdRun : let r := newReq .rdRun (hdrQ 0)
    Arrives memQ r 1 (vQ r) ∧ Reaches (vQ r) (admitted r 1 (vQ r)) 15 (lQ 256) (tQ r 256) ∧
      (reqRead (admitted r 1 (vQ r)) (linesUnder (lQ 256)) (tQ r 256)).1 = .inl [(0, 0), (0, 0), (0, 0), (0, 0)] :=
  ⟨arrives_of true (by decide +kernel), reaches_of 0 (lQ 256) (by decide +kernel), by decide +kernel⟩
theorem wit_wrLine : let r := { newReq .wrLine (hdrQ 0) with lines := [okLine 0] }
    Arrives memQ r 1 (vQ r) ∧ Reaches (vQ r) (admitted r 1 (vQ r)) 15 (lQ 64) (tQ r 64) ∧
      (reqClear (admitted r 1 (vQ r)) (linesUnder (lQ 64)) (tQ r 64)).1 = none :=
  ⟨arrives_of true (by decide +kernel), reaches_of 0 (lQ 64) (by decide +kernel), by decide +kernel⟩
theorem wit_wrRun : let r := { newReq .wrRun (hdrQ 0) with lines := [okLine 0, okLine 64, okLine 128, okLine 192] }
    Arrives memQ r 1 (vQ r) ∧ Reaches (vQ r) (admitted r 1 (vQ r)) 15 (lQ 256) (tQ r 256) ∧
      (reqClear (admitted r 1 (vQ r)) (linesUnder (lQ 256)) (tQ r 256)).1 = none :=
  ⟨arrives_of true (by decide +kernel), reaches_of 0 (lQ 256) (by decide +kernel), by decide +kernel⟩
theorem wit_wrPartial : let r := { newReq .wrPartial (hdrQ 0) with lines := [okLine 0], mask := 5 }
    Arrives memQ r 1 (vQ r) ∧ Reaches (vQ r) (admitted r 1 (vQ r)) 15 (lQ 64) (tQ r 64) ∧
      (reqClear (admitted r 1 (vQ r)) (linesUnder (lQ 64)) (tQ r 64)).1 = none ∧
      lineStatus (accepted (admitted r 1 (vQ r)) (reqClear (admitted r 1 (vQ r)) (linesUnder (lQ 64)) (tQ r 64)).2) 0x20000000 = stOk :=
  ⟨arrives_of true (by decide +kernel), reaches_of 0 (lQ 64) (by decide +kernel), by decide +kernel, by decide +kernel⟩
theorem wit_atomic : let r := { newReq .atomic (hdrQ 0) with op := 9, a := 3 }
    Arrives memQ r 1 (vQ r) ∧ Reaches (vQ r) (admitted r 1 (vQ r)) 15 (lQ (atomicSize 9)) (tQ r (atomicSize 9)) ∧ (tQ r 8).twin.also = 0xFFF ∧
      through (tQ r (atomicSize 9)) 1 0 eQ = false ∧
      (atomicAt (.req (admitted r 1 (vQ r))) false ((linesUnder (lQ (atomicSize 9))).any (·.2)) (homeCluster 0x20000000) 9 0x20000000 3 0
        (tQ r (atomicSize 9))).1 = some (0, true) :=
  ⟨arrives_of true (by decide +kernel), reaches_of 0 (lQ (atomicSize 9)) (by decide +kernel), by decide +kernel, by decide +kernel, by decide +kernel⟩
def memQ3 : State := { memQ with links := { memQ.links with vfBinds := [(3, 0x8001)] } }
def bar2Req (k : ReqKind) (len : Nat) (bs : List Byte) : Req :=
  { newReq k noHdr with len := len, bytes := bs, origin := .bar2 3, id := memQ3.links.nextId, isle := 1, va := 0 }
theorem wit_bar2 : bar2Isle memQ3 3 = some 1 ∧ memQ3.twin.state ≠ .fenced ∧ (isle? memQ3 1).any (fun i => i.state == .active && i.bar2Base == 0) = true ∧
    bar2Isle memQ3 4 = none ∧
    Reaches (takeId memQ3) (bar2Req .bar2Read 8 []) 15 (lQ 8) (reached (takeId memQ3) (bar2Req .bar2Read 8 []) (lQ 8) (lQ 8)) ∧
    (reqRead (bar2Req .bar2Read 8 []) (linesUnder (lQ 8)) (reached (takeId memQ3) (bar2Req .bar2Read 8 []) (lQ 8) (lQ 8))).1 = .inl [(0, 0)] ∧
    Reaches (takeId memQ3) (bar2Req .bar2Write 0 [1, 2]) 15 (lQ 2) (reached (takeId memQ3) (bar2Req .bar2Write 0 [1, 2]) (lQ 2) (lQ 2)) ∧
    (reqClear (bar2Req .bar2Write 0 [1, 2]) (linesUnder (lQ 2)) (reached (takeId memQ3) (bar2Req .bar2Write 0 [1, 2]) (lQ 2) (lQ 2))).1 = none :=
  ⟨by decide +kernel, by decide +kernel, by decide +kernel, by decide +kernel, reaches_of 0 (lQ 8) (by decide +kernel), by decide +kernel, reaches_of 0 (lQ 2) (by decide +kernel), by decide +kernel⟩
/-- R618: a WR_LINE of the line value 7 is answered with STATUS ST_OK, and an uncached read then carries that line. -/
theorem test_wrRd : ((next? (exec (.wrLine (hdrQ 0) (okLine 0)) memQ)).bind fun t => next? (exec (.rdUncached { hdrQ 0 with alive := 1 } []) t)).any
    (fun t => t.out.any (fun o => match o with | .message 2 6 0 9 0x40 0 _ _ _ _ => true | _ => false) &&
      t.out.any (fun o => match o with | .message 2 6 0 9 0x62 0 _ _ [w] _ => w.data == 7 | _ => false)) = true := by decide +kernel

/-- The state `memQ` with given directory entries and open snoops, its agent caching through window 1. -/
def memC (dir : NMap DirEntry) (txns : NMap Txn) (lost : Bool) (k : Option CmdKey) : State :=
  { memQ with heddle := { memQ.heddle with dir := dir, txns := txns, agents := [(0, { agA with window := some (1, 0, 65536), lost := lost, cmd := k })] } }
def dirQ (st : DirState) (v : BitVec 64) : NMap DirEntry :=
  [(0x20000000, { state := st, owner := 0, extVector := v, extSharers := false, intShared := 0, spilled := false, used := 0 })]
abbrev vC (s : State) (r : Req) : State := arrival s r
abbrev rC (s : State) (r : Req) : Req := admitted r 1 (arrival s r)
abbrev tC (s : State) (r : Req) (e : Nat) : State := reached (vC s r) (rC s r) [(0, 64, e)] [(0, 64, e)]
/-- Page 0 at a flash page, which the Heddle does not track. -/
def memFl : State :=
  { memQ with store := { memQ.store with cells := memQ.store.cells ++ [(0x30006, 1)] }, flash := { memQ.flash with formatted := true, rawGib := 1024 } }
/-- A ring in the store rings its bell in page 0's first line, so that the line is watched. -/
def memWt : State := { memQ with bobbin := { memQ.bobbin with sqs := [(7, { mgmtSq with isle := 1, dbHost := false, dbLine := 0 })] } }

/-- The premises of `CachingRequestsAreGrantedAndSnoopsEnd`, clause by clause. -/
theorem wit_rdShared : let r := newReq .rdShared (hdrQ 0)
    Arrives memQ r 1 (vC memQ r) ∧ Reaches (vC memQ r) (rC memQ r) 15 (lQ 64) (tC memQ r eQ) ∧
      (agentOf (tC memQ r eQ) (rC memQ r)).map (·.1) = some 0 ∧ secondWindow (tC memQ r eQ) 0 agA (rC memQ r) = false ∧
      (linesUnder (lQ 64)).headD (0, false) = (0x20000000, true) ∧
      (hedRead (.ext 0) (.req (rC memQ r)) [] true 0x20000000 (tC memQ r eQ)).1 = .grant grantE 0 stOk :=
  ⟨arrives_of true (by decide +kernel), reaches_of 0 (lQ 64) (by decide +kernel), by decide +kernel, by decide +kernel, by decide +kernel, by decide +kernel⟩
theorem wit_rdSharedFlash : let r := newReq .rdShared (hdrQ 0)
    Arrives memFl r 1 (vC memFl r) ∧ Reaches (vC memFl r) (rC memFl r) 15 [(0, 64, eQ + 2 ^ 48)] (tC memFl r (eQ + 2 ^ 48)) ∧
      (agentOf (tC memFl r (eQ + 2 ^ 48)) (rC memFl r)).map (·.1) = some 0 ∧ secondWindow (tC memFl r (eQ + 2 ^ 48)) 0 agA (rC memFl r) = false ∧
      (linesUnder [(0, 64, eQ + 2 ^ 48)]).headD (0, false) = (0x1000020000000, false) :=
  ⟨arrives_of true (by decide +kernel), reaches_of 0 [(0, 64, eQ + 2 ^ 48)] (by decide +kernel), by decide +kernel, by decide +kernel, by decide +kernel⟩
theorem wit_rdOwn : let r := newReq .rdOwn (hdrQ 0)
    Arrives memQ r 1 (vC memQ r) ∧ Reaches (vC memQ r) (rC memQ r) 15 (lQ 64) (tC memQ r eQ) ∧
      (agentOf (tC memQ r eQ) (rC memQ r)).map (·.1) = some 0 ∧ secondWindow (tC memQ r eQ) 0 agA (rC memQ r) = false ∧
      isWatched (tC memQ r eQ) 0x20000000 = false ∧ (hedOwn 0 (.req (rC memQ r)) [] 0x20000000 (tC memQ r eQ)).1 = .grant grantM 0 stOk ∧
      Arrives memWt r 1 (vC memWt r) ∧ Reaches (vC memWt r) (rC memWt r) 15 (lQ 64) (tC memWt r eQ) ∧ isWatched (tC memWt r eQ) 0x20000000 = true :=
  ⟨arrives_of true (by decide +kernel), reaches_of 0 (lQ 64) (by decide +kernel), by decide +kernel, by decide +kernel, by decide +kernel, by decide +kernel, arrives_of true (by decide +kernel),
    reaches_of 0 (lQ 64) (by decide +kernel), by decide +kernel⟩
theorem wit_upgrade : let r := newReq .upgrade (hdrQ 0)
    let s := memC (dirQ .shared 1) [] false none
    Arrives s r 1 (vC s r) ∧ Reaches (vC s r) (rC s r) 15 (lQ 64) (tC s r eQ) ∧ (agentOf (tC s r eQ) (rC s r)).map (·.1) = some 0 ∧
      isWatched (tC s r eQ) 0x20000000 = false ∧ txnOpen (tC s r eQ) 0x20000000 = false ∧ isHolder (tC s r eQ) 0 0x20000000 = true ∧
      (hedOwn 0 (.req { rC s r with keep := true }) [] 0x20000000 (tC s r eQ)).1 = .grant grantM 0 stOk ∧
      Arrives memQ r 1 (vC memQ r) ∧ Reaches (vC memQ r) (rC memQ r) 15 (lQ 64) (tC memQ r eQ) ∧ isHolder (tC memQ r eQ) 0 0x20000000 = false ∧
      (hedOwn 0 (.req (rC memQ r)) [] 0x20000000 (tC memQ r eQ)).1 = .grant grantM 0 stOk :=
  ⟨arrives_of true (by decide +kernel), reaches_of 0 (lQ 64) (by decide +kernel), by decide +kernel, by decide +kernel, by decide +kernel, by decide +kernel, by decide +kernel, arrives_of true (by decide +kernel),
    reaches_of 0 (lQ 64) (by decide +kernel), by decide +kernel, by decide +kernel⟩
theorem wit_dirtyBack : let r := newReq .dirty (hdrQ 0)
    let b := { newReq .wrBack (hdrQ 0) with lines := [okLine 0] }
    let s := memC (dirQ .extExcl 0) [] false none
    let d := memC (dirQ .extDirty 0) [] false none
    Arrives s r 1 (vC s r) ∧ (agentOf (vC s r) (rC s r)).map (fun a => (a.1, a.2.window)) = some (0, some (1, 0, 65536)) ∧ bits (hdrQ 0).addr.toNat 40 12 = 1 ∧
      entryOf (vC s r) 1 ((0 + (rC s r).off) / pageSize) = some eQ ∧ lineOf (eOff eQ + (0 + (rC s r).off) % pageSize) = 0x20000000 ∧
      (dirGet (vC s r) 0x20000000).any (fun e => e.state == .extExcl && e.owner == 0) = true ∧
      Arrives d b 1 (vC d b) ∧ (takenOver (vC d b) (rC d b) [(0, 64, eQ)]).1 = stOk ∧ withdrawing (vC d b) 1 0 = false ∧ (vC d b).trans.withdrawals = [] ∧
      (dirGet (vC d b) 0x20000000).any (fun e => e.state.ext && e.owner == 0) = true ∧ txnGet (vC d b) 0x20000000 = none :=
  ⟨arrives_of true (by decide +kernel), by decide +kernel, by decide +kernel, by decide +kernel, by decide +kernel, by decide +kernel, arrives_of true (by decide +kernel), by decide +kernel, by decide +kernel, by decide +kernel, by decide +kernel,
    by decide +kernel⟩
def txnQ : Txn := { who := .recall, inv := true, pending := [(0, 7)], data := none, lost := false, discard := false }
def memSn : State := memC (dirQ .extDirty 0) [(0x20000000, txnQ)] false none
theorem wit_snoop : let h := { hdrQ 0 with tag := 7 }
    awake memSn = true ∧ (receive h false memSn).1 = true ∧ snoopFor (receive h false memSn).2 h = some (0x20000000, 0, 7) ∧
      txnGet (receive h false memSn).2 0x20000000 = some txnQ ∧ (NMap.get? (receive h false memSn).2.heddle.agents 0).isSome = true ∧
      txnGet memSn 0x20000000 = some txnQ := by decide +kernel
theorem wit_sweep : awake (memC [] [] true (some kk)) = true ∧ (NMap.get? (memC [] [] true none).heddle.agents 0).any (fun a => a.lost && a.cmd.isNone) = true ∧
    (NMap.get? (withC (mkCmd 0x0F0A []) (memC [] [] true (some kk))).heddle.agents 0).any (fun a => a.lost && a.cmd == some kk) = true ∧
    cmd? (withC (mkCmd 0x0F0A []) (memC [] [] true (some kk))) kk = some (mkCmd 0x0F0A []) := by decide +kernel
/-- R202, R212: the owner's write-back of the line value 7 stands at memory afterwards, and a reader meets no holder. -/
theorem test_back : (next? (exec (.wrBack (hdrQ 0) (okLine 0)) (memC (dirQ .extDirty 0) [] false none))).any
    (fun t => readLine t 0x20000000 == 7 && (dirGet t 0x20000000).isNone) = true := by decide +kernel
/-- R210: RSP_DATA to a snoop that invalidates brings the line to memory. -/
theorem test_snoop : (next? (exec (.rspData { hdrQ 0 with tag := 7 } (okLine 0)) memSn)).any
    (fun t => t.heddle.txns == [] && readLine t 0x20000000 == 7) = true := by decide +kernel

/-- The state `memQ` with embedding table 3, an outstanding sub-command of a gather, and a twin alias for member 6 where asked. -/
def memO (twin susp back : Bool) (members : List Nat) : State :=
  { memQ with
    maps := { memQ.maps with cur := { memQ.maps.cur with tables := [(3, tbl)] } }
    pool := { memQ.pool with members := members }
    bobbin := { memQ.bobbin with cmds := [{ mkCmd (0x0100 + 3 * 2 ^ 256) [] with phase := .running, subs := [newSub 0 6 0 noData] }] }
    links := { memQ.links with
      ports := NMap.upd memQ.links.ports 2 (fun p => { p with suspended := susp })
      routes := [(6, { Route.none with aliasId := 8, aliasValid := twin })]
      outstanding := [(7, { dest := 6, tag := 9, stream := 0, port := 2, cmd := kk, shard := 0, direct := false, backOff := back })] } }
/-- The premises of `SubcommandsAnswersAndTheirTimesComplete`, clause by clause. -/
def subQ (flag : Nat) : SubData := { words := [flag, 0, 0, 7], bytes := [] }
theorem wit_subcmd : let s := memO false false false [5, 6]
    let u := (receive (hdrQ 0) (heldPool s (bits (hdrQ 0).addr.toNat 52 12)) s).2
    awake s = true ∧ (hdrQ 0).port < 24 ∧ (receive (hdrQ 0) (heldPool s (bits (hdrQ 0).addr.toNat 52 12)) s).1 = true ∧
      portClosed (takeId u) 2 6 = false ∧ (hdrQ 0).src ∈ (takeId u).pool.members ∧ 6 ∉ (memO false false false [5]).pool.members ∧
      isPartner (takeId u) 5 = false ∧ bindOf (takeId u) (heldPool (takeId u) 5) 2 6 0 = some (1, true) ∧ isMine (takeId u) 5 = true ∧
      isleActive (takeId u) 1 = true ∧ (takeId u).bobbin.cmds.length < 16384 ∧ subFlag (subQ 1) = 1 ∧
      otherHome (takeId u).maps.cur 5 1 (0x0100 + 3 * 2 ^ 256) (subQ 1) = none ∧ subFlag (subQ 0) ≠ 1 ∧
      forwardedTo (takeId u) 0 (0x0100 + 3 * 2 ^ 256) (subQ 0) = none ∧ (hdrQ 0).epoch = (takeId u).maps.cur.epoch ∧
      forwardedTo (takeId u) 1 (0x0100 + 3 * 2 ^ 256) (subQ 0) = none := by decide +kernel
theorem wit_answered : let s := memO false false true [5, 6]
    let u := (receive (hdrQ 0) false s).2
    (receive (hdrQ 0) false s).1 = true ∧ (outstandingOf u (hdrQ 0)).any (fun o => o.1 == 7 && !o.2.direct) = true ∧
      (cmd? (dropOutstanding 7 u) kk).any (fun c => (c.subs[0]?).any (fun x => !x.resent)) = true ∧
      (NMap.get? s.links.outstanding 7).any (fun o => o.backOff && o.dest == 6) = true ∧ (NMap.get? s.links.ports 2).any (·.suspended) = false ∧
      (routeOf s 6).twinAlias = none ∧ (routeOf (memO true false false [5, 6]) 6).twinAlias = some 8 ∧
      (routeOf (memO true false false [5, 6]) 6).redirected = false ∧ NMap.get? s.links.outstanding 8 = none := by decide +kernel
def memPk : State := { memQ with links := { memQ.links with parked := [{ newReq .rdUncached (hdrQ 0) with id := 4, why := some .epochHold }] } }
def cHeld : Cmd := { freshCmd (subKey 4) 0 0x0100 .held with lead := some lead6 }
theorem wit_holds : (memPk.links.parked.find? (fun r => r.id == 4 && r.origin == .strait)).any (·.kind != .dirty) = true ∧
    (memPk.links.parked.find? (fun r => r.id == 4 && r.why == some .epochHold)).isSome = true ∧
    memQ.links.parked.find? (fun r => r.id == 4 && r.why == some .epochHold) = none ∧
    cmd? { memQ with bobbin := { memQ.bobbin with cmds := [cHeld] } } (subKey 4) = some cHeld ∧ cHeld.phase = .held ∧ cHeld.aux = [] ∧
    awake memPk = true := by decide +kernel
/-- R630: a request timeout of a pool id without a twin ends the sub-command with ST_TIMEOUT. -/
theorem test_timeout : (next? (exec (.requestTimeout 7) (memO false false false [5, 6]))).any (fun t => t.links.outstanding == []) = true ∧
    (next? (exec (.requestTimeout 7) (memO true false false [5, 6]))).any (fun t => (routeOf t 6).redirected) = true := by decide +kernel
/-- R87: the hold for a new map ends with STATUS ST_STALE_EPOCH (0x0031), its detail the current epoch. -/
theorem test_hold : (next? (exec (.epochHoldExpiry 4) memPk)).any
    (fun t => t.links.parked == [] && t.out.any (fun o => match o with | .message 2 6 0 9 0x40 st _ 0 _ _ => st == stStaleEpoch | _ => false)) = true := by decide +kernel

/-- The premises of `MembersGreetClaimAndJoin`, clause by clause. -/
def helloA (id dig : Nat) (e : BitVec 64) : Hello := { poolId := id, causeway := false, joined := true, fwMajor := 1, compatId := 1, epoch := e, digest := dig }
def claimA (id : Nat) (take : Bool) (e : BitVec 64) : Claim :=
  { poolId := id, takeover := take, handback := false, epoch := e, claimant := 8, nonce := 77, digest := 3 }
def memJ (locked : Bool) : State :=
  { memQ with
    harbour := { memQ.harbour with digest := 3, fwMajor := 1, compatId := 1 }
    pool := { memQ.pool with nonce := some 5, joined := locked, epochs := [(6, 1)] }
    treadle := { memQ.treadle with locked := locked, unsynced := false }
    links := { memQ.links with routes := [(6, { Route.none with aliasId := 8, aliasValid := true })] } }
theorem wit_hello : awake (memJ true) = true ∧ (memJ true).harbour.boot = 3 ∧ portState (memJ true) 2 = 2 ∧ (memJ true).pool.id = 5 ∧
    (memJ true).pool.epoch < (helloA 5 3 9).epoch ∧ fencedBy 6 1 (memJ true) = false ∧ (helloA 6 3 1).digest = (memJ true).harbour.digest ∧
    (helloA 6 4 1).digest ≠ (memJ true).harbour.digest ∧ (helloA 6 3 1).fwMajor = (memJ true).harbour.fwMajor ∧
    (helloA 6 3 1).compatId = (memJ true).harbour.compatId ∧ (helloA 6 3 1).fwMajor ≠ 0 := by decide +kernel
theorem wit_helloCauseway : let s := { memJ true with links := { (memJ true).links with ports := NMap.upd (memJ true).links.ports 24 (fun p => { p with state := 2 }) } }
    portState s 24 = 2 ∧ fencedBy 6 1 s = false := by decide +kernel
theorem wit_claim : portUp (memJ true) 2 = true ∧ (memJ true).pool.nonce ≠ some (claimA 7 false 1).nonce ∧
    contests (floodClaim 2 (claimA 7 false 1) (memJ true)) (claimA 7 false 1) = false ∧ (claimA 7 false 1).digest = (memJ true).harbour.digest ∧
    (floodClaim 2 (claimA 7 false 1) (memJ true)).harbour.digest = (memJ true).harbour.digest ∧
    contests (floodClaim 2 (claimA 5 false 1) (memJ true)) (claimA 5 false 1) = true ∧ (memJ true).pool.flooded.contains (5, 77) = false := by decide +kernel
theorem wit_takeover : (claimA 6 true 2).claimant ≠ (memJ true).pool.id ∧ (claimA 6 true 2).poolId ≠ (memJ true).pool.id ∧
    knownEpoch (memJ true) 6 < (claimA 6 true 2).epoch ∧ namedFor (memJ true) (claimA 6 true 2) = true ∧ withdrawn (memJ true) (claimA 6 true 2) = false := by decide +kernel
theorem wit_stands : (memJ true).pool.nonce = some 5 ∧ (memJ true).pool.conflict = false ∧ helloRefused (memJ true) = false ∧
    (memJ true).treadle.locked = true ∧ (memJ true).treadle.unsynced = false ∧ (memJ false).treadle.root = false ∧ (memJ false).treadle.locked = false := by decide +kernel
/-- R649: a member that holds the claimed pool id answers ID_CONFLICT on the port and lists the claimant as refused there. -/
theorem test_contest : (next? (exec (.idClaim 2 (claimA 5 false 1)) (memJ true))).any
    (fun t => t.out.contains (.manage 2 5 .idConflict [5, 77]) && t.pool.refusing == [2 * 4096 + 5]) = true := by decide +kernel

/-- Device 5 whose Causeway port 24 is up to device 6, in a pairing state. -/
def memTwin (st : TwinState) (f : Twin → Twin) : State :=
  { memJ true with
    links := { (memJ true).links with
      ports := NMap.upd (memJ true).links.ports 24 (fun p => { p with state := 2, partner := some { helloA 6 3 1 with causeway := true } })
      routes := [(6, { Route.none with mask := 4 })] }
    twin := f { (memJ true).twin with state := st, partner := if st = .unpaired then 0xFFF else 6 } }
/-- TWIN_PAIR with device 6 in mode 0, as fetched and as it waits. -/
def cPair (ph : Phase) : Cmd := { mkCmd (0x0F30 + 6 * 2 ^ 128) [] with isle := 0, phase := ph }
def itemPair : TwinItem := { id := 0, kind := 14, words := [6, 5, 0, 0, 0xFFF, 1], bytes := [] }
/-- The premises of `TwinsPairWatchResyncAndTakeOver`, clause by clause. -/
theorem wit_pair : let s := onMgmt (cPair .ready) (memTwin .unpaired id)
    let r := onMgmt (cPair .running) (memTwin .unpaired id)
    Runs s kk 0x0F30 (cPair .ready) ∧ pairFieldsOk (cPair .ready) = true ∧ partnerGreeted s (tpPartner (cPair .ready)) = true ∧
      endFit (tpMode (cPair .ready)) (twinCode s.twin.state) (twinClean s || (tpMode (cPair .ready) == 1 && s.twin.state == .degraded)) = true ∧
      s.twin.peerPair = none ∧ Runs r kk 0x0F30 (cPair .running) ∧ r.twin.pairCmd ≠ some kk ∧ portUp r 24 = true ∧ r.twin.state ≠ .fenced ∧
      r.bobbin.cmds.find? (fun (c : Cmd) => c.opcode == 0x0F30 && c.phase == Phase.running && r.twin.pairCmd != some c.key &&
        tpPartner c == itemPair.words.getD 0 0xFFF && itemPair.words.getD 1 0xFFF == r.pool.id && tpMode c == itemPair.words.getD 2 0) = some (cPair .running) ∧
      partnerGreeted r (tpPartner (cPair .running)) = true ∧ endFit 0 (twinCode r.twin.state) (twinClean r) = true ∧
      endFit 0 (itemPair.words.getD 3 0) (itemPair.words.getD 5 0 == 1) = true ∧ 1 < itemPair.words.length := by decide +kernel
theorem wit_watch : let s := memTwin .paired id
    awake s = true ∧ portUp s 24 = true ∧ receiving s = true ∧ fencedBy 6 1 s = false ∧ 6 = s.twin.partner ∧ s.pool.epoch < 9 ∧ s.pool.id ≠ 0xFFF ∧
      s.harbour.boot = 3 ∧ s.twin.state = .paired ∧ s.twin.probing = false ∧ (memTwin .paired fun t => { t with silent := 3 }).twin.hbMiss ≤ 3 ∧
      ownPort { s with twin := { s.twin with probing := true, silent := 3 } } 6 0 = some 2 ∧ (memTwin .resync id).twin.state = .resync ∧
      (memTwin .resync fun t => { t with peerSource := true, silent := 3 }).twin.peerSource = true := by decide +kernel
theorem wit_image : let s := { memTwin .paired id with harbour := { (memTwin .paired id).harbour with boot := 1, parts := [7], partsTotal := 2 } }
    awake s = true ∧ portUp s 24 = true ∧ s.harbour.boot = 1 ∧ 1 ≠ 0 ∧ 1 = s.harbour.parts.length ∧ 2 = s.harbour.partsTotal := by decide +kernel
def memCopy (c : Option Nat) (len : Nat) (todo : List Nat) : State :=
  let s := memTwin .resync fun t => { t with source := true, toCopy := todo }
  { s with store := { s.store with regions := [(4, { regA with len := len, mirrored := true, cursor := c })] } }
theorem wit_resync : (memCopy (some 0) (2 ^ 27) [regionKey 5 4]).twin.toCopy.head? = some (regionKey 5 4) ∧
    (copyRegion (memCopy (some 0) (2 ^ 27) [regionKey 5 4]) (regionKey 5 4)).map (·.1) = some 1 ∧ 1 = 0 / 2 ^ 26 + 1 ∧ min (2 ^ 27) (1 * 2 ^ 26) < 2 ^ 27 ∧
    (copyRegion (memCopy (some 0) (2 ^ 16) [regionKey 5 4]) (regionKey 5 4)).isSome = true ∧ 2 ^ 16 ≤ min (2 ^ 16) (1 * 2 ^ 26) ∧
    (memCopy none 0 []).twin.state = .resync ∧ (memCopy none 0 []).twin.source = true ∧ (memCopy none 0 []).twin.done.1 = false := by decide +kernel
/-- R711, R712: PROBE_ACK in time leaves the pair DEGRADED with nothing taken over; a probe timeout takes the partner's pool id over at the next epoch. -/
theorem test_probe : (next? (exec (.probeAck 2 6) (memTwin .paired fun t => { t with probing := true }))).any
      (fun t => t.twin.state == .degraded && t.twin.held == 0xFFF && t.twin.mirror.stale) = true ∧
    (next? (exec .probeTimeout (memTwin .paired fun t => { t with probing := true }))).any
      (fun t => t.twin.state == .degraded && t.twin.held == 6 && NMap.getD t.pool.epochs 6 0 == 2) = true := by decide +kernel

/-- ROW_MIGRATE of slot 0 of table 3 to device 6, as the old home's command and as the copy's sub-command. -/
def cMig (pool : Nat) : Cmd := { mkCmd (0x0F20 + 3 * 2 ^ 128 + pool * 2 ^ 160 + 0x30000 * 2 ^ 192) [] with isle := 0 }
def migA (ph cur : Nat) : Migration := { cmd := kk, table := 3, slot := 0, pool := 6, va := 0x30000, phase := ph, cursor := cur, log := [], again := 0, step := 0 }
def memMig (m : Option Migration) (c : Cmd) : State :=
  onMgmt c { memE with emb := { memE.emb with migration := m, holdEpochs := 0 }
                       links := { memE.links with ports := NMap.upd memE.links.ports 2 (fun p => { p with state := 2 }) } }
def memMig6 : State :=
  let s := memMig none (cMig 6)
  { s with maps := { s.maps with cur := { s.maps.cur with tables := [(3, { tbl with slots := [{ first := 0, pool := 6, va := 0x20000 }] })] } } }
/-- The premises of `MigrationsCopyCommitAndRollBack`, clause by clause. -/
theorem wit_migrate : let s := memMig none (cMig 6)
    Runs s kk 0x0F20 (cMig 6) ∧ (cMig 6).lead = none ∧ (cMig 6).aux = [] ∧ migrateFieldsOk (cMig 6) = true ∧ onManagement s kk = true ∧
      table? s (mgTable (cMig 6)) = some tbl ∧ mgSlot (cMig 6) < tbl.slots.length ∧ (slotAt tbl 0).pool = s.pool.id ∧ mgPool (cMig 6) = 6 ∧
      mgPool (cMig 6) ∈ s.pool.members ∧ s.emb.migration = none ∧ Runs memMig6 kk 0x0F20 (cMig 6) ∧
      (table? memMig6 3).any (fun t => (slotAt t 0).pool != memMig6.pool.id) = true ∧
      (memMig (some { migA 1 0 with table := 4 }) (cMig 6)).emb.migration.any (fun m => m.table != mgTable (cMig 6)) = true := by decide +kernel
theorem wit_migrateHome : let c := { cMig 6 with lead := some lead6, data := { words := [0, 0], bytes := [] } }
    Runs (memMig none c) kk 0x0F20 c ∧ c.lead = some lead6 := by decide +kernel
theorem wit_ferry : let s := memMig (some (migA 0 0)) { cMig 6 with phase := .running, aux := [1] }
    awake s = true ∧ s.emb.migration = some (migA 0 0) ∧ s.emb.holdEpochs ≤ s.emb.epochs ∧ table? s 3 = some tbl ∧
      (sendRows 1 (migA 0 0) tbl ((List.range (slotRows tbl 0).2).map (fun i => (slotRows tbl 0).1 + i)) s).1 = .ok := by decide +kernel
theorem wit_ferryDone : let c := { cMig 6 with phase := .running, aux := [1], subs := [okSub] }
    let d := { cMig 6 with phase := .running, aux := [1], subs := [{ okSub with status := some stPermission }] }
    cmd? (memMig (some (migA 1 8)) c) kk = some c ∧ allAnswered c = true ∧ firstFailing c = none ∧
      cmd? (memMig (some (migA 1 8)) d) kk = some d ∧ allAnswered d = true ∧ (firstFailing d).any (fun x => x.status == some stPermission) = true := by decide +kernel
theorem wit_notice : let s := memMig (some (migA 4 8)) (cMig 6)
    portUp s 2 = true ∧ s.twin.state ≠ .fenced ∧ 6 ∈ s.pool.members ∧ (7 : BitVec 8) ≠ s.maps.cur.epoch + 1 ∧ (1 : BitVec 8) = s.maps.cur.epoch + 1 ∧
      6 ≠ s.pool.id ∧ s.emb.migration = some (migA 4 8) ∧
      (NMap.get? memMig6.maps.cur.tables 3).any (fun t => t.slots.all (fun x => x.pool != memMig6.pool.id)) = true := by decide +kernel
/-- R550: the acknowledgement moves the slot to its new home at the next epoch and ends the migration. -/
theorem test_commitAck : (next? (exec (.commitNoticeAck 2 6 3 0) (memMig (some (migA 4 8)) (cMig 6)))).any
    (fun t => t.emb.migration.isNone && t.maps.cur.epoch == 1 && (NMap.get? t.maps.cur.tables 3).any (fun x => (slotAt x 0).pool == 6)) = true := by decide +kernel

/-- A page of isle 1 at a device page `p`, virtual page 0, with a move in progress where given; the walk of page 0 is under way. -/
def memMv (p : Nat) (m : Option Move) (en warm : Bool) : State :=
  { memQ with
    store := { memQ.store with
      cells := [(0x10000, 3), (0x10002, 2), (0x20000, 3), (0x20002, 3), (0x30000, 0x39), (0x30001, 1)] ++
        (((leBytes (p * 65536) 8).zip (List.range 8)).filter (fun x => x.1 != 0)).map (fun x => (0x30000 + x.2, x.1))
      pages := [(p, { isle := 1, vpage := some 0, region := 0, counter := 6, idle := 0, chan := 3, move := m })] }
    tide := { memQ.tide with enable := en, warmup := warm, warmupEpochs := 0 }
    trans := { memQ.trans with walks := [(1, 0)], tlb := [] }
    flash := { memQ.flash with formatted := true, rawGib := 1024, reads := [(kk, p)]
                               chans := [(3, { present := true, capacity := 0, divider := 0, failed := false, wearLow := false, full := false, spare := 9, retired := 0 })] } }
abbrev fPage : Nat := 0x100000000
def moveTo (d why : Nat) (done : Bool) : Move := { dest := d, why := why, marked := 0, readDone := done }
/-- The premises of `WalksMovesAndMediaComplete`, clause by clause. -/
theorem wit_walk : let s := memMv 0x2000 none false false
    awake s = true ∧ (1, 0) ∈ s.trans.walks ∧ walk { s with trans := { s.trans with walks := [], walkQueue := [] } } 1 0 = .entry 0x20000139 ∧
      (1, 9) ∈ { s with trans := { s.trans with walks := [(1, 9)] } }.trans.walks ∧
      walk { s with trans := { s.trans with walks := [], walkQueue := [] } } 1 9 = .notMapped := by decide +kernel
theorem wit_epoch : let s := memMv 0x2000 none true false
    s.tide.enable = true ∧ s.tide.warmup = false ∧ (∀ x ∈ s.store.pages, x.2.move.isNone = true) ∧ (memMv 0x2000 none false true).tide.enable = false ∧
      (memMv 0x2000 none false true).tide.warmup = true ∧ (memMv 0x2000 none false true).tide.warmupEpochs ≤ (memMv 0x2000 none false true).emb.epochs ∧
      (memMv 0x2000 (some (moveTo 0x30000000 0 false)) true false).store.pages.any (fun x => x.2.move.any (fun m => m.why == 0)) = true := by decide +kernel
theorem wit_moves : (moveOf (memMv fPage (some (moveTo 0x30000000 1 true)) true false) 1 0).any (fun x => x.2.1 == fPage && x.2.2.why == 1 && x.2.2.readDone) = true ∧
    (moveOf (memMv 0x2000 (some (moveTo 0x30000000 0 false)) true false) 1 0).any (fun x => x.2.1 == 0x2000 && x.2.2.why != 1) = true ∧
    inTier .flash 0x2000 = false := by decide +kernel
theorem wit_media : let s := memMv fPage (some (moveTo 0x30000000 1 false)) true false
    inTier .flash (fPage * 65536 / pageSize) = true ∧ (getPage s fPage).any (fun g => g.move.isSome) = true ∧ (∃ r ∈ s.flash.reads, r.2 = fPage) ∧
      (NMap.get? s.flash.chans 3).any (fun c => !c.failed) = true ∧ (inTier .hbm (0x20000000 / pageSize) || inTier .ddr (0x20000000 / pageSize)) = true ∧
      isPoisoned s (lineOf 0x20000000) = false := by decide +kernel
theorem wit_mediaLost : let s := memMv fPage (some (moveTo 0x30000000 1 false)) true false
    let t := { s with store := { s.store with pages := NMap.upd s.store.pages fPage (fun g => { g with vpage := none }) } }
    let f := { s with flash := { s.flash with chans := NMap.upd s.flash.chans 3 (fun c => { c with failed := true }) } }
    pageLost (updCmd kk (fun c => { c with flashRead := c.flashRead ++ [fPage] }) { s with flash := { s.flash with reads := [] } }) fPage = false ∧
      (getPage t fPage).any (fun g => g.vpage.isNone && g.move.isSome) = true ∧ (NMap.get? f.flash.chans 3).any (·.failed) = true := by decide +kernel
/-- R271, R277, R286: the promotion commits at its destination with the seed counter, and the entry names it. -/
theorem test_promote : (next? (exec (.promotionCommit 1 0) (memMv fPage (some (moveTo 0x30000000 1 true)) true false))).any
    (fun t => (getPage t 0x3000).any (fun g => g.move.isNone && g.counter == BitVec.ofNat 16 t.tide.seed) && (getPage t fPage).isNone &&
      (entryOf t 1 0).any (fun e => eOff e == 0x30000000)) = true := by decide +kernel
/-- R276: a counter of 6 becomes 3 at the boundary, and the page ages by one. -/
theorem test_epoch : (next? (exec .tieringEpoch (memMv 0x2000 none false true))).any
    (fun t => (getPage t 0x2000).any (fun g => g.counter == 3 && g.idle == 1)) = true := by decide +kernel

/-- An ill-formed ring-command key: SQ 4,097 exists nowhere. -/
def badKey : CmdKey := ⟨4097, 0⟩
/-- A well-formed message header: port 25, the last id, stream, tag and sync. -/
def goodHdr : Hdr := ⟨25, 4095, 255, 511, 7, 0, 0, 0, false⟩
/-- A line to put into messages. -/
def someLine : WireLine := ⟨0, 0⟩

/-- WellFormed: a ring command of SQ 4,096 passes, and each ring command of SQ 4,097 is refused (R22, R311). -/
theorem wf_keys : (Instr.nop ⟨4096, 0⟩).wf = true ∧
    [Instr.nop badKey, .copy badKey 1 [], .fill badKey 1, .tileCopy badKey 1, .check badKey 1, .atomicBatch badKey, .fence badKey,
     .fenceComplete badKey, .release badKey, .acquire badKey, .acquireReread badKey, .acquireTimeout badKey, .weave badKey,
     .weavePhaseStart badKey, .gatherAcquire badKey, .writeRelease badKey, .embGather badKey, .embUpdate badKey,
     .embStepClose badKey, .embStats badKey, .kvAppend badKey, .attnDecode badKey, .attnCombine badKey, .seqCreate badKey,
     .seqFork badKey, .seqPublish badKey, .seqHandoffOffer badKey, .seqHandoffAccept badKey, .seqRelease badKey,
     .seqQuery badKey, .atollSearch badKey, .atollInsert badKey, .atollDelete badKey, .atollMerge badKey, .mergeCommit badKey,
     .atollCreate badKey, .regionAlloc badKey, .regionFree badKey, .map badKey, .unmap badKey, .pinTier badKey,
     .poisonClear badKey, .planAdmit badKey, .planStart badKey, .planStop badKey, .isleCreate badKey, .isleChange badKey,
     .isleDestroy badKey, .bindSet badKey, .isleActivate badKey, .isleReset badKey, .unitReset badKey, .mapInstall badKey,
     .portRetrain badKey, .agentEvict badKey, .ringCreate badKey, .ringDestroy badKey, .rowMigrate badKey, .twinPair badKey,
     .twinPairTimeout badKey, .routeSet badKey, .attest badKey 0, .keyAgree badKey 0, .isleKeyLoad badKey, .expelCert badKey,
     .descriptorArrival badKey .refused .refused, .descriptorReread badKey .refused .refused, .completionWrite badKey true,
     .pickOverrun badKey, .completionTimeout badKey true, .mergeCheckpoint badKey].any Instr.wf = false := by decide +kernel

/-- WellFormed: a header is refused for its port, pool id, stream, tag or sync field out of range (R611, R617). -/
theorem wf_hdr : (Instr.rdOwn goodHdr).wf = true ∧
    [Instr.rdOwn { goodHdr with port := 26 }, .rdOwn { goodHdr with src := 4096 }, .rdOwn { goodHdr with stream := 256 },
     .rdOwn { goodHdr with tag := 512 }, .rdOwn { goodHdr with sync := 8 }].any Instr.wf = false := by decide +kernel

/-- WellFormed: every message checks its header. -/
theorem wf_messages : let b := { goodHdr with port := 26 }
    [Instr.ringGoneNotice b [], .rdShared b .clean, .rdOwn b, .upgrade b, .dirty b, .wrBack b someLine, .rdUncached b [],
     .wrLine b someLine, .wrPartial b 0 someLine, .atomic b 0 0 0, .rdRun b, .wrRun b [], .rspAck b, .rspData b someLine,
     .status b 0 0, .progress b, .retry b 0, .readData b 0 0 [], .runCont b 0 [], .atomicResult b 0 0, .subcmd b 0 ⟨[], []⟩,
     .subcmdDone b 0 0 0 0 ⟨[], []⟩].any Instr.wf = false := by decide +kernel

/-- WellFormed: the other fields of a message: ring ids of 24 bits, an 8-bit operation, 16-bit codes, a 32-bit back-off and line
index. -/
theorem wf_messageFields :
    [Instr.ringGoneNotice goodHdr [2 ^ 24], .atomic goodHdr 256 0 0, .status goodHdr 65536 0, .readData goodHdr 65536 0 [],
     .atomicResult goodHdr 65536 0, .subcmdDone goodHdr 65536 0 0 0 ⟨[], []⟩, .retry goodHdr (2 ^ 32),
     .runCont goodHdr (2 ^ 32) []].any Instr.wf = false ∧ (Instr.ringGoneNotice goodHdr [2 ^ 24 - 1]).wf = true := by decide +kernel

/-- WellFormed: a port number of 26 is refused, of 25 not (R611). -/
theorem wf_ports : (Instr.retrain 25).wf = true ∧
    [Instr.portDisable 26 0, .portEnable 26 0, .signalDetect 26, .trainingFailed 26, .lossOfSignal 26,
     .flitReceive 26 ⟨0, 0, 0, false, 0, 0, true, 0⟩, .retrain 26, .echo 26 0, .echoReply 26 0 0, .linkAdaptation 26 0,
     .portUp 26 none false 0, .hello 26 ⟨0, false, false, 0, 0, 0, 0⟩, .idClaim 26 ⟨0, false, false, 0, 0, 0, 0⟩,
     .takeoverClaim 26 ⟨0, true, false, 0, 0, 0, 0⟩, .idConflict 26 0 0, .beat 26 0 0 0 0, .retireReq 26 0, .retireAck 26 0,
     .probe 26 0, .probeAck 26 0, .planPrepare 26 0 0 [] 0, .planPrepareAnswer 26 0 0 ⟨true, 0, 0, 0, 0⟩, .planCommit 26 0 0,
     .planAbort 26 0 0, .pauseNotice 26 0, .certMessage 26 0 [], .planArm 26 0 0 0, .planStopNotice 26 0 0 false,
     .planMemberAck 26 0 0 0, .commitNotice 26 0 0 0 0 0 0 0, .commitNoticeAck 26 0 0 0].any Instr.wf = false := by decide +kernel

/-- WellFormed: a Causeway row names port 24 or 25. -/
theorem wf_causeway : (Instr.fenceNotice 24 0).wf = true ∧
    [Instr.heartbeat 23 0 0 0, .fenceNotice 23 0, .imagePart 23 0 0 [], .causewayJournal 26 ⟨0, 0, [], []⟩,
     .twinAcknowledgement 23 0 true].any Instr.wf = false := by decide +kernel

/-- WellFormed: pool ids of messages have 12 bits, halves are 0 or 1, image parts hold at most 4,096 bytes. -/
theorem wf_sources :
    [Instr.heartbeat 24 4096 0 0, .fenceNotice 24 4096, .probe 0 4096, .probeAck 0 4096, .planPrepare 0 4096 0 [] 0,
     .planPrepareAnswer 0 4096 0 ⟨true, 0, 0, 0, 0⟩, .planCommit 0 4096 0, .planAbort 0 4096 0, .pauseNotice 0 4096,
     .certMessage 0 4096 [], .planArm 0 4096 0 0, .planStopNotice 0 4096 0 false, .planMemberAck 0 4096 0 0,
     .commitNotice 0 4096 0 0 0 0 0 0, .commitNoticeAck 0 4096 0 0, .retireReq 0 2, .retireAck 0 2,
     .resyncWatermark 4096 0 0].any Instr.wf = false := by decide +kernel
theorem wf_imagePart : (Instr.imagePart 24 0 0 (List.replicate 4096 0)).wf = true ∧
    (Instr.imagePart 24 0 0 (List.replicate 4097 0)).wf = false := by decide +kernel

/-- WellFormed: commit notices name a 16-bit table, a 12-bit slot and pool id and a 55-bit address. -/
theorem wf_commits : (Instr.commitNotice 0 0 65535 4095 4095 (2 ^ 55 - 1) 0 0).wf = true ∧
    [Instr.commitNotice 0 0 65536 0 0 0 0 0, .commitNotice 0 0 0 4096 0 0 0 0, .commitNotice 0 0 0 0 4096 0 0 0,
     .commitNotice 0 0 0 0 0 (2 ^ 55) 0 0, .commitNoticeAck 0 0 65536 0, .commitNoticeAck 0 0 0 4096, .ferryCopyDone 65536 0 0,
     .ferryCopyDone 0 4096 0].any Instr.wf = false := by decide +kernel

/-- WellFormed: functions are below 256, ring ids below 4,096, vectors below 2,048, image sources 0 or 1. -/
theorem wf_functions :
    [Instr.doorbellPoll 256 0, .doorbellPollReturn 256 0 .refused, .ringSetupCreate 256, .flr 256, .busMasterEnableSet 256,
     .msixUnmask 256 0, .msixUnmask 0 2048, .ringSetupDestroy 256 0, .ringSetupDestroy 0 4096, .ringErrorRecord 4096 true,
     .msixModerationTimeout 4096, .fwImageVerify 2 .refused, .msixAllocWrite 256 0, .vfBindWrite 0 0,
     .vfBindWrite 256 0].any Instr.wf = false ∧ (Instr.vfBindWrite 1 0).wf = true := by decide +kernel

/-- WellFormed: register and BAR2 accesses. -/
theorem wf_registers :
    [Instr.strBindWrite 24 0 0, .strBindWrite 0 2048 0, .domainSelectWrite 100 0, .clockSwitchDone (some 100), .trdBeatLoRead 3,
     .cswEpochLoRead 0, .registerWrite 256 0 4 0, .registerWrite 0 0 3 0, .bar2Read 256 0 1 [], .bar2Read 0 (2 ^ 55) 1 [],
     .bar2Read 0 0 0 [], .bar2Read 0 0 4097 [], .bar2Write 256 0 [0], .bar2Write 0 (2 ^ 55) [0], .bar2Write 0 0 []].any Instr.wf = false ∧
    (Instr.bar2Write 0 0 (List.replicate 4097 0)).wf = false ∧ (Instr.strBindWrite 23 2047 0).wf = true := by decide +kernel

/-- WellFormed: firmware tables lie in the flash that firmware keeps for itself, between 0x2FE2600000 and 0x3000000000. -/
theorem wf_tables : (Instr.firmwareStart 0x2FE2600000).wf = true ∧
    [Instr.firmwareStart 0x2FE25FFFFF, .firmwareStart 0x3000000000].any Instr.wf = false := by decide +kernel

/-- WellFormed: SMBus addresses of 7 bits, steps below 16, 8-bit causes, millivolts below 1,024. -/
theorem wf_pins :
    [Instr.readId ⟨128, true⟩, .setPoolId ⟨128, true⟩ 0, .setAddr ⟨128, true⟩ 0, .commit ⟨128, true⟩, .readStatus ⟨128, true⟩,
     .powerupStep 16 ⟨⟨0, 0, 0, true⟩, [], false, 0⟩, .clkRefLost 256, .beatUnsynced 256, .vloomAdjust 1024].any Instr.wf = false := by decide +kernel

/-- WellFormed: device offsets of 52 bits, pages of 39 bits and isles of 14, channels below 16, agents below 1,024, 64-bit
handles, 16-bit Atolls. -/
theorem wf_places :
    [Instr.watchedWakeup (2 ^ 52), .snoopTimeout (2 ^ 52), .flashReadDone (2 ^ 52) .clean false, .flashProgramDone (2 ^ 52) .clean,
     .patrolScrub (2 ^ 52) false .clean, .flashScrub (2 ^ 52) .clean false, .tlbWalkDone 16384 0 .clean, .tlbWalkDone 0 (2 ^ 39) .clean,
     .promotionCommit 16384 0, .moveCommit 0 (2 ^ 39), .flashEraseDone 16 .clean, .channelFailed 16, .garbageCollection 16 0,
     .agentSweepDone 1024, .handoffExpiry (2 ^ 64), .orphanReclaim (2 ^ 64), .oldRootFree 16384 0,
     .oldRootFree 0 65536].any Instr.wf = false ∧ (Instr.watchedWakeup (2 ^ 52 - 1)).wf = true := by decide +kernel

end Sys2Proof.Tests
end

/-! ## What leaves the cells of the store alone

One equation per function of the model that writes no byte: its result holds the cells it was given. They stand in the order of the
model's chapters. -/

namespace Sys2Proof.Machine
section
variable (k : CmdKey) (s : State)

/-- Of a choice between two states, the cells are those of the state chosen. -/
@[simp] theorem cells_ite (c : Prop) [Decidable c] (s t : State) :
    (if c then s else t).store.cells = if c then s.store.cells else t.store.cells := apply_ite (fun u : State => u.store.cells) ..

/-- A loop of passes that leave the cells alone leaves them alone. -/
@[simp] theorem foldl_cells {α : Type} {f : State → α → State} (hf : ∀ s a, (f s a).store.cells = s.store.cells) (l : List α) (s : State) :
    (l.foldl f s).store.cells = s.store.cells := by
  induction l generalizing s with
  | nil => rfl
  | cons a l ih => rw [List.foldl_cons, ih, hf]

/-- The same of a loop that carries a value beside the state. -/
theorem foldl_snd_cells {α β : Type} {f : β × State → α → β × State} (hf : ∀ r a, (f r a).2.store.cells = r.2.store.cells) (l : List α)
    (r : β × State) : (l.foldl f r).2.store.cells = r.2.store.cells := by
  induction l generalizing r with
  | nil => rfl
  | cons a l ih => rw [List.foldl_cons, ih, hf]

/-! ### Mem.lean -/

@[simp] theorem markPoison_cells (line : Nat) (p : Bool) : (markPoison line p s).store.cells = s.store.cells := by simp [markPoison]

/-! ### Ops.lean -/

@[simp] theorem sendMsix_cells (fn vec : Nat) : (sendMsix fn vec s).store.cells = s.store.cells := by simp [sendMsix]
@[simp] theorem countIrq_cells (q : Nat) : (countIrq q s).store.cells = s.store.cells := by
  unfold countIrq; split <;> simp

@[simp] theorem raise_cells (e : Event) : (raise e s).store.cells = s.store.cells := by simp [raise]

@[simp] theorem countSent_cells (dst stream : Nat) : (countSent dst stream s).store.cells = s.store.cells := by simp [countSent]
@[simp] theorem emitReply_cells (h : Hdr) (f : Nat → Out) : (emitReply h f s).store.cells = s.store.cells := by simp [emitReply]
@[simp] theorem answerSub_cells (c : Cmd) (h : Hdr) : (answerSub c h s).store.cells = s.store.cells := by simp [answerSub]
@[simp] theorem releaseEngines_cells : (releaseEngines k s).store.cells = s.store.cells := by simp [releaseEngines]
@[simp] theorem endCmd_cells (status count0 count1 : Nat) : (endCmd k status count0 count1 s).store.cells = s.store.cells := by
  unfold endCmd
  repeat' split
  all_goals simp

@[simp] theorem endCmd64_cells (status v : Nat) : (endCmd64 k status v s).store.cells = s.store.cells := by simp [endCmd64]
@[simp] theorem endFree_cells (status : Nat) : (endFree k status s).store.cells = s.store.cells := by simp [endFree]
@[simp] theorem endStale_cells : (endStale k s).store.cells = s.store.cells := by simp [endStale]
@[simp] theorem badDesc_cells : (badDesc k s).store.cells = s.store.cells := by simp [badDesc]
@[simp] theorem startCmd_cells : (startCmd k s).store.cells = s.store.cells := by simp [startCmd]
@[simp] theorem twinSend_cells (kind : Nat) (words : List Nat) (bytes : List Byte) :
    (twinSend kind words bytes s).store.cells = s.store.cells := by simp [twinSend]
@[simp] theorem twinFor_cells (kind : Nat) (words : List Nat) (bytes : List Byte) :
    (twinFor k kind words bytes s).store.cells = s.store.cells := by simp [twinFor]
@[simp] theorem twinNote_cells (kind : Nat) (words : List Nat) (bytes : List Byte) :
    (twinNote kind words bytes s).store.cells = s.store.cells := by simp [twinNote]
@[simp] theorem setIsle_cells (k : Option CmdKey) (i : Nat) (r : Option Isle) : (setIsle k i r s).store.cells = s.store.cells := by
  unfold setIsle
  repeat' split
  all_goals simp

/-! ### Xlat.lean -/

@[simp] theorem faultEvent_cells (isle va st : Nat) : (faultEvent isle va st s).store.cells = s.store.cells := by simp [faultEvent]
@[simp] theorem tlbFill_cells (holder isle vpage e : Nat) :
    (tlbFill holder isle vpage e s).store.cells = s.store.cells := by simp [tlbFill]
@[simp] theorem tlbDrop_cells (p : TlbEntry → Bool) : (tlbDrop p s).store.cells = s.store.cells := by simp [tlbDrop]
@[simp] theorem tlbRewrite_cells (isle vpage e : Nat) : (tlbRewrite isle vpage e s).store.cells = s.store.cells := by simp [tlbRewrite]
@[simp] theorem lineEvent_cells (code unit off : Nat) : (lineEvent code unit off s).store.cells = s.store.cells := by
  unfold lineEvent; split <;> simp

@[simp] theorem setRegion_cells (isle id : Nat) (r : Option Region) :
    (setRegion isle id r s).store.cells = s.store.cells := by simp [setRegion]

/-! ### Heddle.lean -/

@[simp] theorem putOrFree_cells (off : Nat) (e : DirEntry) : (putOrFree off e s).store.cells = s.store.cells := by simp [putOrFree]
@[simp] theorem cachePut_cells (c : CacheLine) : (cachePut c s).store.cells = s.store.cells := by simp [cachePut]
@[simp] theorem intInvalidate_cells (off : Nat) : (intInvalidate off s).2.store.cells = s.store.cells := by simp [intInvalidate]
@[simp] theorem intShare_cells (off : Nat) : (intShare off s).store.cells = s.store.cells := by simp [intShare]
@[simp] theorem sendSnoop_cells (off : Nat) (inv : Bool) (x : Nat × Nat) : (sendSnoop off inv s x).store.cells = s.store.cells := by
  unfold sendSnoop; split <;> simp

@[simp] theorem openTxn_cells (off : Nat) (who : Who) (inv : Bool) (dests : List Nat) (discard : Bool) :
    (openTxn off who inv dests discard s).store.cells = s.store.cells := by simp [openTxn]
@[simp] theorem wake_cells (off : Nat) : (wake off s).store.cells = s.store.cells := by simp [wake]
@[simp] theorem reclaim_cells (idx off : Nat) : (reclaim idx s off).store.cells = s.store.cells := by
  unfold reclaim; dsimp only
  repeat' split
  all_goals simp [intInvalidate]

@[simp] theorem tidyEntry_cells (off : Nat) : (tidyEntry off s).store.cells = s.store.cells := by simp [tidyEntry]
@[simp] theorem cacheWrite_cells (cl off : Nat) (f : Line → Line) :
    (cacheWrite cl off f s).store.cells = s.store.cells := by simp [cacheWrite]
@[simp] theorem settleEntry_cells (off : Nat) (t : Txn) : (settleEntry off t s).store.cells = s.store.cells := by
  unfold settleEntry
  repeat' split
  all_goals simp

/-! ### Access.lean -/

@[simp] theorem startPromotion_cells (isle vpage p : Nat) (t : Tier) :
    (startPromotion isle vpage p t s).store.cells = s.store.cells := by
  unfold startPromotion; split <;> simp

@[simp] theorem touchPage_cells (p n : Nat) : (touchPage p n s).store.cells = s.store.cells := by simp [touchPage]
@[simp] theorem flashReady_cells (p : Nat) : (flashReady k p s).2.store.cells = s.store.cells := by
  unfold flashReady
  repeat' split
  all_goals simp

@[simp] theorem issue_cells (vps : List Nat) : (issue k vps s).store.cells = s.store.cells := by simp [issue]
@[simp] theorem touchSpan_cells (isle : Nat) (r : Span) : (touchSpan isle s r).store.cells = s.store.cells := by
  unfold touchSpan
  refine foldl_cells (fun s p => ?_) _ s
  split <;> simp

@[simp] theorem awaitItems_cells (id : Nat) : (awaitItems k id s).store.cells = s.store.cells := by simp [awaitItems]
@[simp] theorem poisonLine_cells (mir : Bool) (line : Nat) :
    (poisonLine mir line s).store.cells = s.store.cells := by simp [poisonLine]
@[simp] theorem poisonFound_cells (line : Nat) : (poisonFound line s).store.cells = s.store.cells := by simp [poisonFound]
@[simp] theorem dramFault_cells (line : Nat) : (dramFault line s).store.cells = s.store.cells := by simp [dramFault]
@[simp] theorem countTransient_cells : (countTransient s).store.cells = s.store.cells := by simp [countTransient]
@[simp] theorem lineFault_cells (f : LineFault) : (lineFault s f).store.cells = s.store.cells := by simp [lineFault]

/-! ### Lead.lean -/

@[simp] theorem updSub_cells (i : Nat) (f : Sub → Sub) : (updSub k i f s).store.cells = s.store.cells := by simp [updSub]
@[simp] theorem sendSub_cells (i dest : Nat) (flag direct : Bool) : (sendSub k i dest flag direct s).store.cells = s.store.cells := by
  unfold sendSub; dsimp only
  repeat' split
  all_goals simp

@[simp] theorem startSubs_cells (subs : List Sub) : (startSubs k subs s).store.cells = s.store.cells := by simp [startSubs]
@[simp] theorem answerShare_cells (i : Nat) (h : Home) : (answerShare k i h s).store.cells = s.store.cells := by
  unfold answerShare; split <;> simp

@[simp] theorem failLead_cells (x : Sub) : (failLead k x s).store.cells = s.store.cells := by simp [failLead]
@[simp] theorem endServed_cells (h : Home) : (endServed k h s).store.cells = s.store.cells := by
  unfold endServed; split <;> simp

@[simp] theorem sendManage_cells (dst : Nat) (op : Mgmt) (words : List Nat) :
    (sendManage dst op words s).store.cells = s.store.cells := by
  unfold sendManage; split <;> simp

/-! ### Lagoon.lean -/

@[simp] theorem noteSeq_cells (key : Nat) : (noteSeq key s).store.cells = s.store.cells := by
  unfold noteSeq; split <;> simp

@[simp] theorem putSeq_cells (isle slot : Nat) (q : KvSeq) : (putSeq isle slot q s).store.cells = s.store.cells := by simp [putSeq]
@[simp] theorem nameHome_cells (home : Nat) : (nameHome k home s).store.cells = s.store.cells := by simp [nameHome]
@[simp] theorem setKvPage_cells (h layer idx pk : Nat) :
    (setKvPage h layer idx pk s).store.cells = s.store.cells := by simp [setKvPage]
@[simp] theorem dropSeqPages_cells (h : Nat) : (dropSeqPages h s).store.cells = s.store.cells := by simp [dropSeqPages]
@[simp] theorem unreserve_cells (h : Nat) (l : List Nat) : (unreserve h l s).store.cells = s.store.cells := by
  induction l, s using unreserve.induct h with
  | case1 s l i o r ih => rw [unreserve, ih]; split <;> rfl
  | case2 l s hl => rw [unreserve]; exact hl

@[simp] theorem homeAppend_cells (isle lead ring : Nat) (c : Cmd) :
    (homeAppend k isle lead ring c s).2.store.cells = s.store.cells := by
  unfold homeAppend; dsimp only
  repeat' split
  all_goals simp

@[simp] theorem endMutation_cells (isle lead h : Nat) (fill : Option (Nat × Nat × Nat)) :
    (endMutation k isle lead h fill s).store.cells = s.store.cells := by
  unfold endMutation; split <;> simp

@[simp] theorem appendCommit_cells : (appendCommit k s).store.cells = s.store.cells := by
  unfold appendCommit; split <;> simp

@[simp] theorem askHome_cells (c : Cmd) (h : Nat) (extra : List Nat) :
    (askHome k c h extra s).store.cells = s.store.cells := by simp [askHome]
theorem newSeq_cells (isle : Nat) (q : KvSeq) {a : Nat} {t : State} (e : newSeq isle q s = some (a, t)) :
    t.store.cells = s.store.cells := by
  unfold newSeq at e
  split at e <;> cases e
  simp

@[simp] theorem destroySeq_cells (isle h : Nat) : (destroySeq isle h s).store.cells = s.store.cells := by simp [destroySeq]
@[simp] theorem homePublish_cells (isle : Nat) (c : Cmd) (w : List Nat) : (homePublish isle c w s).2.store.cells = s.store.cells := by
  unfold homePublish; dsimp only
  repeat' split
  all_goals simp

@[simp] theorem homeSeqRelease_cells (isle : Nat) (c : Cmd) (d : SubData) :
    (homeSeqRelease isle c d s).2.store.cells = s.store.cells := by
  unfold homeSeqRelease; dsimp only
  repeat' split
  all_goals simp

@[simp] theorem homeQuery_cells (isle : Nat) (c : Cmd) : (homeQuery isle c s).2.store.cells = s.store.cells := by
  unfold homeQuery; split <;> simp

@[simp] theorem homeOffer_cells (isle ring : Nat) (c : Cmd) : (homeOffer isle ring c s).2.store.cells = s.store.cells := by
  unfold homeOffer
  repeat' split
  all_goals simp

@[simp] theorem homeAccept_cells (isle ring : Nat) (c : Cmd) : (homeAccept isle ring c s).2.store.cells = s.store.cells := by
  unfold homeAccept
  repeat' split
  all_goals simp

@[simp] theorem seqEvent_cells (code h : Nat) (q : KvSeq) : (seqEvent code h q s).store.cells = s.store.cells := by simp [seqEvent]
@[simp] theorem orphan_cells (isle h : Nat) (q : KvSeq) : (orphan isle h q s).store.cells = s.store.cells := by simp [orphan]
@[simp] theorem dropAtHolders_cells (h : Nat) (q : KvSeq) : (dropAtHolders h q s).store.cells = s.store.cells := by
  unfold dropAtHolders; dsimp only
  refine foldl_cells (fun s p => ?_) _ s
  repeat' split
  all_goals simp

@[simp] theorem ringsGone_cells (rings : List Nat) : (ringsGone rings s).store.cells = s.store.cells := by simp [ringsGone]
@[simp] theorem ringGone_cells (sq : Nat) : (ringGone sq s).store.cells = s.store.cells := by simp [ringGone]

/-! ### Fences.lean -/

@[simp] theorem takeEntry_cells (isle va : Nat) : (takeEntry k isle va s).store.cells = s.store.cells := by
  unfold takeEntry; split <;> simp

/-! ### Weave.lean -/

@[simp] theorem setSync_cells (n : Nat) : (setSync k n s).store.cells = s.store.cells := by simp [setSync]
@[simp] theorem killItem_cells (i : Nat) : (killItem k i s).store.cells = s.store.cells := by simp [killItem]
@[simp] theorem setSlot_cells (i n : Nat) (v : SlotVal) : (setSlot k i n v s).store.cells = s.store.cells := by simp [setSlot]

/-! ### Attn.lean -/

@[simp] theorem attnAsk_cells (c : Cmd) : (attnAsk k c s).store.cells = s.store.cells := by simp [attnAsk]

/-! ### Clocks.lean -/

@[simp] theorem selectRef_cells (forced lane : Bool) : (selectRef forced lane s).store.cells = s.store.cells := by simp [selectRef]
@[simp] theorem takeLane_cells : (takeLane s).store.cells = s.store.cells := by simp [takeLane]
@[simp] theorem writeSrcCtrl_cells (value : BitVec 32) : (writeSrcCtrl value s).store.cells = s.store.cells := by simp [writeSrcCtrl]

/-! ### Dma.lean -/

@[simp] theorem progress_cells (n st : Nat) : (progress k n st s).store.cells = s.store.cells := by simp [progress]
@[simp] theorem spendBudget_cells (c : Cmd) (vas : List Nat) : (spendBudget c vas s).store.cells = s.store.cells := by
  unfold spendBudget; split <;> simp

/-! ### Emb.lean -/

@[simp] theorem bumpSlot_cells (key reads staged : Nat) :
    (bumpSlot key reads staged s).store.cells = s.store.cells := by simp [bumpSlot]
@[simp] theorem homeReserve_cells (isle tid src useq n : Nat) (step : BitVec 32) :
    (homeReserve isle tid src useq n step s).2.store.cells = s.store.cells := by
  unfold homeReserve; dsimp only
  repeat' split
  all_goals simp

@[simp] theorem homeRelease_cells (isle tid src useq : Nat) (step : BitVec 32) :
    (homeRelease isle tid src useq step s).2.store.cells = s.store.cells := by simp [homeRelease]
@[simp] theorem rollBack_cells (status : Nat) : (rollBack status s).store.cells = s.store.cells := by
  unfold rollBack; split <;> simp

@[simp] theorem sendCommit_cells : (sendCommit s).store.cells = s.store.cells := by
  unfold sendCommit; split <;> simp

@[simp] theorem interruptCloses_cells (lead : Nat → Bool) :
    (interruptCloses lead s).store.cells = s.store.cells := by simp [interruptCloses]
@[simp] theorem homePrepare_cells (isle tid : Nat) (step : BitVec 32) :
    (homePrepare isle tid step s).2.store.cells = s.store.cells := by
  unfold homePrepare; dsimp only
  repeat' split
  all_goals simp

@[simp] theorem homeReopen_cells (isle tid : Nat) (step : BitVec 32) : (homeReopen isle tid step s).2.store.cells = s.store.cells := by
  unfold homeReopen; dsimp only
  repeat' split
  all_goals simp

/-! ### Requests.lean -/

@[simp] theorem sendMsg_cells (h : Hdr) (op status grant detail : Nat) (lines : List WireLine) (words : List Nat) :
    (sendMsg h op status grant detail lines words s).store.cells = s.store.cells := by simp [sendMsg]
@[simp] theorem sendStatus_cells (h : Hdr) (status detail : Nat) :
    (sendStatus h status detail s).store.cells = s.store.cells := by simp [sendStatus]
@[simp] theorem answerBar2_cells (r : Req) (fn status : Nat) (lines : List (Line × Bool)) :
    (answerBar2 r fn status lines s).store.cells = s.store.cells := by simp [answerBar2]
@[simp] theorem deliver_cells (r : Req) (status : Nat) (lines : List (Line × Bool)) (grant : Nat) (prior : BitVec 128) :
    (deliver r status lines grant prior s).store.cells = s.store.cells := by
  unfold deliver
  repeat' split
  all_goals simp

@[simp] theorem refuse_cells (r : Req) (status : Nat) : (refuse r status s).store.cells = s.store.cells := by simp [refuse]
@[simp] theorem deliverRun_cells (r : Req) (lines : List (Line × Nat)) :
    (deliverRun r lines s).store.cells = s.store.cells := by simp [deliverRun]
@[simp] theorem takeAlive_cells (port key : Nat) (alive : BitVec 16) : (takeAlive port key alive s).2.store.cells = s.store.cells := by
  unfold takeAlive; dsimp only
  repeat' split
  all_goals simp

@[simp] theorem receive_cells (h : Hdr) (held : Bool) : (receive h held s).2.store.cells = s.store.cells := by
  unfold receive; split <;> simp

@[simp] theorem overflow_cells (set : Nat) (r : Req) : (overflow set r s).store.cells = s.store.cells := by
  unfold overflow
  repeat' split
  all_goals simp

@[simp] theorem startWalk_cells (isle vpage : Nat) : (startWalk isle vpage s).store.cells = s.store.cells := by simp [startWalk]
@[simp] theorem noteDir_cells (off : Nat) (before : List Nat) : (noteDir off before s).store.cells = s.store.cells := by simp [noteDir]
@[simp] theorem noteWindow_cells (idx : Nat) (r : Req) : (noteWindow idx r s).store.cells = s.store.cells := by
  unfold noteWindow; split <;> simp

@[simp] theorem grantTo_cells (idx : Nat) (r : Req) (line : Nat) (before : List Nat) (g : Hed) :
    (grantTo idx r line before g s).2.store.cells = s.store.cells := by
  unfold grantTo; split <;> simp

@[simp] theorem doDirty_cells (idx line : Nat) : (doDirty idx line s).store.cells = s.store.cells := by
  unfold doDirty; split <;> simp

@[simp] theorem respond_cells (r : Req) (id status : Nat) (lines : List (Line × Bool)) (grant : Nat) (prior : BitVec 128) :
    (respond r id status lines grant prior s).store.cells = s.store.cells := by simp [respond]

/-! ### Ingress.lean -/

@[simp] theorem fenceSelf_cells (cause epochSeen : Nat) : (fenceSelf cause epochSeen s).store.cells = s.store.cells := by
  unfold fenceSelf
  split
  · rfl
  · rw [raise_cells]
    refine (foldl_cells (fun s c => ?_) _ _).trans ?_
    · split
      · split <;> simp
      · simp
    · refine (foldl_cells (fun s w => ?_) _ _).trans ?_
      · split <;> simp
      · simp

@[simp] theorem fenceFault_cells (unit : Nat) : (fenceFault unit s).store.cells = s.store.cells := by simp [fenceFault]
@[simp] theorem dropCaching_cells (a : Agent) : (dropCaching a s).store.cells = s.store.cells := by simp [dropCaching]
@[simp] theorem attachAgent_cells (space key : Nat) (v : BitVec 64) : (attachAgent space key v s).store.cells = s.store.cells := by
  unfold attachAgent; split <;> simp

@[simp] theorem attachAll_cells : (attachAll s).store.cells = s.store.cells := by simp [attachAll]
@[simp] theorem forPartner_cells (r : Req) : (forPartner r s).store.cells = s.store.cells := by simp [forPartner]

/-! ### Regions.lean -/

@[simp] theorem noteEntries_cells (isle : Nat) (vps : List Nat) :
    (noteEntries k isle vps s).store.cells = s.store.cells := by simp [noteEntries]
@[simp] theorem endFirst_cells (status c0 : Nat) : (endFirst k status c0 s).store.cells = s.store.cells := by simp [endFirst]
@[simp] theorem mapWindow_cells (c : Cmd) : (mapWindow k c s).store.cells = s.store.cells := by simp [mapWindow]
@[simp] theorem startWd_cells (cmd : Option CmdKey) (kind isle : Nat) (vpages windows : List Nat) (obj : Nat) :
    (startWd cmd kind isle vpages windows obj s).store.cells = s.store.cells := by simp [startWd]
@[simp] theorem dropMutation_cells : (dropMutation k s).store.cells = s.store.cells := by
  unfold dropMutation; dsimp only
  repeat' split
  all_goals simp

@[simp] theorem cutCmd_cells (id : Nat) (c : Cmd) : (cutCmd id s c).store.cells = s.store.cells := by simp [cutCmd]
@[simp] theorem cutRequests_cells (w : Withdrawal) : (cutRequests w s).store.cells = s.store.cells := by simp [cutRequests]
@[simp] theorem endDrain_cells (w : Withdrawal) : (endDrain w s).store.cells = s.store.cells := by simp [endDrain]
@[simp] theorem releaseReserved_cells (c : Cmd) (i : Nat) : (releaseReserved c i s).store.cells = s.store.cells := by
  unfold releaseReserved
  exact foldl_cells (fun s x => by simp) _ s

@[simp] theorem forget_cells : (forget k s).store.cells = s.store.cells := by simp [forget]
@[simp] theorem abandon_cells : (abandon k s).store.cells = s.store.cells := by
  unfold abandon; split <;> simp

/-! ### Tide.lean -/

@[simp] theorem startWaiting_cells : (startWaiting s).store.cells = s.store.cells := by
  unfold startWaiting
  refine foldl_cells (fun s x => ?_) _ _
  repeat' split
  all_goals simp

@[simp] theorem tideMove_cells (p : Nat) (t : Tier) : (tideMove p t s).2.store.cells = s.store.cells := by
  unfold tideMove
  repeat' split
  all_goals simp

@[simp] theorem tideStep_cells (t : Tier) (go : Eval → Bool) (eff : Eval → Eval) (l : List (Nat × Page)) (v : Eval) :
    (tideStep t go eff l v s).2.store.cells = s.store.cells := by
  unfold tideStep
  refine foldl_snd_cells (fun r x => ?_) l (v, s)
  dsimp only
  repeat' split
  all_goals simp

@[simp] theorem tideEval_cells : (tideEval s).store.cells = s.store.cells := by
  unfold tideEval; dsimp only
  repeat' split
  all_goals simp

@[simp] theorem loseNand_cells (off : Nat) : (loseNand off s).store.cells = s.store.cells := by
  unfold loseNand
  split
  · rfl
  · rw [lineEvent_cells]
    exact foldl_cells (fun s i => by simp) _ s

@[simp] theorem useSpare_cells (n : Nat) : (useSpare n s).store.cells = s.store.cells := by
  unfold useSpare; split <;> simp

/-! ### Serve.lean -/

@[simp] theorem refuseSub_cells (h : Hdr) (status detail : Nat) :
    (refuseSub h status detail s).store.cells = s.store.cells := by simp [refuseSub]
@[simp] theorem holdSub_cells (h : Hdr) (id desc : Nat) (d : SubData) (aux : List Nat) :
    (holdSub h id desc d aux s).store.cells = s.store.cells := by simp [holdSub]
@[simp] theorem forwardSub_cells (h : Hdr) (isle dst desc : Nat) (d : SubData) :
    (forwardSub h isle dst desc d s).store.cells = s.store.cells := by
  unfold forwardSub; dsimp only
  repeat' split
  all_goals simp

@[simp] theorem openSteps_cells (m : CompMap) : (openSteps m s).store.cells = s.store.cells := by simp [openSteps]

/-! ### Plans.lean -/

@[simp] theorem notePlan_cells (h : Nat) : (notePlan h s).store.cells = s.store.cells := by
  unfold notePlan
  repeat' split
  all_goals simp

@[simp] theorem dropPlan_cells (h : Nat) : (dropPlan h s).store.cells = s.store.cells := by simp [dropPlan]
@[simp] theorem putPlan_cells (h : Nat) (p : Plan) : (putPlan h p s).store.cells = s.store.cells := by simp [putPlan]
@[simp] theorem tellMembers_cells (p : Plan) (l : List Nat) (op : Mgmt) (words : List Nat) :
    (tellMembers p l op words s).store.cells = s.store.cells := by simp [tellMembers]
@[simp] theorem admitRefused_cells (reason pick resource beat : Nat) :
    (admitRefused k reason pick resource beat s).store.cells = s.store.cells := by simp [admitRefused]
@[simp] theorem holdVoltage_cells : (holdVoltage s).store.cells = s.store.cells := by simp [holdVoltage]
@[simp] theorem armPlan_cells (h : Nat) (start : BitVec 48) : (armPlan h start s).store.cells = s.store.cells := by simp [armPlan]
@[simp] theorem pausePlan_cells (reason cause h : Nat) : (pausePlan reason cause h s).store.cells = s.store.cells := by
  unfold pausePlan; split <;> simp

@[simp] theorem settlePlan_cells (h : Nat) : (settlePlan h s).store.cells = s.store.cells := by
  unfold settlePlan; dsimp only
  repeat' split
  all_goals simp

@[simp] theorem settlePlans_cells : (settlePlans s).store.cells = s.store.cells := by simp [settlePlans]
@[simp] theorem stopPlan_cells (h mode : Nat) : (stopPlan h mode s).store.cells = s.store.cells := by
  unfold stopPlan
  repeat' split
  all_goals simp

@[simp] theorem stopPlansOf_cells (f : Nat → Plan → Bool) : (stopPlansOf f s).store.cells = s.store.cells := by simp [stopPlansOf]
@[simp] theorem takeHandle_cells : (takeHandle s).2.store.cells = s.store.cells := by simp [takeHandle]
@[simp] theorem admitPlan_cells (c : Cmd) (t : PlanText) (bytes : List Byte) :
    (admitPlan k c t bytes s).store.cells = s.store.cells := by simp [admitPlan]
@[simp] theorem decidePlan_cells (h : Nat) : (decidePlan h s).store.cells = s.store.cells := by
  unfold decidePlan
  repeat' split
  all_goals simp

@[simp] theorem releaseTentative_cells (handle : Nat) :
    (releaseTentative handle s).store.cells = s.store.cells := by simp [releaseTentative]
@[simp] theorem acksIn_cells (h : Nat) : (acksIn h s).store.cells = s.store.cells := by
  unfold acksIn
  repeat' split
  all_goals simp

@[simp] theorem declareUnsynced_cells : (declareUnsynced s).store.cells = s.store.cells := by simp [declareUnsynced]
@[simp] theorem fitPort_cells (port n : Nat) : (fitPort port n s).store.cells = s.store.cells := by
  induction n generalizing s with
  | zero => rfl
  | succ n ih =>
    unfold fitPort; dsimp only
    split <;> split
    any_goals rfl
    all_goals split
    all_goals simp [ih]

@[simp] theorem turnPlan_cells (h : Nat) : (turnPlan s h).store.cells = s.store.cells := by
  unfold turnPlan
  repeat' split
  all_goals simp

@[simp] theorem releasePick_cells (h : Nat) (p : Plan) (k : Nat × Pick) : (releasePick h p s k).store.cells = s.store.cells := by
  unfold releasePick; split <;> simp

@[simp] theorem releasePicks_cells (h : Nat) : (releasePicks s h).store.cells = s.store.cells := by
  unfold releasePicks; split <;> simp

@[simp] theorem reloadBudgets_cells : (reloadBudgets s).store.cells = s.store.cells := by simp [reloadBudgets]
@[simp] theorem sendMarkers_cells : (sendMarkers s).store.cells = s.store.cells := by
  unfold sendMarkers
  refine (foldl_cells (fun s p => by simp) _ _).trans ?_
  split
  · exact foldl_cells (fun s p => by simp) _ s
  · rfl

@[simp] theorem overrunPick_cells : (overrunPick k s).store.cells = s.store.cells := by
  unfold overrunPick; split <;> simp

@[simp] theorem pickWritten_cells : (pickWritten k s).store.cells = s.store.cells := by
  unfold pickWritten; dsimp only
  repeat' split
  all_goals simp

/-! ### Rings.lean -/

@[simp] theorem noteRing_cells (sq : Nat) : (noteRing sq s).store.cells = s.store.cells := by
  unfold noteRing
  repeat' split
  all_goals simp

@[simp] theorem noteCq_cells (cq : Nat) : (noteCq cq s).store.cells = s.store.cells := by simp [noteCq]
@[simp] theorem sqError_cells (sq cause : Nat) : (sqError sq cause s).store.cells = s.store.cells := by simp [sqError]
@[simp] theorem ringErrorEvent_cells (sq : Nat) : (ringErrorEvent sq s).store.cells = s.store.cells := by
  unfold ringErrorEvent; split <;> simp

@[simp] theorem cqBroken_cells (cq cause : Nat) : (cqBroken cq cause s).store.cells = s.store.cells := by
  unfold cqBroken
  refine (foldl_cells (fun s sq => ?_) _ _).trans (by simp)
  repeat' split
  all_goals simp

@[simp] theorem giveSlot_cells (cq : Nat) : (giveSlot cq s).store.cells = s.store.cells := by simp [giveSlot]
@[simp] theorem finishReset_cells : (finishReset s k).store.cells = s.store.cells := by
  unfold finishReset; dsimp only
  repeat' split
  all_goals simp

@[simp] theorem finishResets_cells : (finishResets s).store.cells = s.store.cells := by simp [finishResets]
@[simp] theorem removeRing_cells (sq : Nat) : (removeRing sq s).store.cells = s.store.cells := by
  unfold removeRing
  repeat' split
  all_goals simp

@[simp] theorem tryRemove_cells (sq : Nat) : (tryRemove sq s).store.cells = s.store.cells := by
  unfold tryRemove; split <;> simp

@[simp] theorem beginDestroy_cells (sq : Nat) (cmd : Option CmdKey) (fn : Option Nat) :
    (beginDestroy sq cmd fn s).store.cells = s.store.cells := by simp [beginDestroy]
@[simp] theorem createRing_cells (fn isle : Nat) (r : Rec) :
    (createRing fn isle r s).2.2.store.cells = s.store.cells := by simp [createRing]
@[simp] theorem fnResult_cells (fn status : Nat) : (fnResult fn status s).store.cells = s.store.cells := by simp [fnResult]
@[simp] theorem setupDestroy_cells (fn sq : Nat) : (setupDestroy fn sq s).store.cells = s.store.cells := by
  unfold setupDestroy
  repeat' split
  all_goals simp

@[simp] theorem takeSqDoorbell_cells (sq : Nat) (b : List Byte) : (takeSqDoorbell sq b s).store.cells = s.store.cells := by
  unfold takeSqDoorbell; split <;> simp

@[simp] theorem takeCqDoorbell_cells (cq : Nat) (b : List Byte) : (takeCqDoorbell cq b s).store.cells = s.store.cells := by
  unfold takeCqDoorbell; split <;> simp

@[simp] theorem takeLine_cells (isSq : Sq → Bool) (isCq : Cq → Bool) (bs : List Byte) :
    (takeLine isSq isCq bs s).store.cells = s.store.cells := by simp [takeLine]
@[simp] theorem fetchRun_cells (sq n : Nat) : (fetchRun sq n s).store.cells = s.store.cells := by
  induction n generalizing s with
  | zero => rfl
  | succ n ih =>
    unfold fetchRun
    repeat' split
    all_goals simp [ih]

@[simp] theorem sqReadFailed_cells (cause : Nat) : (sqReadFailed k cause s).store.cells = s.store.cells := by
  unfold sqReadFailed; split <;> simp

@[simp] theorem dispatchCmd_cells (d : Nat) (arg : List Byte) (reread : Bool) :
    (dispatchCmd k d arg reread s).store.cells = s.store.cells := by simp [dispatchCmd]
@[simp] theorem readAgain_cells (q : Sq) : (readAgain k q s).store.cells = s.store.cells := by simp [readAgain]
@[simp] theorem leaveFlight_cells : (leaveFlight k s).store.cells = s.store.cells := by
  unfold leaveFlight; dsimp only
  repeat' split
  all_goals simp

@[simp] theorem unmaskVector_cells (fn vec : Nat) : (unmaskVector fn vec s).store.cells = s.store.cells := by simp [unmaskVector]

/-! ### Isles.lean -/

@[simp] theorem applyChange_cells (cut : Nat) : (applyChange k cut s).store.cells = s.store.cells := by
  unfold applyChange; dsimp only
  repeat' split
  all_goals simp

@[simp] theorem changeGo_cells (c : Cmd) : (changeGo k c s).store.cells = s.store.cells := by
  unfold changeGo; dsimp only
  repeat' split
  all_goals simp

@[simp] theorem abortCmds_cells (l : List Cmd) : (abortCmds l s).store.cells = s.store.cells := by
  unfold abortCmds
  refine foldl_cells (fun s c => ?_) _ s
  repeat' split
  all_goals simp

/-! ### Links.lean -/

@[simp] theorem portDown_cells (n cause : Nat) : (portDown n cause s).store.cells = s.store.cells := by simp [portDown]
@[simp] theorem watchLane_cells (n : Nat) : (watchLane n s).store.cells = s.store.cells := by simp [watchLane]
@[simp] theorem sendHello_cells (n : Nat) : (sendHello n s).store.cells = s.store.cells := by simp [sendHello]
@[simp] theorem floodBut_cells (skip dst : Nat) (op : Mgmt) (words : List Nat) :
    (floodBut skip dst op words s).store.cells = s.store.cells := by
  unfold floodBut
  exact foldl_cells (fun s n => by simp) _ s

@[simp] theorem startClaim_cells (n : Nat) : (startClaim n s).store.cells = s.store.cells := by
  unfold startClaim; dsimp only
  repeat' split
  all_goals simp

@[simp] theorem startPort_cells (n : Nat) : (startPort n s).store.cells = s.store.cells := by simp [startPort]
@[simp] theorem fitAfter_cells (n : Nat) : (fitAfter n s).store.cells = s.store.cells := by simp [fitAfter]
@[simp] theorem discardSubs_cells (gone : Nat → Bool) : (discardSubs gone s).store.cells = s.store.cells := by simp [discardSubs]
@[simp] theorem fallBack_cells (n half : Nat) : (fallBack n half s).store.cells = s.store.cells := by simp [fallBack]
@[simp] theorem retrainPort_cells (n : Nat) : (retrainPort n s).store.cells = s.store.cells := by simp [retrainPort]
@[simp] theorem settleSteps_cells : (settleSteps s).store.cells = s.store.cells := by simp [settleSteps]
@[simp] theorem disablePort_cells (n : Nat) : (disablePort n s).store.cells = s.store.cells := by
  unfold disablePort
  repeat' split
  all_goals simp

@[simp] theorem enablePort_cells (n : Nat) : (enablePort n s).store.cells = s.store.cells := by
  unfold enablePort; dsimp only
  repeat' split
  all_goals simp

@[simp] theorem writePortCtrl_cells (n : Nat) (value : BitVec 32) :
    (writePortCtrl n value s).store.cells = s.store.cells := by simp [writePortCtrl]
@[simp] theorem resetPort_cells (n : Nat) : (resetPort n s).store.cells = s.store.cells := by simp [resetPort]
@[simp] theorem loseCluster_cells (cl : Nat) : (loseCluster cl s).store.cells = s.store.cells := by
  unfold loseCluster
  refine foldl_cells (fun s c => ?_) _ _
  repeat' split
  all_goals simp

/-! ### Members.lean -/

@[simp] theorem learnEpoch_cells (pid : Nat) (e : BitVec 64) : (learnEpoch pid e s).store.cells = s.store.cells := by simp [learnEpoch]
@[simp] theorem addMember_cells (pid : Nat) : (addMember pid s).store.cells = s.store.cells := by simp [addMember]
@[simp] theorem sendImage_cells (n : Nat) : (sendImage n s).store.cells = s.store.cells := by
  unfold sendImage
  exact foldl_cells (fun s i => by simp) _ s

@[simp] theorem conflictEvent_cells (port pid : Nat) (nonce : BitVec 64) :
    (conflictEvent port pid nonce s).store.cells = s.store.cells := by simp [conflictEvent]
@[simp] theorem floodClaim_cells (port : Nat) (c : Claim) : (floodClaim port c s).store.cells = s.store.cells := by simp [floodClaim]
@[simp] theorem tellGone_cells : (tellGone s).store.cells = s.store.cells := by simp [tellGone]

/-! ### Twin.lean -/

@[simp] theorem sendOwnUnit_cells : (sendOwnUnit s).store.cells = s.store.cells := by
  unfold sendOwnUnit
  simp

@[simp] theorem sendHeldUnit_cells : (sendHeldUnit s).store.cells = s.store.cells := by simp [sendHeldUnit]
@[simp] theorem sendUnit_cells : (sendUnit s).store.cells = s.store.cells := by
  rw [sendUnit, twinSend_cells, sendHeldUnit_cells, sendOwnUnit_cells]

@[simp] theorem giveWay_cells (p : Nat) : (giveWay p s).store.cells = s.store.cells := by
  unfold giveWay; split <;> simp

@[simp] theorem pruneMirror_cells : (pruneMirror s).store.cells = s.store.cells := by simp [pruneMirror]
@[simp] theorem journalMark_cells (region role mark : Nat) :
    (journalMark region role mark s).store.cells = s.store.cells := by simp [journalMark]
@[simp] theorem inheritRing_cells (x : Nat × List Nat) : (inheritRing s x).store.cells = s.store.cells := by simp [inheritRing]
@[simp] theorem inheritPlan_cells (x : Nat × List Nat) : (inheritPlan s x).store.cells = s.store.cells := by simp [inheritPlan]
@[simp] theorem inheritSeq_cells (x : Nat × List Nat) : (inheritSeq s x).store.cells = s.store.cells := by simp [inheritSeq]
@[simp] theorem inheritLive_cells (held : Bool) : (inheritLive held s).store.cells = s.store.cells := by simp [inheritLive]
@[simp] theorem restoreLine_cells (x : Nat × List Nat) : (restoreLine s x).store.cells = s.store.cells := by
  unfold restoreLine
  split
  · rfl
  · dsimp only
    repeat' split
    all_goals try rw [setPoison_store]
    all_goals try rw [putOrFree_cells]
    all_goals exact foldl_cells (fun s h => by split <;> rfl) _ s

@[simp] theorem restoreDir_cells : (restoreDir s).store.cells = s.store.cells := by simp [restoreDir]
@[simp] theorem releaseHeld_cells : (releaseHeld s).store.cells = s.store.cells := by
  unfold releaseHeld
  refine (foldl_cells (fun s c => ?_) _ _).trans (foldl_cells (fun s r => ?_) _ _)
  · split <;> simp
  · split <;> simp

@[simp] theorem claimFor_cells (pid : Nat) (handback : Bool) (epoch : BitVec 64) (claimant : Nat) :
    (claimFor pid handback epoch claimant s).store.cells = s.store.cells := by simp [claimFor]
@[simp] theorem seize_cells (pid cause : Nat) : (seize pid cause s).store.cells = s.store.cells := by simp [seize]
@[simp] theorem tellRingsGone_cells (pid : Nat) (kept : List Nat) :
    (tellRingsGone pid kept s).store.cells = s.store.cells := by simp [tellRingsGone]
@[simp] theorem pauseFor_cells (pid : Nat) : (pauseFor pid s).store.cells = s.store.cells := by simp [pauseFor]
@[simp] theorem endPair_cells (status : Nat) : (endPair status s).store.cells = s.store.cells := by
  unfold endPair; split <;> simp

@[simp] theorem dropMirror_cells : (dropMirror s).store.cells = s.store.cells := by simp [dropMirror]
@[simp] theorem clearCursors_cells : (clearCursors s).store.cells = s.store.cells := by simp [clearCursors]
@[simp] theorem releasePool_cells : (releasePool s).store.cells = s.store.cells := by
  unfold releasePool
  refine (foldl_cells (fun s c => ?_) _ _).trans (foldl_cells (fun s r => ?_) _ _)
  · split <;> simp
  · split <;> simp

@[simp] theorem sendRange_cells (isle va len : Nat) : (sendRange isle va len s).store.cells = s.store.cells := by
  unfold sendRange
  refine (foldl_cells (fun s x => ?_) _ _).trans (by simp)
  split
  · rfl
  · exact (foldl_cells (fun s l => by simp) _ _).trans (foldl_cells (fun s l => by simp) _ _)

@[simp] theorem startCopy_cells (peer : Nat) (marks : List Nat) : (startCopy peer marks s).store.cells = s.store.cells := by
  unfold startCopy
  refine (foldl_cells (fun s key => ?_) _ _).trans rfl
  split <;> simp

@[simp] theorem agreePairing_cells : (agreePairing s).store.cells = s.store.cells := by simp [agreePairing]
@[simp] theorem meetPair_cells (c : Cmd) (w : List Nat) : (meetPair k c w s).store.cells = s.store.cells := by simp [meetPair]
@[simp] theorem tryPair_cells : (tryPair s).store.cells = s.store.cells := by
  unfold tryPair
  repeat' split
  all_goals simp

@[simp] theorem revertCrossed_cells (c : Claim) : (revertCrossed c s).store.cells = s.store.cells := by simp [revertCrossed]
@[simp] theorem acceptClaim_cells (port : Nat) (c : Claim) :
    (acceptClaim port c s).store.cells = s.store.cells := by simp [acceptClaim]

/-! ### Trust.lean -/

@[simp] theorem reinstate_cells (c : Cert) : (reinstate c s).store.cells = s.store.cells := by simp [reinstate]
@[simp] theorem floodCert_cells (port : Nat) (bs : List Byte) :
    (floodCert port bs s).store.cells = s.store.cells := by simp [floodCert]

/-! ### Registers.lean -/

@[simp] theorem badAccess_cells (fn : Nat) : (badAccess fn s).store.cells = s.store.cells := by simp [badAccess]
@[simp] theorem writeSeal_cells (value : BitVec 32) : (writeSeal value s).store.cells = s.store.cells := by simp [writeSeal]
@[simp] theorem cfgGo_cells (value : BitVec 32) (blob : HostRead) : (cfgGo value blob s).store.cells = s.store.cells := by
  unfold cfgGo
  repeat' split
  all_goals simp

@[simp] theorem writeHedMode_cells (value : BitVec 32) : (writeHedMode value s).store.cells = s.store.cells := by simp [writeHedMode]
@[simp] theorem writeVfBind_cells (vf : Nat) (value : BitVec 32) :
    (writeVfBind vf value s).store.cells = s.store.cells := by simp [writeVfBind]
@[simp] theorem writeMsixAlloc_cells (fn : Nat) (value : BitVec 32) :
    (writeMsixAlloc fn value s).store.cells = s.store.cells := by simp [writeMsixAlloc]
@[simp] theorem flipDomain_cells (d : Nat) : (flipDomain d s).store.cells = s.store.cells := by simp [flipDomain]
@[simp] theorem freshSpares_cells : (freshSpares s).store.cells = s.store.cells := by simp [freshSpares]
@[simp] theorem startDomains_cells (l : List Nat) : (startDomains l s).store.cells = s.store.cells := by simp [startDomains]
@[simp] theorem startGroup_cells : (startGroup s).store.cells = s.store.cells := by simp [startGroup]
@[simp] theorem writeStagger_cells (value : BitVec 32) : (writeStagger value s).store.cells = s.store.cells := by simp [writeStagger]
@[simp] theorem fwGo_cells (value : BitVec 32) : (fwGo value s).store.cells = s.store.cells := by simp [fwGo]
@[simp] theorem writeMsix_cells (fn o v : Nat) : (writeMsix fn o v s).store.cells = s.store.cells := by simp [writeMsix]
@[simp] theorem writeTide_cells (o v : Nat) : (writeTide o v s).store.cells = s.store.cells := by simp [writeTide]
@[simp] theorem writeMem_cells (o v : Nat) : (writeMem o v s).store.cells = s.store.cells := by simp [writeMem]
@[simp] theorem writeTrd_cells (o v : Nat) : (writeTrd o v s).store.cells = s.store.cells := by simp [writeTrd]
@[simp] theorem writeSec_cells (o v : Nat) : (writeSec o v s).store.cells = s.store.cells := by simp [writeSec]
@[simp] theorem writeCsw_cells (o v : Nat) : (writeCsw o v s).store.cells = s.store.cells := by simp [writeCsw]
@[simp] theorem writePwr_cells (o v : Nat) : (writePwr o v s).store.cells = s.store.cells := by simp [writePwr]
@[simp] theorem writeMailbox_cells (o v : Nat) : (writeMailbox o v s).store.cells = s.store.cells := by simp [writeMailbox]

/-! ### Boot.lean -/

@[simp] theorem acceptImage_cells (source : Nat) (img : List Byte) :
    (acceptImage source img s).store.cells = s.store.cells := by simp [acceptImage]
@[simp] theorem verifyFrom_cells (source : Nat) (img : List Byte) :
    (verifyFrom source img s).store.cells = s.store.cells := by simp [verifyFrom]
@[simp] theorem verifyRetained_cells : (verifyRetained s).store.cells = s.store.cells := by simp [verifyRetained]
@[simp] theorem tellOfReset_cells : (tellOfReset s).store.cells = s.store.cells := by simp [tellOfReset]
@[simp] theorem settleStart_cells : (settleStart s).store.cells = s.store.cells := by simp [settleStart]
@[simp] theorem dropSilently_cells : (dropSilently k s).store.cells = s.store.cells := by
  unfold dropSilently; dsimp only
  repeat' split
  all_goals simp

@[simp] theorem killRings_cells (l : List Nat) : (killRings l s).store.cells = s.store.cells := by
  unfold killRings
  refine (foldl_cells (fun s sq => by simp) _ _).trans ?_
  rw [settlePlans_cells, stopPlansOf_cells]
  refine (foldl_cells (fun s sq => foldl_cells (fun s k => by simp) _ s) _ _).trans ?_
  exact foldl_cells (fun s sq => by simp) _ s

@[simp] theorem quiesceBar2_cells (fn : Nat) : (quiesceBar2 fn s).store.cells = s.store.cells := by simp [quiesceBar2]
@[simp] theorem resetFn_cells (fn vectors : Nat) : (resetFn fn vectors s).store.cells = s.store.cells := by simp [resetFn]
@[simp] theorem resetVf_cells (fn : Nat) : (resetVf fn s).store.cells = s.store.cells := by
  unfold resetVf; split <;> simp

@[simp] theorem resetPf_cells : (resetPf s).store.cells = s.store.cells := by simp [resetPf]
@[simp] theorem removeVfs_cells : (removeVfs s).store.cells = s.store.cells := by simp [removeVfs]

/-! ### Thermal.lean -/

@[simp] theorem thermalEvent_cells (code : Nat) (r : TempReading) (count1 : Nat) :
    (thermalEvent code r count1 s).store.cells = s.store.cells := by simp [thermalEvent]
@[simp] theorem startWarning_cells (r : TempReading) : (startWarning r s).store.cells = s.store.cells := by simp [startWarning]
@[simp] theorem startThrottle_cells (r : TempReading) : (startThrottle r s).store.cells = s.store.cells := by simp [startThrottle]

/-! ### Power.lean -/

@[simp] theorem interruptAll_cells : (interruptAll s).store.cells = s.store.cells := by simp [interruptAll]
@[simp] theorem stepRom_cells : (stepRom s).store.cells = s.store.cells := by simp [stepRom]
@[simp] theorem stepPll_cells : (stepPll s).store.cells = s.store.cells := by simp [stepPll]
@[simp] theorem stepCauseway_cells : (stepCauseway s).store.cells = s.store.cells := by simp [stepCauseway]
@[simp] theorem stepDdr_cells (d : DdrFound) : (stepDdr d s).store.cells = s.store.cells := by
  unfold stepDdr; dsimp only
  repeat' split
  all_goals simp

@[simp] theorem stepFlash_cells (f : StepFound) : (stepFlash f s).store.cells = s.store.cells := by simp [stepFlash]
end
end Sys2Proof.Machine

/-! ## What keeps the cells of the store canonical

One lemma per function that may write bytes, or run something that may: from cells in canonical form its result's cells are in that
form. A function that takes the work as an argument keeps the form when the work does. They stand in the order of the model's
chapters. -/

namespace Sys2Proof.Machine
section
variable {k : CmdKey} {s : State}

/-- A loop of passes that keep the form keeps it. -/
@[simp] theorem foldl_canon {α : Type} {f : State → α → State} (hf : ∀ s a, Memory.wf s.store.cells → Memory.wf (f s a).store.cells)
    (l : List α) {s : State} (h : Memory.wf s.store.cells) :
    Memory.wf (l.foldl f s).store.cells := by
  induction l generalizing s with
  | nil => exact h
  | cons a l ih => exact ih (hf s a h)

/-- The same of a loop that carries a value beside the state. -/
@[simp] theorem foldl_snd_canon {α β : Type} {f : β × State → α → β × State}
    (hf : ∀ r a, Memory.wf r.2.store.cells → Memory.wf (f r a).2.store.cells) (l : List α)
    {r : β × State} (h : Memory.wf r.2.store.cells) : Memory.wf (l.foldl f r).2.store.cells := by
  induction l generalizing r with
  | nil => exact h
  | cons a l ih => exact ih (hf r a h)

theorem canon_of_eq {s t : State} (e : s = t) (h : Memory.wf t.store.cells) : Memory.wf s.store.cells := e ▸ h

theorem canon_ite {c : Prop} [Decidable c] {s t : State} (hs : Memory.wf s.store.cells) (ht : Memory.wf t.store.cells) :
    Memory.wf (if c then s else t).store.cells := by split <;> assumption

/-- The state of a pair whose state is canonical, once the pair is taken apart. -/
theorem snd_canon {α : Type} {p : α × State} {a : α} {t : State} (e : p = (a, t)) (h : Memory.wf p.2.store.cells) :
    Memory.wf t.store.cells := by
  subst e; exact h

@[simp] theorem wf_ite (c : Prop) [Decidable c] (m n : List Host.Cell) :
    Memory.wf (if c then m else n) = if c then Memory.wf m else Memory.wf n := apply_ite ..

theorem shiftCells_wf {m : List Host.Cell} (h : Memory.wf m) (p d : Nat) : Memory.wf (shiftCells p d m) := by
  unfold shiftCells
  refine List.foldlRecOn (motive := fun m => Memory.wf m) _ _ (Memory.wf_filter h _) (fun m hm c _ => Memory.wf_write hm _ _)

@[simp] theorem writes_canon (a : Nat) (bs : List Byte) {m : List Host.Cell} (h : Memory.wf m = true) :
    Memory.wf (Memory.writes m a bs) = true :=
  Memory.wf_writes h a bs
@[simp] theorem clear_canon (a n : Nat) {m : List Host.Cell} (h : Memory.wf m = true) : Memory.wf (Memory.clear m a n) = true :=
  Memory.wf_clear h a n

/-! ### Mem.lean -/

@[simp] theorem writeBytes_canon {a : Nat} {bs : List Byte} (hs : Memory.wf s.store.cells) :
    Memory.wf (writeBytes a bs s).store.cells := by simp [writeBytes, hs]
@[simp] theorem writeLine_canon {off : Nat} {l : Line} (hs : Memory.wf s.store.cells) :
    Memory.wf (writeLine off l s).store.cells := by simp [writeLine, hs]
@[simp] theorem putLine_canon {off : Nat} {l : Line} (hs : Memory.wf s.store.cells) :
    Memory.wf (putLine off l s).store.cells := by simp [putLine, hs]
@[simp] theorem allocPage_canon {p isle : Nat} {vpage : Option Nat} {region : Nat} {counter : BitVec 16} (hs : Memory.wf s.store.cells) :
    Memory.wf (allocPage p isle vpage region counter s).store.cells := by simp [allocPage, hs]

/-! ### Ops.lean -/

@[simp] theorem withCmd_canon {op : Nat} {f : Cmd → State → State} (hf : ∀ c s, Memory.wf s.store.cells → Memory.wf (f c s).store.cells)
    (hs : Memory.wf s.store.cells) :
    Memory.wf (withCmd k op f s).store.cells := by
  unfold withCmd
  repeat' split
  exacts [hs, hf _ _ hs, hs]

@[simp] theorem refuseOr_canon {checks : List (Bool × Nat)} {go : State → State}
    (hf : ∀ s, Memory.wf s.store.cells → Memory.wf (go s).store.cells) (hs : Memory.wf s.store.cells) :
    Memory.wf (refuseOr k checks go s).store.cells := by
  unfold refuseOr
  split
  · simp [hs]
  · exact hf _ hs

/-! ### Xlat.lean -/

@[simp] theorem putEntry_canon {isle vpage e : Nat} (hs : Memory.wf s.store.cells) :
    Memory.wf (putEntry isle vpage e s).store.cells := by
  unfold putEntry
  repeat' split
  all_goals simp [hs]

@[simp] theorem splitRun_canon {isle vpage : Nat} (hs : Memory.wf s.store.cells) : Memory.wf (splitRun isle vpage s).store.cells := by
  unfold splitRun
  repeat' split
  · exact foldl_canon (fun s i h => by split <;> simp [h]) _ hs
  · exact hs
  · exact hs

theorem newTable_canon {isle : Nat} {a : Nat} {u : State} (e : newTable isle s = some (a, u)) (hs : Memory.wf s.store.cells) :
    Memory.wf u.store.cells := by
  unfold newTable at e
  repeat' split at e
  all_goals cases e
  simp [hs]

theorem ensureTable_canon {isle vpage : Nat} {u : State} (e : ensureTable isle vpage s = some u) (hs : Memory.wf s.store.cells) :
    Memory.wf u.store.cells := by
  unfold ensureTable at e; dsimp only at e
  split at e
  · cases e; exact hs
  split at e
  · cases e
  split at e
  · cases e
  · next t2 v hl2 =>
    have hv : Memory.wf v.store.cells := by
      split at hl2
      · cases hl2; exact hs
      · split at hl2
        · next hn => cases hl2; exact writeBytes_canon (newTable_canon hn hs)
        · cases hl2
    split at e
    · split at e <;> cases e
      exact hv
    · split at e
      · next hn => cases e; exact writeBytes_canon (newTable_canon hn hv)
      · cases e

theorem ensureTables_canon {isle : Nat} {l : List Nat} {u : State} (e : ensureTables isle l s = some u) (hs : Memory.wf s.store.cells) :
    Memory.wf u.store.cells := by
  induction l generalizing s with
  | nil => cases e; exact hs
  | cons a l ih =>
    unfold ensureTables at e
    split at e
    · next h1 => exact ih e (ensureTable_canon h1 hs)
    · cases e

@[simp] theorem releaseTable_canon {isle vpage : Nat} (hs : Memory.wf s.store.cells) :
    Memory.wf (releaseTable isle s vpage).store.cells := by
  unfold releaseTable
  repeat' split
  all_goals simp [hs]

@[simp] theorem clearEntry_canon {isle vpage : Nat} (hs : Memory.wf s.store.cells) :
    Memory.wf (clearEntry isle s vpage).store.cells := by
  unfold clearEntry; dsimp only
  repeat' split
  all_goals simp [hs]

theorem pinPage_canon {isle vpage : Nat} {u : State} (e : pinPage isle vpage s = some u) (hs : Memory.wf s.store.cells) :
    Memory.wf u.store.cells := by
  unfold pinPage at e; dsimp only at e
  repeat' split at e
  all_goals cases e
  all_goals simp [hs]

theorem pinPages_canon {isle : Nat} {l : List Nat} {u : State} (e : pinPages isle l s = some u) (hs : Memory.wf s.store.cells) :
    Memory.wf u.store.cells := by
  induction l generalizing s with
  | nil => cases e; exact hs
  | cons a l ih =>
    unfold pinPages at e
    split at e
    · next h1 => exact ih e (pinPage_canon h1 hs)
    · cases e

@[simp] theorem unpinPage_canon {isle vpage : Nat} (hs : Memory.wf s.store.cells) :
    Memory.wf (unpinPage isle s vpage).store.cells := by
  unfold unpinPage; dsimp only
  repeat' split
  all_goals simp [hs]

/-! ### Heddle.lean -/

@[simp] theorem dropCached_canon {c : CacheLine} (hs : Memory.wf s.store.cells) : Memory.wf (dropCached s c).store.cells := by
  unfold dropCached; dsimp only
  repeat' split
  all_goals simp [hs]

@[simp] theorem flushCluster_canon {cl : Nat} (hs : Memory.wf s.store.cells) :
    Memory.wf (flushCluster cl s).store.cells := by simp +contextual [flushCluster, hs]
@[simp] theorem cacheRoom_canon {cl off : Nat} (hs : Memory.wf s.store.cells) : Memory.wf (cacheRoom cl off s).store.cells := by
  unfold cacheRoom; dsimp only
  repeat' split
  all_goals simp [hs]

@[simp] theorem cacheTake_canon {cl off : Nat} {st : CacheState} {l : Line} (hs : Memory.wf s.store.cells) :
    Memory.wf (cacheTake cl off st l s).store.cells := by simp [cacheTake, hs]
@[simp] theorem recallLine_canon {off : Nat} {who : Who} (hs : Memory.wf s.store.cells) :
    Memory.wf (recallLine off who s).store.cells := by
  unfold recallLine; dsimp only
  repeat' split
  all_goals simp [hs]

@[simp] theorem makeWay_canon {off : Nat} (hs : Memory.wf s.store.cells) : Memory.wf (makeWay off s).2.store.cells := by
  unfold makeWay; dsimp only
  repeat' split
  all_goals simp [hs]

@[simp] theorem touchEntry_canon {off : Nat} (hs : Memory.wf s.store.cells) : Memory.wf (touchEntry off s).2.store.cells := by
  unfold touchEntry; dsimp only
  repeat' split
  all_goals simp [hs]

@[simp] theorem hedRead_canon {a : Asker} {who : Who} {fwd : List (Nat × Line × Bool)} {mayE : Bool} {off : Nat}
    (hs : Memory.wf s.store.cells) :
    Memory.wf (hedRead a who fwd mayE off s).2.store.cells := by
  unfold hedRead; dsimp only
  repeat' split
  all_goals simp [hs]

@[simp] theorem hedClear_canon {who : Who} {off : Nat} (hs : Memory.wf s.store.cells) :
    Memory.wf (hedClear who off s).2.store.cells := by
  unfold hedClear; dsimp only
  repeat' split
  all_goals simp [hs]

@[simp] theorem hedOwn_canon {idx : Nat} {who : Who} {fwd : List (Nat × Line × Bool)} {off : Nat} (hs : Memory.wf s.store.cells) :
    Memory.wf (hedOwn idx who fwd off s).2.store.cells := by
  unfold hedOwn; dsimp only
  repeat' split
  all_goals simp [hs]

@[simp] theorem hedOwnInt_canon {cl : Nat} {who : Who} {off : Nat} (hs : Memory.wf s.store.cells) :
    Memory.wf (hedOwnInt cl who off s).2.store.cells := by
  unfold hedOwnInt; dsimp only
  repeat' split
  all_goals simp [hs, makeWay_canon (hedClear_canon hs)]

/-! ### Access.lean -/

@[simp] theorem rehome_canon {isle vpage e p d : Nat} (hs : Memory.wf s.store.cells) :
    Memory.wf (rehome isle vpage e p d s).store.cells := by simp [rehome, hs]
@[simp] theorem reachPage_canon {acc : Acc} {isle vpage e : Nat} {wr whole : Bool} (hs : Memory.wf s.store.cells) :
    Memory.wf (reachPage acc isle vpage e wr whole s).2.store.cells := by
  unfold reachPage; dsimp only
  repeat' split
  all_goals simp [hs]

@[simp] theorem readyRead_canon {a : Asker} {line : Nat} (hs : Memory.wf s.store.cells) :
    Memory.wf (readyRead k a line s).2.store.cells := by
  unfold readyRead; dsimp only
  repeat' split
  any_goals exact hs
  any_goals exact snd_canon ‹_› (hedRead_canon hs)
  exact cacheTake_canon (snd_canon ‹_› (hedRead_canon hs))

@[simp] theorem readyLine_canon {cl : Option Nat} {wr : Bool} {line : Nat} (hs : Memory.wf s.store.cells) :
    Memory.wf (readyLine k cl wr line s).2.store.cells := by
  unfold readyLine
  repeat' split
  all_goals simp [hs]

@[simp] theorem readyLines_canon {cl : Option Nat} {wr : Bool} {l : List Nat} (hs : Memory.wf s.store.cells) :
    Memory.wf (readyLines k cl wr l s).2.store.cells := by
  induction l generalizing s with
  | nil => simp [readyLines, hs]
  | cons a l ih =>
    simp [readyLines, hs, ih]

@[simp] theorem readyPiece_canon {isle : Nat} {acc : Acc} {wr whole : Bool} {va n : Nat} (hs : Memory.wf s.store.cells) :
    Memory.wf (readyPiece k isle acc wr whole va n s).2.store.cells := by
  unfold readyPiece; dsimp only
  split
  · simp [hs]
  split
  · exact snd_canon ‹_› (reachPage_canon hs)
  · exact snd_canon ‹_› (reachPage_canon hs)
  · next e =>
    have ht := snd_canon e (reachPage_canon hs)
    repeat' split
    all_goals simp [ht]

@[simp] theorem readyPieces_canon {isle : Nat} {acc : Acc} {wr : Bool} {l : List (Nat × Nat)} (hs : Memory.wf s.store.cells) :
    Memory.wf (readyPieces k isle acc wr l s).2.store.cells := by
  induction l generalizing s with
  | nil => exact hs
  | cons a l ih =>
    unfold readyPieces
    split
    · exact snd_canon ‹_› (readyPiece_canon hs)
    · next e =>
      have ht := ih (snd_canon e (readyPiece_canon hs))
      split <;> exact snd_canon ‹_› ht
    · exact ih (snd_canon ‹_› (readyPiece_canon hs))

@[simp] theorem readySpans_canon {isle : Nat} {l : List Span} (hs : Memory.wf s.store.cells) :
    Memory.wf (readySpans k isle l s).2.store.cells := by
  induction l generalizing s with
  | nil => exact hs
  | cons a l ih =>
    unfold readySpans
    split
    · exact snd_canon ‹_› (readyPieces_canon hs)
    · next e =>
      have ht := ih (snd_canon e (readyPieces_canon hs))
      split <;> exact snd_canon ‹_› ht
    · exact ih (snd_canon ‹_› (readyPieces_canon hs))

@[simp] theorem access_canon {isle : Nat} {l : List Span} (hs : Memory.wf s.store.cells) :
    Memory.wf (access k isle l s).2.store.cells := by
  unfold access
  repeat' split
  · simp [hs]
  · simp [hs]
  · simpa using snd_canon ‹_› (readySpans_canon hs)
  · exact readySpans_canon hs

@[simp] theorem storeLine_canon {mir : Bool} {off : Nat} {bs : List Byte} (hs : Memory.wf s.store.cells) :
    Memory.wf (storeLine mir off bs s).2.store.cells := by
  unfold storeLine; dsimp only
  repeat' split
  all_goals simp [hs]

@[simp] theorem storeBytes_canon {mir : Bool} {off : Nat} {bs : List Byte} (hs : Memory.wf s.store.cells) :
    Memory.wf (storeBytes mir off bs s).2.store.cells := by simp +contextual [storeBytes, hs]
@[simp] theorem vstore_canon {isle va : Nat} {bs : List Byte} (hs : Memory.wf s.store.cells) :
    Memory.wf (vstore isle va bs s).2.store.cells := by
  unfold vstore
  refine foldl_snd_canon (fun r p h => ?_) _ hs
  split <;> simp [h]

@[simp] theorem vwrite_canon {isle va : Nat} {bs : List Byte} (hs : Memory.wf s.store.cells) :
    Memory.wf (vwrite k isle va bs s).2.store.cells := by simp [vwrite, hs]
@[simp] theorem vput_canon {isle va : Nat} {bs : List Byte} (hs : Memory.wf s.store.cells) :
    Memory.wf (vput k isle va bs s).store.cells := by simp [vput, hs]
@[simp] theorem whenReady_canon {c : Cmd} {l : List Span} {go : State → State}
    (hf : ∀ s, Memory.wf s.store.cells → Memory.wf (go s).store.cells) (hs : Memory.wf s.store.cells) :
    Memory.wf (whenReady c l go s).store.cells := by
  unfold whenReady
  have ht : Memory.wf (access c.key c.isle l (startCmd c.key s)).2.store.cells := by simp [hs]
  split
  · simpa using snd_canon ‹_› ht
  · exact snd_canon ‹_› ht
  · exact hf _ (snd_canon ‹_› ht)

/-! ### Shuttle.lean -/

@[simp] theorem zeroScratch_canon {cl : Nat} (hs : Memory.wf s.store.cells) :
    Memory.wf (zeroScratch cl s).store.cells := by simp [zeroScratch, hs]
@[simp] theorem serveIsle_canon {isle cl : Nat} (hs : Memory.wf s.store.cells) :
    Memory.wf (serveIsle isle s cl).store.cells := by simp [serveIsle, hs]
@[simp] theorem takeClusters_canon {isle : Nat} {l : List Nat} (hs : Memory.wf s.store.cells) :
    Memory.wf (takeClusters k isle l s).store.cells := by simp +contextual [takeClusters, hs]
@[simp] theorem scrubScratch_canon {off n cl : Nat} (hs : Memory.wf s.store.cells) :
    Memory.wf (scrubScratch off n s cl).store.cells := by simp [scrubScratch, hs]

/-! ### Lead.lean -/

@[simp] theorem runLocal_canon {home : Sub → State → Home × State}
    (hf : ∀ x s, Memory.wf s.store.cells → Memory.wf (home x s).2.store.cells) (hs : Memory.wf s.store.cells) :
    Memory.wf (runLocal k home s).store.cells := by
  unfold runLocal
  split
  · exact hs
  · refine foldl_canon (fun s x h => ?_) _ hs
    dsimp only
    split
    · simp [hf _ _ h]
    · exact h

/-! ### Atoll.lean -/

@[simp] theorem syncShard_canon {isle id : Nat} {sh : Shard} (hs : Memory.wf s.store.cells) :
    Memory.wf (syncShard isle id sh s).store.cells := by simp [syncShard, hs]
@[simp] theorem homeSearch_canon {isle : Nat} {c : Cmd} {d : SubData} (hs : Memory.wf s.store.cells) :
    Memory.wf (homeSearch k isle c d s).2.store.cells := by
  unfold homeSearch; dsimp only
  repeat' split
  any_goals simp +contextual [hs]
  all_goals exact snd_canon ‹_› (by simp +contextual [hs])

@[simp] theorem searchFinish_canon {c : Cmd} (hs : Memory.wf s.store.cells) : Memory.wf (searchFinish k c s).store.cells := by
  unfold searchFinish; dsimp only
  split
  all_goals have ht := snd_canon ‹_› (access_canon hs)
  all_goals repeat' split
  all_goals simp +contextual [ht]

@[simp] theorem searchGo_canon {n : Nat} (hs : Memory.wf s.store.cells) : Memory.wf (searchGo k n s).store.cells := by
  induction n generalizing s with
  | zero => exact hs
  | succ n ih =>
    unfold searchGo; dsimp only
    split
    · exact hs
    · next c0 _ =>
      have hr : Memory.wf (runLocal k (fun x s => homeSearch k (spaceOf s x.peer c0.isle) c0 x.data s) s).store.cells :=
        runLocal_canon (fun x s h => homeSearch_canon h) hs
      repeat' split
      any_goals simp [hr]
      all_goals have ht := snd_canon ‹_› (access_canon hr)
      all_goals simp [ht, ih]

@[simp] theorem homeInsert_canon {isle : Nat} {c : Cmd} {d : SubData} (hs : Memory.wf s.store.cells) :
    Memory.wf (homeInsert isle c d s).2.store.cells := by
  unfold homeInsert; dsimp only
  repeat' split
  all_goals simp [hs]

@[simp] theorem insertGo_canon {n : Nat} (hs : Memory.wf s.store.cells) : Memory.wf (insertGo k n s).store.cells := by
  induction n generalizing s with
  | zero => exact hs
  | succ n ih =>
    unfold insertGo; dsimp only
    split
    · exact hs
    · next c0 _ =>
      have hr : Memory.wf (runLocal k (fun x s => homeInsert (spaceOf s x.peer c0.isle) c0 x.data s) s).store.cells :=
        runLocal_canon (fun x s h => homeInsert_canon h) hs
      repeat' split
      any_goals simp [hr]
      all_goals have ht := snd_canon ‹_› (access_canon hr)
      all_goals simp [ht, ih]

@[simp] theorem homeDelete_canon {isle : Nat} {c : Cmd} {d : SubData} (hs : Memory.wf s.store.cells) :
    Memory.wf (homeDelete isle c d s).2.store.cells := by
  unfold homeDelete; dsimp only
  repeat' split
  all_goals simp [hs]

@[simp] theorem deleteGo_canon (hs : Memory.wf s.store.cells) : Memory.wf (deleteGo k s).store.cells := by
  unfold deleteGo; dsimp only
  repeat' split
  all_goals simp +contextual [hs]

/-! ### Lagoon.lean -/

@[simp] theorem zeroPage_canon {isle vpage : Nat} (hs : Memory.wf s.store.cells) :
    Memory.wf (zeroPage k isle s vpage).store.cells := by
  unfold zeroPage
  split <;> simp [hs]

theorem takeMapPage_canon {isle h : Nat} {u : State} (e : takeMapPage k isle h s = some u) (hs : Memory.wf s.store.cells) :
    Memory.wf u.store.cells := by
  unfold takeMapPage at e
  repeat' split at e
  all_goals cases e
  all_goals simp [hs]

theorem reserveOne_canon {isle h layer idx : Nat} {a : List Nat} {u : State} (e : reserveOne k isle h layer idx s = some (a, u))
    (hs : Memory.wf s.store.cells) :
    Memory.wf u.store.cells := by
  unfold reserveOne at e; dsimp only at e
  repeat' split at e
  all_goals cases e
  all_goals simp [hs]

theorem reserveAll_canon {isle h : Nat} {l : List (Nat × Nat)} {a : List Nat} {u : State} (e : reserveAll k isle h l s = some (a, u))
    (hs : Memory.wf s.store.cells) :
    Memory.wf u.store.cells := by
  induction l generalizing s a u with
  | nil => cases e; exact hs
  | cons p l ih =>
    unfold reserveAll at e
    split at e
    · cases e
    · next h1 =>
      split at e <;> cases e
      exact ih ‹_› (reserveOne_canon h1 hs)

@[simp] theorem writeKv_canon {isle : Nat} {w : List Nat} {bs : List Byte} (hs : Memory.wf s.store.cells) :
    Memory.wf (writeKv k isle w bs s).2.store.cells := by
  unfold writeKv; dsimp only
  split
  all_goals have ht := snd_canon ‹_› (access_canon hs)
  · exact ht
  · exact ht
  · refine foldl_snd_canon (fun r i h => ?_) _ ht
    split
    · exact h
    · exact foldl_snd_canon (fun r j h => by simp [h]) _ h

@[simp] theorem homeKv_canon {isle lead : Nat} {c : Cmd} {d : SubData} (hs : Memory.wf s.store.cells) :
    Memory.wf (homeKv k isle lead c d s).2.store.cells := by
  unfold homeKv; dsimp only
  repeat' split
  any_goals simp [hs]
  next e =>
    obtain ⟨t, h1, h2⟩ := Option.bind_eq_some_iff.mp e
    exact reserveAll_canon h2 (takeMapPage_canon h1 hs)

@[simp] theorem withClusters_canon {fail : Nat → State → State} {go : State → State}
    (hf : ∀ n s, Memory.wf s.store.cells → Memory.wf (fail n s).store.cells)
    (hg : ∀ s, Memory.wf s.store.cells → Memory.wf (go s).store.cells) (hs : Memory.wf s.store.cells) :
    Memory.wf (withClusters k fail go s).store.cells := by
  unfold withClusters
  repeat' split
  exacts [hs, hg _ hs, hf _ _ hs, hs, hg _ (takeClusters_canon hs)]

@[simp] theorem appendGo_canon {n : Nat} (hs : Memory.wf s.store.cells) : Memory.wf (appendGo k n s).store.cells := by
  induction n generalizing s with
  | zero => exact hs
  | succ n ih =>
    unfold appendGo; dsimp only
    split
    · exact hs
    · next c0 _ =>
      have hr : Memory.wf (runLocal k (fun x s => homeKv k (spaceOf s x.peer c0.isle) s.pool.id c0 x.data s) s).store.cells :=
        runLocal_canon (fun x s h => homeKv_canon h) hs
      repeat' split
      any_goals simp [hr, ih]
      all_goals
        refine withClusters_canon (fun st s h => ih (by simpa using h)) (fun s h => ?_) (by simpa using hr)
        split
        all_goals have ht := snd_canon ‹_› (access_canon h)
        all_goals repeat' split
        all_goals simp [ht, ih]

@[simp] theorem forkPages_canon {isle : Nat} {w : List Nat} {pos : Nat} (hs : Memory.wf s.store.cells) :
    Memory.wf (forkPages k isle w pos s).2.store.cells := by
  unfold forkPages; dsimp only
  repeat' split
  any_goals exact hs
  next e => simpa using takeMapPage_canon e hs

@[simp] theorem homeFork_canon {isle : Nat} {c : Cmd} {d : SubData} (hs : Memory.wf s.store.cells) :
    Memory.wf (homeFork k isle c d s).2.store.cells := by
  unfold homeFork
  repeat' split
  all_goals simp [hs]

@[simp] theorem forkGo_canon {n : Nat} (hs : Memory.wf s.store.cells) : Memory.wf (forkGo k n s).store.cells := by
  induction n generalizing s with
  | zero => exact hs
  | succ n ih =>
    unfold forkGo; dsimp only
    split
    · exact hs
    · next c0 _ =>
      have hr : Memory.wf (runLocal k (fun x s => homeFork k (spaceOf s x.peer c0.isle) c0 x.data s) s).store.cells :=
        runLocal_canon (fun x s h => homeFork_canon h) hs
      repeat' split
      any_goals simp [hr, ih]
      next e => exact ih (by simpa [newSeq_cells _ _ _ e] using hr)

@[simp] theorem homeOnlyGo_canon {home : Cmd → Nat → SubData → State → Home × State}
    (hf : ∀ c n d s, Memory.wf s.store.cells → Memory.wf (home c n d s).2.store.cells) (hs : Memory.wf s.store.cells) :
    Memory.wf (homeOnlyGo k home s).store.cells := by
  unfold homeOnlyGo; dsimp only
  split
  · exact hs
  · next c0 _ =>
    have hr : Memory.wf (runLocal k (fun x s => home c0 (spaceOf s x.peer c0.isle) x.data s) s).store.cells :=
      runLocal_canon (fun x s h => hf _ _ _ _ h) hs
    repeat' split
    all_goals simp [hr]

@[simp] theorem releaseSeqGo_canon {n : Nat} (hs : Memory.wf s.store.cells) : Memory.wf (releaseSeqGo k n s).store.cells := by
  induction n generalizing s with
  | zero => simp [releaseSeqGo, hs]
  | succ n ih =>
    unfold releaseSeqGo; dsimp only
    repeat' split
    all_goals simp [hs, ih]

@[simp] theorem queryGo_canon (hs : Memory.wf s.store.cells) : Memory.wf (queryGo k s).store.cells := by
  unfold queryGo; dsimp only
  repeat' split
  all_goals simp +contextual [hs]

/-! ### Fences.lean -/

@[simp] theorem readFlag_canon {c : Cmd} {va : Nat} {onFail go : Nat → State → State}
    (hf : ∀ n s, Memory.wf s.store.cells → Memory.wf (onFail n s).store.cells)
    (hg : ∀ n s, Memory.wf s.store.cells → Memory.wf (go n s).store.cells) (hs : Memory.wf s.store.cells) :
    Memory.wf (readFlag c va onFail go s).store.cells := by
  unfold readFlag; dsimp only
  split
  all_goals have ht := snd_canon ‹_› (access_canon hs)
  · exact hf _ _ ht
  · exact ht
  · split
    · exact hf _ _ (by simpa using ht)
    · exact hg _ _ (by simpa using ht)

@[simp] theorem acquireRead_canon {c : Cmd} (hs : Memory.wf s.store.cells) :
    Memory.wf (acquireRead c s).store.cells := by simp [acquireRead, hs]

/-! ### Weave.lean -/

@[simp] theorem addRow_canon {c : Cmd} {va : Nat} {l : List (Nat × Nat)} (hs : Memory.wf s.store.cells) :
    Memory.wf (addRow k c va s l).2.store.cells := by simp +contextual [addRow, hs]
@[simp] theorem stageItem_canon {g i : Nat} (hs : Memory.wf s.store.cells) : Memory.wf (stageItem k g s i).store.cells := by
  unfold stageItem
  repeat' split
  all_goals simp [hs]

@[simp] theorem endWeave_canon {c : Cmd} {st done low : Nat} (hs : Memory.wf s.store.cells) :
    Memory.wf (endWeave k c st done low s).store.cells := by simp +contextual [endWeave, hs]
@[simp] theorem runStage_canon {c : Cmd} {g : Nat} (hs : Memory.wf s.store.cells) : Memory.wf (runStage k c g s).2.store.cells := by
  unfold runStage; dsimp only
  split
  · next e =>
    have ht := snd_canon e (access_canon hs)
    repeat' split
    · simp [ht]
    · next e' =>
      have hu := snd_canon e' (access_canon ht)
      simp +contextual [hu]
    · exact access_canon ht
  · exact access_canon hs

@[simp] theorem weaveLoop_canon {n : Nat} (hs : Memory.wf s.store.cells) : Memory.wf (weaveLoop k n s).store.cells := by
  induction n generalizing s with
  | zero => exact hs
  | succ n ih =>
    unfold weaveLoop; dsimp only
    repeat' split
    any_goals simp [hs]
    all_goals have ht := snd_canon ‹_› (runStage_canon (s := _) (by simp [hs]))
    all_goals simp [ht, ih]

/-! ### Attn.lean -/

@[simp] theorem homeAttn_canon {isle : Nat} {c : Cmd} {d : SubData} (hs : Memory.wf s.store.cells) :
    Memory.wf (homeAttn k isle c d s).2.store.cells := by
  unfold homeAttn
  split
  · exact hs
  · dsimp only
    split
    · exact hs
    · split
      all_goals have ht := snd_canon ‹_› (access_canon hs)
      · exact ht
      · exact ht
      · split <;> exact ht

@[simp] theorem attnFinish_canon {c : Cmd} {qs : List KvSeq} (hs : Memory.wf s.store.cells) :
    Memory.wf (attnFinish k c qs s).store.cells := by
  unfold attnFinish; dsimp only
  split
  all_goals have ht := snd_canon ‹_› (access_canon hs)
  all_goals repeat' split
  all_goals simp +contextual [ht]

@[simp] theorem attnGo_canon {n : Nat} (hs : Memory.wf s.store.cells) : Memory.wf (attnGo k n s).store.cells := by
  induction n generalizing s with
  | zero => exact hs
  | succ n ih =>
    unfold attnGo; dsimp only
    split
    · exact hs
    · next c0 _ =>
      have hr : Memory.wf (runLocal k (fun x s => homeAttn k (spaceOf s x.peer c0.isle) c0 x.data s) s).store.cells :=
        runLocal_canon (fun x s h => homeAttn_canon h) hs
      repeat' split
      any_goals simp [hr, ih]
      refine withClusters_canon (fun st s h => by simpa using h) (fun s h => ?_) hs
      split
      all_goals have ht := snd_canon ‹_› (access_canon h)
      all_goals simp [ht, ih]

/-! ### Dma.lean -/

@[simp] theorem moveLines_canon {c : Cmd} {sv dv : Nat} {bs : List Byte} (hs : Memory.wf s.store.cells) :
    Memory.wf (moveLines c sv dv bs s).2.store.cells := by
  unfold moveLines
  refine foldl_snd_canon (fun r p h => ?_) _ hs
  dsimp only
  repeat' split
  all_goals simp [h]

@[simp] theorem copyBurst_canon {c : Cmd} {sv dv n : Nat} {whole : Bool} (hs : Memory.wf s.store.cells) :
    Memory.wf (copyBurst k c sv dv n whole s).2.store.cells := by
  unfold copyBurst; dsimp only
  split
  all_goals have ht := snd_canon ‹_› (readyPiece_canon hs)
  · split <;> simp [ht]
  · exact ht
  · split
    all_goals have hu := snd_canon ‹_› (readyPiece_canon ht)
    · split <;> simp [hu]
    · exact hu
    · simp [hu]

@[simp] theorem copyLoop_canon {n n1 : Nat} (hs : Memory.wf s.store.cells) : Memory.wf (copyLoop k n n1 s).store.cells := by
  induction n generalizing n1 s with
  | zero => exact hs
  | succ n ih =>
    unfold copyLoop; dsimp only
    repeat' split
    any_goals simp [hs]
    all_goals have ht := snd_canon ‹_› (copyBurst_canon hs)
    all_goals simp [ht, ih]

@[simp] theorem fillLoop_canon {n n1 : Nat} (hs : Memory.wf s.store.cells) : Memory.wf (fillLoop k n n1 s).store.cells := by
  induction n generalizing n1 s with
  | zero => exact hs
  | succ n ih =>
    unfold fillLoop; dsimp only
    repeat' split
    any_goals simp [hs]
    all_goals have ht := snd_canon ‹_› (readyPiece_canon hs)
    all_goals simp [ht, ih]

@[simp] theorem tileLoop_canon {n n1 : Nat} (hs : Memory.wf s.store.cells) : Memory.wf (tileLoop k n n1 s).store.cells := by
  induction n generalizing n1 s with
  | zero => exact hs
  | succ n ih =>
    unfold tileLoop; dsimp only
    repeat' split
    any_goals simp [hs]
    all_goals have ht := snd_canon ‹_› (copyBurst_canon hs)
    all_goals simp [ht, ih]

@[simp] theorem checkEnd_canon {c : Cmd} (hs : Memory.wf s.store.cells) : Memory.wf (checkEnd k c s).store.cells := by
  unfold checkEnd; dsimp only
  repeat' split
  any_goals simp [hs]
  all_goals have ht := snd_canon ‹_› (access_canon hs)
  all_goals simp [ht]

@[simp] theorem checkLoop_canon {n n1 : Nat} (hs : Memory.wf s.store.cells) : Memory.wf (checkLoop k n n1 s).store.cells := by
  induction n generalizing n1 s with
  | zero => exact hs
  | succ n ih =>
    unfold checkLoop; dsimp only
    repeat' split
    any_goals simp [hs]
    all_goals have ht := snd_canon ‹_› (readyPiece_canon hs)
    all_goals simp [ht, ih]

@[simp] theorem clearLine_canon {mir keep : Bool} {line : Nat} (hs : Memory.wf s.store.cells) :
    Memory.wf (clearLine mir keep line s).2.store.cells := by
  unfold clearLine
  split <;> simp [hs]

@[simp] theorem atomicAt_canon {who : Who} {mir tracked : Bool} {cl op off a c : Nat} (hs : Memory.wf s.store.cells) :
    Memory.wf (atomicAt who mir tracked cl op off a c s).2.store.cells := by
  unfold atomicAt; dsimp only
  repeat' split
  any_goals simp [hs]
  all_goals have ht := snd_canon ‹_› (hedOwnInt_canon hs)
  all_goals simp [ht]

@[simp] theorem batchLoop_canon {n : Nat} (hs : Memory.wf s.store.cells) : Memory.wf (batchLoop k n s).store.cells := by
  induction n generalizing s with
  | zero => exact hs
  | succ n ih =>
    unfold batchLoop; dsimp only
    split
    · exact hs
    split
    · simp [hs]
    split
    · simp [hs]
    split
    all_goals have ht := snd_canon ‹_› (reachPage_canon hs)
    · exact ht
    · simp [ht]
    · split
      all_goals have hu := snd_canon ‹_› (atomicAt_canon ht)
      · exact hu
      · simp [hu, ih]

/-! ### Emb.lean -/

@[simp] theorem homeGather_canon {isle tid : Nat} {rows : List Nat} (hs : Memory.wf s.store.cells) :
    Memory.wf (homeGather k isle tid rows s).2.store.cells := by
  unfold homeGather; dsimp only
  repeat' split
  any_goals simp +contextual [hs]
  all_goals exact snd_canon ‹_› (by simp +contextual [hs])

@[simp] theorem gatherFinish_canon {c : Cmd} {t : Table} (hs : Memory.wf s.store.cells) :
    Memory.wf (gatherFinish k c t s).store.cells := by
  unfold gatherFinish; dsimp only
  split
  all_goals have ht := snd_canon ‹_› (access_canon hs)
  all_goals repeat' split
  all_goals simp +contextual [ht]

@[simp] theorem gatherGo_canon (hs : Memory.wf s.store.cells) : Memory.wf (gatherGo k s).store.cells := by
  unfold gatherGo; dsimp only
  split
  · exact hs
  · next c0 _ =>
    have hr : Memory.wf (runLocal k (fun x s => homeGather k (spaceOf s x.peer c0.isle) (gaTable c0) (subWords x.data) s) s).store.cells :=
      runLocal_canon (fun x s h => homeGather_canon h) hs
    repeat' split
    all_goals simp [hr]

@[simp] theorem gatherStart_canon {c : Cmd} (hs : Memory.wf s.store.cells) : Memory.wf (gatherStart k c s).store.cells := by
  unfold gatherStart; dsimp only
  repeat' split
  any_goals simp [hs]
  all_goals have ht := snd_canon ‹_› (access_canon (s := startCmd k s) (by simpa using hs))
  all_goals simp [ht]

@[simp] theorem homeStage_canon {isle tid src useq : Nat} {step : BitVec 32} {items : List (Nat × Nat)} {bs : List Byte}
    (hs : Memory.wf s.store.cells) :
    Memory.wf (homeStage k isle tid src useq step items bs s).2.store.cells := by
  unfold homeStage; dsimp only
  repeat' split
  any_goals exact hs
  all_goals have ht := snd_canon ‹_› (access_canon hs)
  all_goals simp [ht]

@[simp] theorem homeUpdate_canon {isle src : Nat} {c : Cmd} {d : SubData} (hs : Memory.wf s.store.cells) :
    Memory.wf (homeUpdate k isle src c d s).2.store.cells := by
  unfold homeUpdate; dsimp only
  repeat' split
  all_goals simp [hs]

@[simp] theorem updateGo_canon {n : Nat} (hs : Memory.wf s.store.cells) : Memory.wf (updateGo k n s).store.cells := by
  induction n generalizing s with
  | zero => exact hs
  | succ n ih =>
    unfold updateGo; dsimp only
    split
    · exact hs
    · next c0 _ =>
      have hr : Memory.wf (runLocal k (fun x s => homeUpdate k (spaceOf s x.peer c0.isle) s.pool.id c0 x.data s) s).store.cells :=
        runLocal_canon (fun x s h => homeUpdate_canon h) hs
      repeat' split
      any_goals simp [hr, ih]
      exact runLocal_canon (fun x s h => homeUpdate_canon h) (by simpa using hr)

@[simp] theorem updateStart_canon {c : Cmd} (hs : Memory.wf s.store.cells) : Memory.wf (updateStart k c s).store.cells := by
  unfold updateStart; dsimp only
  repeat' split
  any_goals simp [hs]
  refine whenReady_canon (fun s h => ?_) hs
  repeat' split
  all_goals simp [h]

@[simp] theorem sendRows_canon {ph : Nat} {m : Migration} {t : Table} {rows : List Nat} (hs : Memory.wf s.store.cells) :
    Memory.wf (sendRows ph m t rows s).2.store.cells := by
  unfold sendRows; dsimp only
  repeat' split
  any_goals simp +contextual [hs]
  all_goals exact snd_canon ‹_› (by simp +contextual [hs])

@[simp] theorem ferryStart_canon (hs : Memory.wf s.store.cells) : Memory.wf (ferryStart s).store.cells := by
  unfold ferryStart; dsimp only
  repeat' split
  any_goals simp +contextual [hs]
  all_goals exact snd_canon ‹_› (by simp +contextual [hs])

@[simp] theorem logRows_canon {tid : Nat} {t : Table} {rows : List Nat} (hs : Memory.wf s.store.cells) :
    Memory.wf (logRows tid t rows s).store.cells := by
  unfold logRows
  split <;> simp [hs]

@[simp] theorem commitClose_canon {tid : Nat} {step : BitVec 32} {t : Table} (hs : Memory.wf s.store.cells) :
    Memory.wf (commitClose tid step t s).store.cells := by
  unfold commitClose; dsimp only
  repeat' split
  any_goals simp +contextual [hs]
  all_goals exact snd_canon ‹_› (by simp +contextual [hs])

@[simp] theorem applyStaged_canon {c : Cmd} {isle : Nat} {t : Table} {step : BitVec 32} {lr : Nat} {l : List Staged}
    (hs : Memory.wf s.store.cells) :
    Memory.wf (applyStaged k c isle t step lr l s).2.store.cells := by
  unfold applyStaged; dsimp only
  exact foldl_canon (fun s r h => vput_canon (vput_canon h)) _ hs

@[simp] theorem homeApply_canon {isle tid lr lead : Nat} {step : BitVec 32} (hs : Memory.wf s.store.cells) :
    Memory.wf (homeApply k isle tid lr lead step s).2.store.cells := by
  unfold homeApply; dsimp only
  split
  · split
    · repeat' split
      all_goals exact hs
    · split
      · exact hs
      · split
        · simp [hs]
        · split
          · simp [hs]
          · split
            all_goals have ht := snd_canon ‹_› (access_canon hs)
            · simp [ht]
            · exact ht
            · repeat' split
              all_goals simp [ht, applyStaged_canon ht]
  · exact hs

@[simp] theorem homeClose_canon {isle lead : Nat} {c : Cmd} {d : SubData} (hs : Memory.wf s.store.cells) :
    Memory.wf (homeClose k isle lead c d s).2.store.cells := by
  unfold homeClose
  repeat' split
  all_goals simp [hs]

@[simp] theorem closeGo_canon {n : Nat} (hs : Memory.wf s.store.cells) : Memory.wf (closeGo k n s).store.cells := by
  induction n generalizing s with
  | zero => exact hs
  | succ n ih =>
    unfold closeGo; dsimp only
    split
    · exact hs
    · next c0 _ =>
      have hr {t : State} (h : Memory.wf t.store.cells) :
          Memory.wf (runLocal k (fun x s => homeClose k (spaceOf s x.peer c0.isle) s.pool.id c0 x.data s) t).store.cells :=
        runLocal_canon (fun x s h => homeClose_canon h) h
      repeat' split
      all_goals simp [hr, hs, ih]

@[simp] theorem closeStart_canon {c : Cmd} (hs : Memory.wf s.store.cells) : Memory.wf (closeStart k c s).store.cells := by
  unfold closeStart
  repeat' split
  all_goals simp [hs]

@[simp] theorem homeMigrate_canon {c : Cmd} {d : SubData} (hs : Memory.wf s.store.cells) :
    Memory.wf (homeMigrate k c d s).2.store.cells := by
  unfold homeMigrate; dsimp only
  repeat' split
  any_goals exact hs
  all_goals have ht := snd_canon ‹_› (access_canon hs)
  all_goals simp +contextual [ht]

@[simp] theorem migrateGo_canon (hs : Memory.wf s.store.cells) : Memory.wf (migrateGo k s).store.cells := by
  unfold migrateGo
  repeat' split
  all_goals simp [hs]

/-! ### Requests.lean -/

@[simp] theorem reqRead_canon {r : Req} {l : List (Nat × Bool)} (hs : Memory.wf s.store.cells) :
    Memory.wf (reqRead r l s).2.store.cells := by
  induction l generalizing s with
  | nil => exact hs
  | cons p l ih =>
    unfold reqRead; dsimp only
    split
    · next e =>
      split at e
      · cases e
      · split at e <;> cases e
        exact snd_canon ‹_› (hedRead_canon hs)
    · next t e =>
      have ht : Memory.wf t.store.cells := by
        split at e
        · cases e; exact hs
        · split at e <;> cases e
          simpa using snd_canon ‹_› (hedRead_canon hs)
      split
      · exact snd_canon ‹_› (ih ht)
      · exact ih ht

@[simp] theorem reqClear_canon {r : Req} {l : List (Nat × Bool)} (hs : Memory.wf s.store.cells) :
    Memory.wf (reqClear r l s).2.store.cells := by
  induction l generalizing s with
  | nil => simp [reqClear, hs]
  | cons a l ih =>
    unfold reqClear; dsimp only
    repeat' split
    all_goals simp [hs, ih]

@[simp] theorem doShared_canon {idx : Nat} {r : Req} {line : Nat} {tracked mayE : Bool} (hs : Memory.wf s.store.cells) :
    Memory.wf (doShared idx r line tracked mayE s).2.store.cells := by
  unfold doShared
  split <;> simp [hs]

@[simp] theorem doOwn_canon {idx : Nat} {r : Req} {line : Nat} {tracked : Bool} (hs : Memory.wf s.store.cells) :
    Memory.wf (doOwn idx r line tracked s).2.store.cells := by
  unfold doOwn; dsimp only
  repeat' split
  all_goals simp [hs]

@[simp] theorem memLine_canon {line : Nat} {l : Line} {bad : Bool} (hs : Memory.wf s.store.cells) :
    Memory.wf (memLine line l bad s).store.cells := by simp [memLine, hs]
@[simp] theorem doBack_canon {idx line : Nat} {l : Line} {bad : Bool} (hs : Memory.wf s.store.cells) :
    Memory.wf (doBack idx line l bad s).2.store.cells := by
  unfold doBack; dsimp only
  repeat' split
  all_goals simp [hs]

@[simp] theorem storePieces_canon {r : Req} {l : List (Nat × Nat × Nat)} {l1 : List Byte} {n : Nat} (hs : Memory.wf s.store.cells) :
    Memory.wf (storePieces r l l1 n s).2.store.cells := by
  induction l generalizing l1 n s with
  | nil => simp [storePieces, hs]
  | cons a l ih =>
    simp [storePieces, hs, ih]

@[simp] theorem doWrite_canon {r : Req} {l : List (Nat × Nat × Nat)} (hs : Memory.wf s.store.cells) :
    Memory.wf (doWrite r l s).2.store.cells := by
  unfold doWrite
  split
  all_goals have ht := snd_canon ‹_› (reqClear_canon hs)
  · exact ht
  · dsimp only
    repeat' split
    all_goals simp [ht]

@[simp] theorem doAtomic_canon {r : Req} {l : List (Nat × Nat × Nat)} (hs : Memory.wf s.store.cells) :
    Memory.wf (doAtomic r l s).2.store.cells := by
  unfold doAtomic; dsimp only
  repeat' split
  any_goals simp +contextual [hs]
  all_goals exact snd_canon ‹_› (by simp +contextual [hs])

@[simp] theorem perform_canon {r : Req} {rights : Nat} {l : List (Nat × Nat × Nat)} (hs : Memory.wf s.store.cells) :
    Memory.wf (perform r rights l s).2.store.cells := by
  unfold perform; dsimp only
  repeat' split
  any_goals simp +contextual [hs]
  all_goals exact snd_canon ‹_› (by simp +contextual [hs])

@[simp] theorem reachAll_canon {r : Req} {l : List (Nat × Nat × Nat)} (hs : Memory.wf s.store.cells) :
    Memory.wf (reachAll r l s).2.store.cells := by
  induction l generalizing s with
  | nil => exact hs
  | cons p l ih =>
    unfold reachAll; dsimp only
    split
    all_goals have ht := snd_canon ‹_› (reachPage_canon hs)
    · exact ht
    · exact ht
    · split
      · exact snd_canon ‹_› (ih ht)
      · exact ih ht

@[simp] theorem serveReport_canon {r : Req} (hs : Memory.wf s.store.cells) : Memory.wf (serveReport r s).store.cells := by
  unfold serveReport; dsimp only
  repeat' split
  all_goals simp [hs]

@[simp] theorem serve_canon {walked : Option Nat} {r : Req} (hs : Memory.wf s.store.cells) :
    Memory.wf (serve walked r s).store.cells := by
  unfold serve
  split
  · simp [hs]
  split
  · simp [hs]
  split
  · simp [hs]
  split
  · simp [hs]
  split
  · simp [hs]
  · simp [hs]
  split
  · simp [hs]
  split
  · simp [hs]
  dsimp only
  split
  · split <;> simp [hs]
  split
  · simp [hs]
  split
  all_goals have ht := snd_canon ‹_› (reachAll_canon hs)
  · simp [ht]
  · simp [ht]
  · split
    all_goals have hu := snd_canon ‹_› (perform_canon ht)
    all_goals simp [hu]

@[simp] theorem pump_canon {n : Nat} (hs : Memory.wf s.store.cells) : Memory.wf (pump s n).store.cells := by
  induction n generalizing s with
  | zero => exact hs
  | succ n ih =>
    unfold pump
    split
    · exact hs
    · exact ih (serve_canon (by simpa using hs))

@[simp] theorem pumpAll_canon (hs : Memory.wf s.store.cells) : Memory.wf (pumpAll s).store.cells := by simp [pumpAll, hs]

/-! ### Ingress.lean -/

@[simp] theorem closeTxn_canon {off : Nat} (hs : Memory.wf s.store.cells) : Memory.wf (closeTxn off s).store.cells := by
  unfold closeTxn
  split
  · exact hs
  · extract_lets before s1 data s2
    clear_value data
    have h2 : Memory.wf s2.store.cells := by
      dsimp only [s2]
      repeat' split
      all_goals simp [s1, hs]
    clear_value s2
    repeat' split
    all_goals simp [h2]

@[simp] theorem answered_canon {off : Nat} {x : Nat × Nat} {data : Option (Line × Bool)} (hs : Memory.wf s.store.cells) :
    Memory.wf (answered off x data s).store.cells := by
  unfold answered
  split <;> simp [hs]

@[simp] theorem snoopAnswer_canon {h : Hdr} {line : Option WireLine} (hs : Memory.wf s.store.cells) :
    Memory.wf (snoopAnswer h line s).store.cells := by
  unfold snoopAnswer; dsimp only
  repeat' split
  all_goals simp [hs]

@[simp] theorem endSnoop_canon {idx off : Nat} (hs : Memory.wf s.store.cells) : Memory.wf (endSnoop idx s off).store.cells := by
  unfold endSnoop
  repeat' split
  all_goals simp [hs]

@[simp] theorem loseAgent_canon {cmd : Option CmdKey} {idx : Nat} (hs : Memory.wf s.store.cells) :
    Memory.wf (loseAgent cmd s idx).store.cells := by
  unfold loseAgent; dsimp only
  split
  · exact hs
  split
  · exact hs
  · exact pumpAll_canon (foldl_canon (fun s x h => endSnoop_canon h) _ (by simpa using hs))

@[simp] theorem admitReq_canon {r : Req} {caching : Bool} (hs : Memory.wf s.store.cells) :
    Memory.wf (admitReq r caching s).store.cells := by
  unfold admitReq
  repeat' split
  all_goals simp [hs]

@[simp] theorem takeIn_canon {r : Req} (hs : Memory.wf s.store.cells) : Memory.wf (takeIn r s).store.cells := by
  unfold takeIn; dsimp only
  repeat' split
  all_goals simp [hs]

@[simp] theorem requestIn_canon {r : Req} (hs : Memory.wf s.store.cells) :
    Memory.wf (requestIn r s).store.cells := by simp [requestIn, hs]
@[simp] theorem bar2In_canon {r : Req} {fn off : Nat} (hs : Memory.wf s.store.cells) : Memory.wf (bar2In r fn off s).store.cells := by
  unfold bar2In
  split <;> simp [hs]

/-! ### Regions.lean -/

theorem placePages_canon {isle id : Nat} {order : List Tier} {l : List Nat} {a : List Nat} {u : State}
    (e : placePages isle id order l s = some (a, u)) (hs : Memory.wf s.store.cells) :
    Memory.wf u.store.cells := by
  induction l generalizing s a u with
  | nil => cases e; exact hs
  | cons p l ih =>
    unfold placePages at e
    repeat' split at e
    all_goals cases e
    exact ih ‹_› (allocPage_canon hs)

@[simp] theorem mapPlaced_canon {isle rights vp0 : Nat} {pin coherent mirrored : Bool} {ty : Nat} {ps : List Nat}
    (hs : Memory.wf s.store.cells) :
    Memory.wf (mapPlaced isle rights vp0 pin coherent mirrored ty ps s).store.cells := by simp +contextual [mapPlaced, hs]
@[simp] theorem undoRegion_canon (hs : Memory.wf s.store.cells) : Memory.wf (undoRegion k s).store.cells := by
  unfold undoRegion; dsimp only
  split
  · exact hs
  split
  · simp only [updCmd_store, twinNote_cells]
    refine foldl_canon (fun s x h => releaseTable_canon h) _ ?_
    rw [setRegion_cells]
    exact foldl_canon (fun s x h => by split <;> simp [h]) _ hs
  · exact hs

@[simp] theorem mapScratch_canon {c : Cmd} (hs : Memory.wf s.store.cells) : Memory.wf (mapScratch k c s).store.cells := by
  unfold mapScratch; dsimp only
  repeat' split
  any_goals simp [hs]
  next e => exact foldl_canon (fun s i h => putEntry_canon h) _ (ensureTables_canon e hs)

@[simp] theorem mapPin_canon {c : Cmd} (hs : Memory.wf s.store.cells) : Memory.wf (mapPin k c s).store.cells := by
  unfold mapPin; dsimp only
  repeat' split
  any_goals simp [hs]
  · exact foldl_canon (fun s x h => unpinPage_canon h) _ hs
  · exact pinPages_canon ‹_› hs

@[simp] theorem recallAll_canon {id : Nat} {lines : List Nat} (hs : Memory.wf s.store.cells) :
    Memory.wf (recallAll id lines s).store.cells := by
  unfold recallAll
  exact foldl_canon (fun s x h => by split <;> simp [h]) _ hs

@[simp] theorem clearRange_canon {isle : Nat} {vps : List Nat} (hs : Memory.wf s.store.cells) :
    Memory.wf (clearRange isle vps s).store.cells := by
  unfold clearRange
  refine foldl_canon (fun s x h => releaseTable_canon h) _ (foldl_canon (fun s x h => ?_) _ hs)
  repeat' split
  all_goals simp [h]

@[simp] theorem setTierPin_canon {isle vp : Nat} {b : Bool} (hs : Memory.wf s.store.cells) :
    Memory.wf (setTierPin isle vp b s).store.cells := by
  unfold setTierPin; dsimp only
  repeat' split
  all_goals simp [hs]

theorem reservePages_canon {isle : Nat} {t : Tier} {l : List Nat} {a : List Nat} {u : State} (e : reservePages isle t l s = some (a, u))
    (hs : Memory.wf s.store.cells) :
    Memory.wf u.store.cells := by
  induction l generalizing s a u with
  | nil => cases e; exact hs
  | cons p l ih =>
    unfold reservePages at e
    split at e
    · obtain ⟨x, hx, he⟩ := Option.map_eq_some_iff.mp e
      cases he; exact ih hx hs
    · split at e
      · cases e
      · split at e
        · cases e
        · obtain ⟨x, hx, he⟩ := Option.map_eq_some_iff.mp e
          cases he; exact ih hx (allocPage_canon hs)

@[simp] theorem pinGo_canon {n : Nat} (hs : Memory.wf s.store.cells) : Memory.wf (pinGo k n s).store.cells := by
  induction n generalizing s with
  | zero => exact hs
  | succ n ih =>
    unfold pinGo; dsimp only
    repeat' split
    any_goals simp [hs, ih]
    all_goals
      have hr := fun l => foldl_canon (f := fun s x => if txnOpen s x then s else recallLine x .recall s) (by simp +contextual) l hs
      simp [hr]

/-! ### Tide.lean -/

@[simp] theorem commitMove_canon {isle vpage e p d : Nat} (hs : Memory.wf s.store.cells) :
    Memory.wf (commitMove isle vpage e p d s).store.cells := by
  unfold commitMove; dsimp only
  split
  · exact hs
  · split <;> simp [shiftCells_wf hs]

@[simp] theorem wakePage_canon {isle vpage : Nat} (hs : Memory.wf s.store.cells) :
    Memory.wf (wakePage isle vpage s).store.cells := by simp [wakePage, hs]
@[simp] theorem pinMoved_canon {isle page : Nat} (hs : Memory.wf s.store.cells) : Memory.wf (pinMoved isle page s).store.cells := by
  unfold pinMoved
  split <;> simp [hs]

/-! ### Serve.lean -/

@[simp] theorem homeShare_canon {c : Cmd} (hs : Memory.wf s.store.cells) : Memory.wf (homeShare k c s).2.store.cells := by
  unfold homeShare
  split <;> simp [hs]

@[simp] theorem serveSub_canon (hs : Memory.wf s.store.cells) : Memory.wf (serveSub k s).store.cells := by
  unfold serveSub
  split <;> simp +contextual [hs]

@[simp] theorem advance_canon (hs : Memory.wf s.store.cells) : Memory.wf (advance k s).store.cells := by
  unfold advance
  repeat' split
  all_goals simp [hs]

@[simp] theorem judgeSub_canon {h : Hdr} {id desc : Nat} {d : SubData} (hs : Memory.wf s.store.cells) :
    Memory.wf (judgeSub h id desc d s).store.cells := by
  unfold judgeSub; dsimp only
  repeat' split
  all_goals simp [hs]

@[simp] theorem rejudge_canon {takeover : Bool} (hs : Memory.wf s.store.cells) : Memory.wf (rejudge takeover s).store.cells := by
  unfold rejudge
  refine foldl_canon (fun s c h => ?_) _ hs
  split <;> simp [h]

@[simp] theorem subAnswered_canon {id : Nat} {o : Outstanding} {status hint c0 c1 : Nat} {d : SubData} (hs : Memory.wf s.store.cells) :
    Memory.wf (subAnswered id o status hint c0 c1 d s).store.cells := by
  unfold subAnswered; dsimp only
  repeat' split
  all_goals simp [hs]

@[simp] theorem answerIn_canon {h : Hdr} {f : Nat → Outstanding → State → State}
    (hf : ∀ n o s, Memory.wf s.store.cells → Memory.wf (f n o s).store.cells) (hs : Memory.wf s.store.cells) :
    Memory.wf (answerIn h f s).store.cells := by
  unfold answerIn; dsimp only
  repeat' split
  · simp [hs]
  · simp [hs]
  · exact hf _ _ _ (by simpa using hs)

@[simp] theorem resendOnce_canon {id : Nat} (hs : Memory.wf s.store.cells) : Memory.wf (resendOnce s id).store.cells := by
  unfold resendOnce
  repeat' split
  all_goals simp [hs]

@[simp] theorem redirect_canon {pid cause : Nat} (hs : Memory.wf s.store.cells) : Memory.wf (redirect pid cause s).store.cells := by
  unfold redirect; dsimp only
  repeat' split
  all_goals simp +contextual [hs]

@[simp] theorem timeOut_canon {id : Nat} (hs : Memory.wf s.store.cells) : Memory.wf (timeOut id s).store.cells := by
  unfold timeOut
  split <;> simp [hs]

/-! ### Rings.lean -/

@[simp] theorem devLines_canon {l : List Nat} (hs : Memory.wf s.store.cells) : Memory.wf (devLines l s).2.store.cells := by
  induction l generalizing s with
  | nil => simp [devLines, hs]
  | cons a l ih =>
    simp [devLines, hs, ih]

@[simp] theorem devReady_canon {isle : Nat} {l : List (Nat × Nat)} (hs : Memory.wf s.store.cells) :
    Memory.wf (devReady isle l s).2.store.cells := by
  induction l generalizing s with
  | nil => exact hs
  | cons p l ih =>
    unfold devReady; dsimp only
    split
    · simp [hs]
    split
    all_goals have ht := snd_canon ‹_› (reachPage_canon hs)
    · split <;> exact snd_canon ‹_› (ih ht)
    · exact ht
    · split
      · exact snd_canon ‹_› (ih (by split <;> simp [ht]))
      · exact ih (by split <;> simp [ht])

@[simp] theorem devWrite_canon {isle va : Nat} {bs : List Byte} (hs : Memory.wf s.store.cells) :
    Memory.wf (devWrite isle va bs s).2.store.cells := by simp [devWrite, hs]
@[simp] theorem putRecord_canon {cq : Nat} {bytes : Nat → List Byte} {ok : Bool} (hs : Memory.wf s.store.cells) :
    Memory.wf (putRecord cq bytes ok s).2.store.cells := by
  unfold putRecord; dsimp only
  repeat' split
  any_goals simp [hs]
  all_goals simp [snd_canon ‹_› (devReady_canon hs)]

@[simp] theorem setupZero_canon {isle : Nat} {r : Rec} (hs : Memory.wf s.store.cells) :
    Memory.wf (setupZero isle r s).store.cells := by simp +contextual [setupZero, hs]
@[simp] theorem setupCreate_canon {fn : Nat} (hs : Memory.wf s.store.cells) : Memory.wf (setupCreate fn s).store.cells := by
  unfold setupCreate
  extract_lets r isle st
  split
  · exact hs
  split
  · simp [hs]
  split
  all_goals simp [snd_canon ‹_› (devReady_canon hs)]

@[simp] theorem storeRead_canon {isle va n : Nat} (hs : Memory.wf s.store.cells) :
    Memory.wf (storeRead k isle va n s).2.store.cells := by
  unfold storeRead; dsimp only
  repeat' split
  any_goals simp +contextual
  all_goals exact snd_canon ‹_› (by simp +contextual [hs])

@[simp] theorem checkRest_canon {q : Sq} {d : Nat} {arg : HostRead} {reread : Bool} (hs : Memory.wf s.store.cells) :
    Memory.wf (checkRest k q d arg reread s).store.cells := by
  unfold checkRest
  iterate 8 refine canon_ite (by simp [hs]) ?_
  extract_lets r s1
  have hr : Memory.wf s1.store.cells := by
    dsimp only [s1, r]
    split <;> simp [hs]
  clear_value r s1
  repeat' split
  all_goals simp [hr]

@[simp] theorem arrive_canon {desc arg : HostRead} {reread : Bool} (hs : Memory.wf s.store.cells) :
    Memory.wf (arrive k desc arg reread s).store.cells := by
  unfold arrive; dsimp only
  repeat' split
  all_goals simp [hs]

/-! ### Isles.lean -/

@[simp] theorem destroyIsle_canon {k : Option CmdKey} {i : Nat} (hs : Memory.wf s.store.cells) :
    Memory.wf (destroyIsle k i s).store.cells := by
  unfold destroyIsle; dsimp only
  split
  · exact hs
  · rw [setIsle_cells, foldl_cells (fun s p => by simp)]
    exact foldl_canon (fun s cl h => by simp [h]) _ (by simpa using hs)

@[simp] theorem finishWd_canon {id : Nat} (hs : Memory.wf s.store.cells) : Memory.wf (finishWd s id).store.cells := by
  unfold finishWd
  repeat' split
  all_goals simp [hs]

@[simp] theorem finishWds_canon {id : Nat} (hs : Memory.wf s.store.cells) : Memory.wf (finishWds id s).store.cells := by
  unfold finishWds; dsimp only
  exact foldl_canon (fun s x h => foldl_canon (fun s i h => finishWd_canon h) _ h) _ (finishWd_canon hs)

@[simp] theorem changeBind_canon {port entry : Nat} {v : BitVec 64} {cmd : Option CmdKey} (hs : Memory.wf s.store.cells) :
    Memory.wf (changeBind port entry v cmd s).store.cells := by
  unfold changeBind
  split <;> simp [hs]

/-! ### Links.lean -/

@[simp] theorem failPort_canon {n cause : Nat} (hs : Memory.wf s.store.cells) : Memory.wf (failPort n cause s).store.cells := by
  unfold failPort; dsimp only
  have hr {t : State} (h : Memory.wf t.store.cells) (l : List Nat) : Memory.wf (l.foldl (fun s id => timeOut id s) t).store.cells :=
    foldl_canon (fun s id h => timeOut_canon h) l h
  repeat' split
  all_goals simp [hs, hr]

@[simp] theorem loseSignal_canon {n : Nat} (hs : Memory.wf s.store.cells) : Memory.wf (loseSignal n s).store.cells := by
  unfold loseSignal; dsimp only
  split
  · exact hs
  · refine pumpAll_canon (foldl_canon (fun s pid h => redirect_canon h) _ ?_)
    rw [discardSubs_cells]
    refine foldl_canon (fun s i h => loseAgent_canon h) _ ?_
    split <;> simp [hs]

@[simp] theorem lastingFlit_canon {n lane : Nat} (hs : Memory.wf s.store.cells) : Memory.wf (lastingFlit n lane s).store.cells := by
  unfold lastingFlit
  split <;> simp [hs]

@[simp] theorem resetUnit_canon {forced : Bool} {cls n : Nat} (hs : Memory.wf s.store.cells) :
    Memory.wf (resetUnit forced cls n s).store.cells := by
  unfold resetUnit
  extract_lets users s1 gone s2
  have h1 : s1.store.cells = s.store.cells := by simp [s1]
  have h2 : s2.store.cells = s.store.cells := (foldl_cells (fun s id => by simp) gone s1).trans h1
  clear_value s2
  repeat' split
  all_goals simp [hs, h2]

/-! ### Twin.lean -/

@[simp] theorem takeTransEntry_canon {isle vp e : Nat} (hs : Memory.wf s.store.cells) :
    Memory.wf (takeTransEntry isle vp e s).2.store.cells := by
  unfold takeTransEntry; dsimp only
  repeat' split
  all_goals simp [hs]

@[simp] theorem clearTwinRange_canon {isle va len : Nat} (hs : Memory.wf s.store.cells) :
    Memory.wf (clearTwinRange isle va len s).store.cells := by
  unfold clearTwinRange
  refine foldl_canon (fun s x h => ?_) _ hs
  split <;> simp [h]

@[simp] theorem applyItem_canon {it : TwinItem} (hs : Memory.wf s.store.cells) : Memory.wf (applyItem it s).2.store.cells := by
  unfold applyItem; dsimp only
  repeat' split
  all_goals simp [hs]

@[simp] theorem inheritSpace_canon (hs : Memory.wf s.store.cells) : Memory.wf (inheritSpace s).store.cells := by
  unfold inheritSpace
  refine foldl_canon (fun s x h => ?_) _ (foldl_canon (fun s x h => ?_) _ hs)
  · -- the page's number is kept folded: the kernel must not count down from it
    refine canon_of_eq (show _ = if mapped s ((x.1 - waitEntry) / 2 ^ 39) ((x.1 - waitEntry) % 2 ^ 39) then s else _ from rfl) ?_
    split
    · exact h
    · split
      · exact putEntry_canon (ensureTable_canon ‹_› h)
      · exact h
  · generalize x.1 - twinIsle = a
    dsimp only
    split
    · exact h
    · split
      · next e => simpa using newTable_canon e h
      · exact h

@[simp] theorem ackCmd_canon {id : Nat} {ok : Bool} (hs : Memory.wf s.store.cells) : Memory.wf (ackCmd k id ok s).store.cells := by
  unfold ackCmd; dsimp only
  repeat' split
  all_goals simp [hs]

@[simp] theorem acked_canon {id : Nat} {ok : Bool} (hs : Memory.wf s.store.cells) : Memory.wf (acked id ok s).store.cells := by
  unfold acked
  repeat' split
  all_goals simp [hs]

@[simp] theorem completeHeld_canon (hs : Memory.wf s.store.cells) : Memory.wf (completeHeld s).store.cells := by
  unfold completeHeld
  exact pumpAll_canon (foldl_canon (fun s id h => acked_canon h) _ hs)

@[simp] theorem serveHeld_canon (hs : Memory.wf s.store.cells) : Memory.wf (serveHeld s).store.cells := by
  unfold serveHeld
  exact pumpAll_canon (rejudge_canon (foldl_canon (fun s r h => takeIn_canon (by simpa using h)) _ hs))

@[simp] theorem degrade_canon (hs : Memory.wf s.store.cells) : Memory.wf (degrade s).store.cells := by simp [degrade, hs]
@[simp] theorem goLive_canon {pid : Nat} (hs : Memory.wf s.store.cells) : Memory.wf (goLive pid s).store.cells := by simp [goLive, hs]
@[simp] theorem takeOver_canon {cause : Nat} (hs : Memory.wf s.store.cells) :
    Memory.wf (takeOver cause s).store.cells := by simp [takeOver, hs]
@[simp] theorem loseSpare_canon (hs : Memory.wf s.store.cells) : Memory.wf (loseSpare s).store.cells := by simp [loseSpare, hs]
@[simp] theorem loseSource_canon {cause : Nat} (hs : Memory.wf s.store.cells) :
    Memory.wf (loseSource cause s).store.cells := by simp [loseSource, hs]
@[simp] theorem becomePool_canon {x : Nat} (hs : Memory.wf s.store.cells) :
    Memory.wf (becomePool x s).store.cells := by simp [becomePool, hs]
@[simp] theorem finishResync_canon (hs : Memory.wf s.store.cells) : Memory.wf (finishResync s).store.cells := by
  unfold finishResync; dsimp only
  repeat' split
  all_goals simp [hs]

/-! ### Trust.lean -/

@[simp] theorem endRequestsTo_canon {pid : Nat} (hs : Memory.wf s.store.cells) : Memory.wf (endRequestsTo pid s).store.cells := by
  unfold endRequestsTo
  refine foldl_canon (fun s id h => ?_) _ hs
  split <;> simp [h]

@[simp] theorem expel_canon {c : Cert} (hs : Memory.wf s.store.cells) : Memory.wf (expel c s).store.cells := by simp [expel, hs]
@[simp] theorem takeCert_canon {port : Nat} {bs : List Byte} {c : Cert} (hs : Memory.wf s.store.cells) :
    Memory.wf (takeCert port bs c s).2.store.cells := by
  unfold takeCert; dsimp only
  repeat' split
  all_goals simp [hs]

/-! ### Registers.lean -/

@[simp] theorem writeBind_canon {port entry : Nat} {v : BitVec 64} (hs : Memory.wf s.store.cells) :
    Memory.wf (writeBind port entry v s).store.cells := by simp [writeBind, hs]
@[simp] theorem writeBindWord_canon {port entry i v : Nat} (hs : Memory.wf s.store.cells) :
    Memory.wf (writeBindWord port entry i v s).store.cells := by simp [writeBindWord, hs]
@[simp] theorem writeDomain_canon {d : Nat} {value : BitVec 32} (hs : Memory.wf s.store.cells) :
    Memory.wf (writeDomain d value s).store.cells := by
  unfold writeDomain
  repeat' split
  all_goals simp [hs]

@[simp] theorem writeFlashCfg_canon {value : BitVec 32} (hs : Memory.wf s.store.cells) :
    Memory.wf (writeFlashCfg value s).store.cells := by
  unfold writeFlashCfg; dsimp only
  repeat' split
  any_goals simp [hs]
  all_goals exact Memory.wf_filter hs _

@[simp] theorem writeRing_canon {fn o v : Nat} (hs : Memory.wf s.store.cells) : Memory.wf (writeRing fn o v s).store.cells := by
  unfold writeRing
  split <;> simp [hs]

@[simp] theorem writeStr_canon {o v : Nat} (hs : Memory.wf s.store.cells) :
    Memory.wf (writeStr o v s).store.cells := by simp [writeStr, hs]
@[simp] theorem writeLocked_canon {off v : Nat} (hs : Memory.wf s.store.cells) : Memory.wf (writeLocked off v s).store.cells := by
  unfold writeLocked
  repeat' split
  all_goals simp [hs]

@[simp] theorem writeReg_canon {off v : Nat} (hs : Memory.wf s.store.cells) : Memory.wf (writeReg off v s).store.cells := by
  simp [writeReg, hs]

@[simp] theorem writeBar0_canon {fn off v : Nat} (hs : Memory.wf s.store.cells) :
    Memory.wf (writeBar0 fn off v s).store.cells := by simp [writeBar0, hs]

/-! ### Boot.lean -/

@[simp] theorem setUpIsle0_canon (hs : Memory.wf s.store.cells) : Memory.wf (setUpIsle0 s).store.cells := by
  unfold setUpIsle0; dsimp only
  repeat' split
  · exact hs
  · next e => simpa using newTable_canon e hs
  · exact hs

@[simp] theorem startFirmware_canon {tableBase : Nat} (hs : Memory.wf s.store.cells) :
    Memory.wf (startFirmware tableBase s).store.cells := by simp [startFirmware, hs]

/-! ### Smbus.lean -/

@[simp] theorem smbRun_canon {b : Smb} {ok : State → Bool} {answer : State → List Byte} {act : State → State}
    (hf : ∀ s, Memory.wf s.store.cells → Memory.wf (act s).store.cells) (hs : Memory.wf s.store.cells) :
    Memory.wf (smbRun b ok answer act s).store.cells := by
  unfold smbRun
  repeat' split
  · exact hs
  · simpa using hf _ hs
  · exact hs

/-! ### Power.lean -/

@[simp] theorem unpowered_canon : Memory.wf (unpowered s).store.cells := Memory.wf_nil

@[simp] theorem resetEntry_canon (hs : Memory.wf s.store.cells) : Memory.wf (resetEntry s).store.cells := by
  unfold resetEntry
  rw [dropMirror_cells, foldl_cells (fun s k => by simp)]
  exact foldl_canon (fun s c h => dropCached_canon h) _ hs

@[simp] theorem warmReset_canon {s0 : State} (hs : Memory.wf s0.store.cells) : Memory.wf (warmReset s0).store.cells := by
  unfold warmReset; dsimp only
  exact Memory.wf_clear (resetEntry_canon (by simpa using hs)) _ _

@[simp] theorem resetRise_canon (hs : Memory.wf s.store.cells) :
    Memory.wf (resetRise s).store.cells := by simp +contextual [resetRise, hs]
@[simp] theorem stepShuttle_canon (hs : Memory.wf s.store.cells) : Memory.wf (stepShuttle s).store.cells := by simp [stepShuttle, hs]
@[simp] theorem powerStep_canon {n : Nat} {f : StepFound} (hs : Memory.wf s.store.cells) :
    Memory.wf (powerStep n f s).store.cells := by
  unfold powerStep
  split <;> simp [hs]

end
end Sys2Proof.Machine

/-! ## Each command keeps the canonical form

One lemma per row of the command table, in the order of the model's chapters, each by the functions the row is made of. -/

namespace Sys2Proof.Machine

section
variable {s : State}

/-- A map that becomes current judges again what waited for it (R87), and keeps the form. -/
theorem installMap_canon {keep : Bool} {m : CompMap} (hs : Memory.wf s.store.cells) :
    Memory.wf (installMap keep m s).store.cells := by
  unfold installMap
  dsimp only
  refine pumpAll_canon (rejudge_canon (foldl_canon (fun s r h => ?_) _ (by simpa using hs)))
  split
  · simp [h]
  · split <;> simp [h]
  · simp [h]

end
/-- A row keeps the canonical form: from a state whose cells have it, it answers none without it. -/
def KeepsCanon (row : State → Host.Outcome State Fault Refusal) : Prop :=
  ∀ {s t : State}, Memory.wf s.store.cells → row s = .next t → Memory.wf t.store.cells

theorem runAlways_keeps {f : State → State} (hf : ∀ s, Memory.wf s.store.cells → Memory.wf (f s).store.cells) :
    KeepsCanon (runAlways f) := by
  intro s t hs e
  cases e
  simpa using hf s hs

theorem run_keeps {f : State → State} (hf : ∀ s, Memory.wf s.store.cells → Memory.wf (f s).store.cells) : KeepsCanon (run f) := by
  intro s t hs e
  unfold run at e
  split at e
  · exact runAlways_keeps hf hs e
  · cases e; exact hs

/-- The row of a command from a ring, whose work runs on its record. -/
theorem runCmd_keeps {k : CmdKey} {op : Nat} {f : Cmd → State → State}
    (hf : ∀ c s, Memory.wf s.store.cells → Memory.wf (f c s).store.cells) : KeepsCanon (run (withCmd k op f)) :=
  run_keeps fun _ hs => withCmd_canon hf hs

/-! ### Atoll.lean -/

theorem execAtollCreate_keeps (k : CmdKey) : KeepsCanon (execAtollCreate k) := runCmd_keeps fun c s hs => by
  dsimp only
  split
  · simp [hs]
  · refine refuseOr_canon (fun s h => whenReady_canon (fun s h => ?_) h) hs
    split
    · simp [h]
    split
    · simp [h]
    split
    · simp [h]
    · rw [endCmd_cells]
      exact vput_canon (vput_canon (syncShard_canon h))

theorem execAtollSearch_keeps (k : CmdKey) : KeepsCanon (execAtollSearch k) := runCmd_keeps fun c s hs => by
  dsimp only
  repeat' split
  all_goals simp [hs]

theorem execAtollInsert_keeps (k : CmdKey) : KeepsCanon (execAtollInsert k) := runCmd_keeps fun c s hs => by
  dsimp only
  repeat' split
  all_goals simp [hs]

theorem execAtollDelete_keeps (k : CmdKey) : KeepsCanon (execAtollDelete k) := runCmd_keeps fun c s hs => by
  dsimp only
  repeat' split
  all_goals simp [hs]

theorem execAtollMerge_keeps (k : CmdKey) : KeepsCanon (execAtollMerge k) := runCmd_keeps fun c s hs => by
  dsimp only
  repeat' split
  all_goals simp [hs]

theorem execMergeCheckpoint_keeps (k : CmdKey) : KeepsCanon (execMergeCheckpoint k) := run_keeps fun s hs => by
  dsimp only
  repeat' split
  all_goals simp [hs]

theorem execMergeCommit_keeps (k : CmdKey) : KeepsCanon (execMergeCommit k) := run_keeps fun s hs => by
  dsimp only
  repeat' split
  all_goals simp [hs]

theorem execOldRootFree_keeps (isle atoll : Nat) : KeepsCanon (execOldRootFree isle atoll) := run_keeps fun s hs => by
  repeat' split
  all_goals simp [hs]

/-! ### Lagoon.lean -/

theorem execKvAppend_keeps (k : CmdKey) : KeepsCanon (execKvAppend k) := run_keeps fun s hs => by simp +contextual [hs]
theorem execSeqCreate_keeps (k : CmdKey) : KeepsCanon (execSeqCreate k) := runCmd_keeps fun c s hs => by
  dsimp only
  split
  · simp [hs]
  split
  · simp [hs]
  split
  · next e =>
    have ht := newSeq_cells (e := e)
    simpa [ht] using hs
  · simp [hs]

theorem execSeqFork_keeps (k : CmdKey) : KeepsCanon (execSeqFork k) := run_keeps fun s hs => by simp +contextual [hs]
theorem execSeqPublish_keeps (k : CmdKey) : KeepsCanon (execSeqPublish k) := runCmd_keeps fun c s hs => by simp +contextual [hs]

theorem execSeqRelease_keeps (k : CmdKey) : KeepsCanon (execSeqRelease k) := run_keeps fun s hs => by simp +contextual [hs]
theorem execSeqQuery_keeps (k : CmdKey) : KeepsCanon (execSeqQuery k) := run_keeps fun s hs => by simp +contextual [hs]
theorem execSeqHandoffOffer_keeps (k : CmdKey) : KeepsCanon (execSeqHandoffOffer k) := run_keeps fun s hs => by simp +contextual [hs]
theorem execSeqHandoffAccept_keeps (k : CmdKey) : KeepsCanon (execSeqHandoffAccept k) := run_keeps fun s hs => by simp +contextual [hs]
theorem execHandoffExpiry_keeps (handle : Nat) : KeepsCanon (execHandoffExpiry handle) := run_keeps fun s hs => by
  repeat' split
  all_goals simp [hs]

theorem execOrphanReclaim_keeps (handle : Nat) : KeepsCanon (execOrphanReclaim handle) := run_keeps fun s hs => by
  repeat' split
  all_goals simp [hs]

theorem execRingGoneNotice_keeps (h : Hdr) (rings : List Nat) : KeepsCanon (execRingGoneNotice h rings) := run_keeps fun s hs => by
  simp [hs]

/-! ### Fences.lean -/

theorem execFence_keeps (k : CmdKey) : KeepsCanon (execFence k) := run_keeps fun s hs => by simp [hs]
theorem execFenceComplete_keeps (k : CmdKey) : KeepsCanon (execFenceComplete k) := run_keeps fun s hs => by simp [hs]
theorem execRelease_keeps (k : CmdKey) : KeepsCanon (execRelease k) := runCmd_keeps fun c s hs => by simp +contextual [hs]

theorem execAcquire_keeps (k : CmdKey) : KeepsCanon (execAcquire k) := run_keeps fun s hs => by simp +contextual [hs]
theorem execAcquireReread_keeps (k : CmdKey) : KeepsCanon (execAcquireReread k) := run_keeps fun s hs => by simp +contextual [hs]

/-! ### Weave.lean -/

theorem execWeave_keeps (k : CmdKey) : KeepsCanon (execWeave k) := runCmd_keeps fun c s hs => by
  have hl {t : State} (h : Memory.wf t.store.cells) (l : List Nat) :
      Memory.wf (l.foldl (scrubScratch (scratchOff c) (scratchLen c)) t).store.cells :=
    foldl_canon (fun s cl h => scrubScratch_canon h) l h
  split
  · split
    · simp [hs]
    split
    · simp [hs]
    · simp [hs]
    · exact weaveLoop_canon (by simpa using hl (takeClusters_canon (by simpa using hs)) _)
  · exact weaveLoop_canon hs

theorem execWeavePhaseStart_keeps (k : CmdKey) : KeepsCanon (execWeavePhaseStart k) := run_keeps fun s hs => by simp +contextual [hs]
theorem execGatherAcquire_keeps (k : CmdKey) : KeepsCanon (execGatherAcquire k) := runCmd_keeps fun c s hs => by simp +contextual [hs]

theorem execWriteRelease_keeps (k : CmdKey) : KeepsCanon (execWriteRelease k) := runCmd_keeps fun c s hs => by
  dsimp only
  repeat' split
  any_goals simp +contextual [hs]
  all_goals simp +contextual [snd_canon ‹_› (access_canon hs)]

theorem execAcquireTimeout_keeps (k : CmdKey) : KeepsCanon (execAcquireTimeout k) := run_keeps fun s hs => by
  refine withCmd_canon (fun c s h => ?_) (withCmd_canon (fun c s h => ?_) hs)
  · split <;> simp [h]
  · repeat' split
    all_goals simp [h]

/-! ### Attn.lean -/

theorem execAttnDecode_keeps (k : CmdKey) : KeepsCanon (execAttnDecode k) := runCmd_keeps fun c s hs => by simp +contextual [hs]

theorem execAttnCombine_keeps (k : CmdKey) : KeepsCanon (execAttnCombine k) := runCmd_keeps fun c s hs => by
  split
  · simp [hs]
  · refine withClusters_canon (fun st s h => by simp [h]) (fun s h => whenReady_canon (fun s h => ?_) h) (by simp [hs])
    dsimp only
    repeat' split
    all_goals simp [h]

/-! ### Clocks.lean -/

theorem execRefSelectWrite_keeps (value : BitVec 32) : KeepsCanon (execRefSelectWrite value) := run_keeps fun s hs => by simp [hs]
theorem execPllLocked_keeps : KeepsCanon execPllLocked := run_keeps fun s hs => by simp [hs]
theorem execClkRefLost_keeps (cause : Nat) : KeepsCanon (execClkRefLost cause) := run_keeps fun s hs => by simp [hs]
theorem execRefSwitchBack_keeps : KeepsCanon execRefSwitchBack := run_keeps fun s hs => by simp [hs]
theorem execOscTrim_keeps (code : BitVec 16) : KeepsCanon (execOscTrim code) := run_keeps fun s hs => by simp [hs]
theorem execRootStopped_keeps : KeepsCanon execRootStopped := run_keeps fun s hs => by simp [hs]

/-! ### Dma.lean -/

theorem execNop_keeps (k : CmdKey) : KeepsCanon (execNop k) := run_keeps fun s hs => by simp [hs]
theorem execCopy_keeps (k : CmdKey) (bursts : Nat) (bad : List LineFault) : KeepsCanon (execCopy k bursts bad) :=
    runCmd_keeps fun c s hs => by
  simp [hs]

theorem execFill_keeps (k : CmdKey) (bursts : Nat) : KeepsCanon (execFill k bursts) := run_keeps fun s hs => by simp +contextual [hs]
theorem execTileCopy_keeps (k : CmdKey) (bursts : Nat) : KeepsCanon (execTileCopy k bursts) := runCmd_keeps fun c s hs => by
  dsimp only
  repeat' split
  all_goals simp [hs]

theorem execCheck_keeps (k : CmdKey) (bursts : Nat) : KeepsCanon (execCheck k bursts) := run_keeps fun s hs => by simp +contextual [hs]
theorem execPoisonClear_keeps (k : CmdKey) : KeepsCanon (execPoisonClear k) := runCmd_keeps fun c s hs => by
  dsimp only
  split
  · simp [hs]
  · refine whenReady_canon (fun s h => ?_) hs
    simp only [endCmd_cells, awaitItems_cells]
    refine List.foldlRecOn (motive := fun (r : Nat × Nat × State) => Memory.wf r.2.2.store.cells) _ _ h (fun r h i _ => ?_)
    split
    · split <;> simp [h]
    · exact h

theorem execAtomicBatch_keeps (k : CmdKey) : KeepsCanon (execAtomicBatch k) := runCmd_keeps fun c s hs => by
  split
  · simp [hs]
  · dsimp only
    split
    all_goals have ht := snd_canon ‹_› (access_canon (s := startCmd k s) (by simpa using hs))
    · simp [ht]
    · exact ht
    · repeat' split
      all_goals simp [ht]

/-! ### Emb.lean -/

theorem execEmbGather_keeps (k : CmdKey) : KeepsCanon (execEmbGather k) := run_keeps fun s hs => by simp +contextual [hs]
theorem execEmbUpdate_keeps (k : CmdKey) : KeepsCanon (execEmbUpdate k) := run_keeps fun s hs => by simp +contextual [hs]
theorem execEmbStepClose_keeps (k : CmdKey) : KeepsCanon (execEmbStepClose k) := run_keeps fun s hs => by simp +contextual [hs]
theorem execEmbStats_keeps (k : CmdKey) : KeepsCanon (execEmbStats k) := runCmd_keeps fun c s hs => by
  dsimp only
  repeat' split
  all_goals simp +contextual [hs]

theorem execRowMigrate_keeps (k : CmdKey) : KeepsCanon (execRowMigrate k) := runCmd_keeps fun c s hs => by
  dsimp only
  repeat' split
  all_goals simp [hs]

theorem execFerryHoldEnd_keeps : KeepsCanon execFerryHoldEnd := run_keeps fun s hs => by simp [hs]
theorem execFerryCopyDone_keeps (table slot rows : Nat) : KeepsCanon (execFerryCopyDone table slot rows) := run_keeps fun s hs => by
  repeat' split
  all_goals simp [hs]

/-! ### Ingress.lean -/

theorem execRspAck_keeps (h : Hdr) : KeepsCanon (execRspAck h) := run_keeps fun s hs => by simp [hs]
theorem execRspData_keeps (h : Hdr) (line : WireLine) : KeepsCanon (execRspData h line) := run_keeps fun s hs => by simp [hs]
theorem execAgentSweepDone_keeps (idx : Nat) : KeepsCanon (execAgentSweepDone idx) := run_keeps fun s hs => by
  dsimp only
  repeat' split
  all_goals simp [hs]

theorem execSnoopTimeout_keeps (off : Nat) : KeepsCanon (execSnoopTimeout off) := run_keeps fun s hs => by
  repeat' split
  all_goals simp +contextual [hs]

theorem execRdShared_keeps (h : Hdr) (directory : Media) : KeepsCanon (execRdShared h directory) := run_keeps fun s hs => by simp [hs]
theorem execRdOwn_keeps (h : Hdr) : KeepsCanon (execRdOwn h) := run_keeps fun s hs => by simp [hs]
theorem execUpgrade_keeps (h : Hdr) : KeepsCanon (execUpgrade h) := run_keeps fun s hs => by simp [hs]
theorem execDirty_keeps (h : Hdr) : KeepsCanon (execDirty h) := run_keeps fun s hs => by simp [hs]
theorem execWrBack_keeps (h : Hdr) (line : WireLine) : KeepsCanon (execWrBack h line) := run_keeps fun s hs => by simp [hs]
theorem execRdUncached_keeps (h : Hdr) (bad : List LineFault) : KeepsCanon (execRdUncached h bad) := run_keeps fun s hs => by simp [hs]
theorem execWrLine_keeps (h : Hdr) (line : WireLine) : KeepsCanon (execWrLine h line) := run_keeps fun s hs => by simp [hs]
theorem execWrPartial_keeps (h : Hdr) (mask : BitVec 64) (line : WireLine) : KeepsCanon (execWrPartial h mask line) :=
    run_keeps fun s hs => by simp [hs]
theorem execAtomic_keeps (h : Hdr) (op : Nat) (a c : BitVec 128) : KeepsCanon (execAtomic h op a c) := run_keeps fun s hs => by simp [hs]
theorem execRdRun_keeps (h : Hdr) : KeepsCanon (execRdRun h) := run_keeps fun s hs => by simp [hs]
theorem execWrRun_keeps (h : Hdr) (lines : List WireLine) : KeepsCanon (execWrRun h lines) := run_keeps fun s hs => by simp [hs]
theorem execBar2Read_keeps (fn off len : Nat) (bad : List LineFault) : KeepsCanon (execBar2Read fn off len bad) :=
    run_keeps fun s hs => by simp [hs]
theorem execBar2Write_keeps (fn off : Nat) (bytes : List Byte) : KeepsCanon (execBar2Write fn off bytes) := run_keeps fun s hs => by
  simp [hs]

theorem execTlbWalkDone_keeps (isle page : Nat) (tlb : Media) : KeepsCanon (execTlbWalkDone isle page tlb) := run_keeps fun s hs => by
  split
  · exact hs
  split
  · simp [hs]
  dsimp only
  refine pumpAll_canon (foldl_canon (fun s r h => serve_canon (by simpa using h)) _ ?_)
  have h1 : Memory.wf (if tlb == .transient then countTransient s else s).store.cells := by split <;> simp [hs]
  split
  · exact foldl_canon (fun s x h => by simp [h]) _ h1
  · exact h1

theorem execProgressDue_keeps (id : Nat) : KeepsCanon (execProgressDue id) := run_keeps fun s hs => by
  repeat' split
  all_goals simp [hs]

/-! ### Regions.lean -/

theorem execRegionAlloc_keeps (k : CmdKey) : KeepsCanon (execRegionAlloc k) := runCmd_keeps fun c s hs => by
  dsimp only
  split
  · simp [hs]
  split
  · simp [hs]
  split
  · next h1 =>
    split
    · simp [hs]
    · next h2 =>
      have ht := placePages_canon h2 (ensureTables_canon h1 hs)
      simp [ht]
  · simp [hs]

theorem execMap_keeps (k : CmdKey) : KeepsCanon (execMap k) := run_keeps fun s hs => by simp +contextual [hs]
theorem execUnmap_keeps (k : CmdKey) : KeepsCanon (execUnmap k) := runCmd_keeps fun c s hs => by
  dsimp only
  repeat' split
  all_goals simp [hs]

theorem execRegionFree_keeps (k : CmdKey) : KeepsCanon (execRegionFree k) := runCmd_keeps fun c s hs => by
  dsimp only
  repeat' split
  all_goals simp [hs]

theorem execWithdrawalStart_keeps : KeepsCanon execWithdrawalStart := run_keeps fun s hs => by
  repeat' split
  all_goals simp [hs]

theorem execWithdrawalSweepDone_keeps (id : Nat) : KeepsCanon (execWithdrawalSweepDone id) := run_keeps fun s hs => by
  dsimp only
  repeat' split
  all_goals simp [hs]

theorem execDrainEnd_keeps (id : Nat) : KeepsCanon (execDrainEnd id) := run_keeps fun s hs => by
  dsimp only
  repeat' split
  all_goals simp [hs]

theorem execDrainBoundExpiry_keeps (id : Nat) : KeepsCanon (execDrainBoundExpiry id) := run_keeps fun s hs => by
  split
  · exact hs
  split
  · exact hs
  dsimp only
  simp only [endDrain_cells, updWd_store]
  refine foldl_canon (fun s l h => ?_) _ (foldl_canon (fun s c h => by simpa using h) _ hs)
  split <;> simpa using h

theorem execPinTier_keeps (k : CmdKey) : KeepsCanon (execPinTier k) := runCmd_keeps fun c s hs => by
  dsimp only
  split
  · simp [hs]
  split
  · simp [hs]
  split
  · simp [hs]
  split
  · split
    · simp [hs]
    · have hl := foldl_canon (f := fun s p => setTierPin c.isle p false s) (fun s p h => setTierPin_canon h)
        (pagesOf (c.va 24) (c.fld 32 0 64)) hs
      simpa using hl
  split
  · simp [hs]
  · next e =>
    refine pinGo_canon ?_
    simp only [updCmd_store, startCmd_cells]
    exact foldl_canon (fun s p h => by split <;> simp [h]) _ (reservePages_canon e hs)

/-! ### Tide.lean -/

theorem execPromotionCommit_keeps (isle page : Nat) : KeepsCanon (execPromotionCommit isle page) := run_keeps fun s hs => by
  repeat' split
  all_goals simp [hs]

theorem execMoveCommit_keeps (isle page : Nat) : KeepsCanon (execMoveCommit isle page) := run_keeps fun s hs => by
  split
  · next e p m _ =>
    split
    · exact hs
    · have hm := wakePage_canon (isle := isle) (vpage := page)
          (commitMove_canon (isle := isle) (vpage := page) (e := e) (p := p) (d := m.dest / pageSize) hs)
      dsimp only
      split
      · exact pinMoved_canon hm
      · exact hm
  · exact hs

theorem execTieringEpoch_keeps : KeepsCanon execTieringEpoch := run_keeps fun s hs => by simp [hs]
theorem execWarmupEnd_keeps : KeepsCanon execWarmupEnd := run_keeps fun s hs => by simp [hs]
theorem execFlashReadDone_keeps (off : Nat) (outcome : Media) (restored : Bool) : KeepsCanon (execFlashReadDone off outcome restored) :=
    run_keeps fun s hs => by
  dsimp only
  repeat' split
  all_goals simp +contextual [hs]

theorem execFlashProgramDone_keeps (off : Nat) (outcome : Media) : KeepsCanon (execFlashProgramDone off outcome) :=
    run_keeps fun s hs => by
  dsimp only
  repeat' split
  all_goals simp [hs]

theorem execFlashEraseDone_keeps (chan : Nat) (outcome : Media) : KeepsCanon (execFlashEraseDone chan outcome) := run_keeps fun s hs => by
  dsimp only
  repeat' split
  all_goals simp [hs]

theorem execChannelFailed_keeps (chan : Nat) : KeepsCanon (execChannelFailed chan) := run_keeps fun s hs => by
  repeat' split
  all_goals simp [hs]

theorem execGarbageCollection_keeps (chan spare : Nat) : KeepsCanon (execGarbageCollection chan spare) := run_keeps fun s hs => by
  dsimp only
  repeat' split
  all_goals simp [hs]

theorem execFlashScrub_keeps (off : Nat) (outcome : Media) (restored : Bool) : KeepsCanon (execFlashScrub off outcome restored) :=
    run_keeps fun s hs => by
  dsimp only
  repeat' split
  all_goals simp [hs]

theorem execPatrolScrub_keeps (off : Nat) (corrected : Bool) (outcome : Media) : KeepsCanon (execPatrolScrub off corrected outcome) :=
    run_keeps fun s hs => by
  dsimp only
  repeat' split
  all_goals simp [hs]

theorem execTelemetrySample_keeps : KeepsCanon execTelemetrySample := run_keeps fun s hs => by simp [hs]

/-! ### Serve.lean -/

theorem execSubcmd_keeps (h : Hdr) (desc : Nat) (data : SubData) : KeepsCanon (execSubcmd h desc data) := run_keeps fun s hs => by
  dsimp only
  repeat' split
  all_goals simp [hs]

theorem execSubcmdDone_keeps (h : Hdr) (code : Nat) (detail : BitVec 32) (count0 count1 : Nat) (data : SubData) :
    KeepsCanon (execSubcmdDone h code detail count0 count1 data) :=
    run_keeps fun s hs => by
  exact answerIn_canon (fun n o s h => pumpAll_canon (subAnswered_canon h)) hs

theorem execStatus_keeps (h : Hdr) (code : Nat) (detail : BitVec 32) : KeepsCanon (execStatus h code detail) := run_keeps fun s hs => by
  exact answerIn_canon (fun n o s h => pumpAll_canon (subAnswered_canon h)) hs

theorem execProgress_keeps (h : Hdr) : KeepsCanon (execProgress h) := run_keeps fun s hs => by simp [hs]
theorem execRetry_keeps (h : Hdr) (backoff : Nat) : KeepsCanon (execRetry h backoff) := run_keeps fun s hs => by simp [hs]
theorem execReadData_keeps (h : Hdr) (code first : Nat) (lines : List WireLine) : KeepsCanon (execReadData h code first lines) :=
    run_keeps fun s hs => by simp [hs]
theorem execRunCont_keeps (h : Hdr) (first : Nat) (lines : List WireLine) : KeepsCanon (execRunCont h first lines) :=
    run_keeps fun s hs => by simp [hs]
theorem execAtomicResult_keeps (h : Hdr) (code : Nat) (prior : BitVec 128) : KeepsCanon (execAtomicResult h code prior) :=
    run_keeps fun s hs => by simp [hs]
theorem execBackOffExpiry_keeps (id : Nat) : KeepsCanon (execBackOffExpiry id) := run_keeps fun s hs => by
  repeat' split
  all_goals simp [hs]

theorem execRequestTimeout_keeps (id : Nat) : KeepsCanon (execRequestTimeout id) := run_keeps fun s hs => by
  repeat' split
  all_goals simp [hs]

theorem execMapInstall_keeps (k : CmdKey) : KeepsCanon (execMapInstall k) := runCmd_keeps fun c s hs => by
  dsimp only
  split
  · simp [hs]
  split
  · simp [hs]
  · refine whenReady_canon (fun s h => ?_) hs
    split
    · simp [h]
    split
    · simp [h]
    split
    · simp [h]
    split
    · simp [h]
    split <;> split
    · simp [h]
    · exact installMap_canon (by simpa using h)
    · simp [h]
    · exact installMap_canon (by simpa using h)

theorem execCommitNotice_keeps (port src tid slot newHome va : Nat) (epoch : BitVec 8) (step : BitVec 32) :
    KeepsCanon (execCommitNotice port src tid slot newHome va epoch step) :=
    run_keeps fun s hs => by
  split
  · exact hs
  split
  · simp [hs]
  dsimp only
  split
  · rw [sendManage_cells]
    exact installMap_canon (by split <;> exact hs)
  · exact installMap_canon hs

theorem execCommitNoticeAck_keeps (port src tid slot : Nat) : KeepsCanon (execCommitNoticeAck port src tid slot) :=
    run_keeps fun s hs => by
  split
  · exact hs
  split
  · exact hs
  dsimp only
  refine foldl_canon (fun s c h => by split <;> simp [h]) _ ?_
  simp only [raise_cells, endCmd_cells]
  refine foldl_canon (fun s p h => by simpa using h) _ ?_
  exact installMap_canon hs

theorem execEpochHoldExpiry_keeps (id : Nat) : KeepsCanon (execEpochHoldExpiry id) := run_keeps fun s hs => by
  dsimp only
  repeat' split
  all_goals simp [hs]

theorem execGraceExpiry_keeps : KeepsCanon execGraceExpiry := run_keeps fun s hs => by simp [hs]

/-! ### Plans.lean -/

theorem execPlanAdmit_keeps (k : CmdKey) : KeepsCanon (execPlanAdmit k) := runCmd_keeps fun c s hs => by
  split
  · simp [hs]
  split
  · simp [hs]
  · refine whenReady_canon (fun s h => ?_) hs
    dsimp only
    split
    · simp [h]
    split
    · simp [h]
    split
    · simp [h]
    split
    · simp [h]
    · simp [h]

theorem execPlanPrepareAnswer_keeps (port src handle : Nat) (answer : PrepAnswer) :
    KeepsCanon (execPlanPrepareAnswer port src handle answer) :=
    run_keeps fun s hs => by
  dsimp only
  repeat' split
  all_goals simp [hs]

theorem execPrepareTimeout_keeps (handle : Nat) : KeepsCanon (execPrepareTimeout handle) := run_keeps fun s hs => by
  dsimp only
  repeat' split
  all_goals simp [hs]

theorem execPlanPrepare_keeps (port src handle : Nat) (plan : List Byte) (isle : Nat) :
    KeepsCanon (execPlanPrepare port src handle plan isle) :=
    run_keeps fun s hs => by
  dsimp only
  repeat' split
  all_goals simp [hs]

theorem execPlanCommit_keeps (port src handle : Nat) : KeepsCanon (execPlanCommit port src handle) := run_keeps fun s hs => by
  dsimp only
  repeat' split
  all_goals simp [hs]

theorem execPlanAbort_keeps (port src handle : Nat) : KeepsCanon (execPlanAbort port src handle) := run_keeps fun s hs => by simp [hs]
theorem execTentativeExpiry_keeps (handle : Nat) : KeepsCanon (execTentativeExpiry handle) := run_keeps fun s hs => by simp [hs]
theorem execPlanArm_keeps (port src handle : Nat) (start : BitVec 48) : KeepsCanon (execPlanArm port src handle start) :=
    run_keeps fun s hs => by
  dsimp only
  repeat' split
  all_goals simp [hs]

theorem execPlanStopNotice_keeps (port src handle : Nat) (atCycleEnd : Bool) : KeepsCanon (execPlanStopNotice port src handle atCycleEnd) :=
    run_keeps fun s hs => by
  dsimp only
  repeat' split
  all_goals simp [hs]

theorem execPlanStart_keeps (k : CmdKey) : KeepsCanon (execPlanStart k) := runCmd_keeps fun c s hs => by
  dsimp only
  repeat' split
  all_goals simp [hs]

theorem execPlanStop_keeps (k : CmdKey) : KeepsCanon (execPlanStop k) := runCmd_keeps fun c s hs => by
  repeat' split
  all_goals simp [hs]

theorem execPlanMemberAck_keeps (port src handle code : Nat) : KeepsCanon (execPlanMemberAck port src handle code) :=
    run_keeps fun s hs => by
  dsimp only
  repeat' split
  all_goals simp [hs]

theorem execPauseNotice_keeps (port src : Nat) : KeepsCanon (execPauseNotice port src) := run_keeps fun s hs => by simp [hs]
theorem execBeat_keeps (port : Nat) (number : BitVec 48) (root hops : Nat) (phaseErr : Int) :
    KeepsCanon (execBeat port number root hops phaseErr) :=
    run_keeps fun s hs => by simp [hs]
theorem execBeatInputFailover_keeps : KeepsCanon execBeatInputFailover := run_keeps fun s hs => by simp [hs]
theorem execBeatUnsynced_keeps (cause : Nat) : KeepsCanon (execBeatUnsynced cause) := run_keeps fun s hs => by simp [hs]
theorem execBeatBoundary_keeps (slack : Int) : KeepsCanon (execBeatBoundary slack) := run_keeps fun s hs => by simp [hs]
theorem execPickOverrun_keeps (k : CmdKey) : KeepsCanon (execPickOverrun k) := run_keeps fun s hs => by simp [hs]

/-! ### Rings.lean -/

theorem execRingCreate_keeps (k : CmdKey) : KeepsCanon (execRingCreate k) := runCmd_keeps fun c s hs => by
  split
  · simp [hs]
  dsimp only
  split
  · simp [hs]
  split
  all_goals have ht := snd_canon ‹_› (devReady_canon (s := startCmd k s) (by simpa using hs))
  all_goals simp [ht]

theorem execRingDestroy_keeps (k : CmdKey) : KeepsCanon (execRingDestroy k) := runCmd_keeps fun c s hs => by
  dsimp only
  repeat' split
  all_goals simp [hs]

theorem execRingSetupCreate_keeps (fn : Nat) : KeepsCanon (execRingSetupCreate fn) := run_keeps fun s hs => by simp [hs]
theorem execRingSetupDestroy_keeps (fn sq : Nat) : KeepsCanon (execRingSetupDestroy fn sq) := run_keeps fun s hs => by simp [hs]
theorem execDoorbellPoll_keeps (fn : Nat) (line : BitVec 64) : KeepsCanon (execDoorbellPoll fn line) := run_keeps fun s hs => by simp [hs]
theorem execDoorbellPollReturn_keeps (fn : Nat) (line : BitVec 64) (data : HostRead) : KeepsCanon (execDoorbellPollReturn fn line data) :=
    run_keeps fun s hs => by
  dsimp only
  repeat' split
  all_goals simp [hs]

theorem execWatchedWakeup_keeps (off : Nat) : KeepsCanon (execWatchedWakeup off) := run_keeps fun s hs => by simp [hs]
theorem execDescriptorFetch_keeps (context : Media) : KeepsCanon (execDescriptorFetch context) := run_keeps fun s hs => by
  dsimp only
  repeat' split
  all_goals simp [hs]

theorem execDescriptorArrival_keeps (k : CmdKey) (desc arg : HostRead) : KeepsCanon (execDescriptorArrival k desc arg) :=
    run_keeps fun s hs => by simp [hs]
theorem execDescriptorReread_keeps (k : CmdKey) (desc arg : HostRead) : KeepsCanon (execDescriptorReread k desc arg) :=
    run_keeps fun s hs => by simp [hs]
theorem execCompletionTimeout_keeps (k : CmdKey) (arg : Bool) : KeepsCanon (execCompletionTimeout k arg) := run_keeps fun s hs => by
  repeat' split
  all_goals simp [hs]

theorem execRingErrorRecord_keeps (sq : Nat) (ok : Bool) : KeepsCanon (execRingErrorRecord sq ok) := run_keeps fun s hs => by
  split
  · exact hs
  split
  · exact hs
  split
  · exact hs
  dsimp only
  split
  all_goals have ht := snd_canon ‹_› (putRecord_canon hs)
  all_goals simp [ht]

theorem execCompletionWrite_keeps (k : CmdKey) (ok : Bool) : KeepsCanon (execCompletionWrite k ok) := run_keeps fun s hs => by
  repeat' split
  any_goals simp [hs]
  all_goals simp [snd_canon ‹_› (putRecord_canon hs)]

theorem execMsixModerationTimeout_keeps (cq : Nat) : KeepsCanon (execMsixModerationTimeout cq) := run_keeps fun s hs => by
  repeat' split
  all_goals simp [hs]

theorem execMsixUnmask_keeps (fn vec : Nat) : KeepsCanon (execMsixUnmask fn vec) := run_keeps fun s hs => by simp [hs]
theorem execEventPost_keeps : KeepsCanon execEventPost := run_keeps fun s hs => by simp [hs]
theorem execBusMasterEnableSet_keeps (fn : Nat) : KeepsCanon (execBusMasterEnableSet fn) := run_keeps fun s hs => by
  dsimp only
  repeat' split
  all_goals simp [hs]

/-! ### Isles.lean -/

theorem execIsleCreate_keeps (k : CmdKey) : KeepsCanon (execIsleCreate k) := runCmd_keeps fun c s hs => by
  dsimp only
  split
  · simp [hs]
  split
  · simp [hs]
  split
  · simp [hs]
  split
  · simp [hs]
  · next e =>
    have ht := newTable_canon e hs
    simp [ht]

theorem execIsleActivate_keeps (k : CmdKey) : KeepsCanon (execIsleActivate k) := runCmd_keeps fun c s hs => by
  dsimp only
  repeat' split
  all_goals simp [hs]

theorem execIsleChange_keeps (k : CmdKey) : KeepsCanon (execIsleChange k) := run_keeps fun s hs => by simp [hs]
theorem execIsleDestroy_keeps (k : CmdKey) : KeepsCanon (execIsleDestroy k) := runCmd_keeps fun c s hs => by
  dsimp only
  split
  · simp [hs]
  split
  · exact hs
  split
  · simp [hs]
  split
  · simp [hs]
  · simp [hs]

theorem execWithdrawalComplete_keeps (id : Nat) : KeepsCanon (execWithdrawalComplete id) := run_keeps fun s hs => by
  dsimp only
  repeat' split
  all_goals simp [hs]

theorem execIsleReset_keeps (k : CmdKey) : KeepsCanon (execIsleReset k) := runCmd_keeps fun c s hs => by
  dsimp only
  repeat' split
  all_goals simp [hs]

theorem execBindSet_keeps (k : CmdKey) : KeepsCanon (execBindSet k) := run_keeps fun s hs => by simp +contextual [hs]
theorem execAgentEvict_keeps (k : CmdKey) : KeepsCanon (execAgentEvict k) := runCmd_keeps fun c s hs => by
  repeat' split
  all_goals simp [hs]

/-! ### Links.lean -/

theorem execSignalDetect_keeps (port : Nat) : KeepsCanon (execSignalDetect port) := run_keeps fun s hs => by
  repeat' split
  all_goals simp [hs]

theorem execPortUp_keeps (port : Nat) (half : Option Nat) (reversed : Bool) (delay : Nat) :
    KeepsCanon (execPortUp port half reversed delay) :=
    run_keeps fun s hs => by
  dsimp only
  repeat' split
  all_goals simp [hs]

theorem execTrainingFailed_keeps (port : Nat) : KeepsCanon (execTrainingFailed port) := run_keeps fun s hs => by
  repeat' split
  all_goals simp [hs]

theorem execLossOfSignal_keeps (port : Nat) : KeepsCanon (execLossOfSignal port) := run_keeps fun s hs => by simp [hs]
theorem execFlitReceive_keeps (port : Nat) (flit : Flit) : KeepsCanon (execFlitReceive port flit) := run_keeps fun s hs => by
  dsimp only
  repeat' split
  all_goals simp [hs]

theorem execRetireReq_keeps (port half : Nat) : KeepsCanon (execRetireReq port half) := run_keeps fun s hs => by
  dsimp only
  repeat' split
  all_goals simp [hs]

theorem execRetireAck_keeps (port half : Nat) : KeepsCanon (execRetireAck port half) := run_keeps fun s hs => by
  repeat' split
  all_goals simp [hs]

theorem execRetrain_keeps (port : Nat) : KeepsCanon (execRetrain port) := run_keeps fun s hs => by simp [hs]
theorem execEcho_keeps (port : Nat) (stamp : BitVec 64) : KeepsCanon (execEcho port stamp) := run_keeps fun s hs => by simp [hs]
theorem execEchoReply_keeps (port : Nat) (stamp : BitVec 64) (delay : Nat) : KeepsCanon (execEchoReply port stamp delay) :=
    run_keeps fun s hs => by simp [hs]
theorem execLinkAdaptation_keeps (port delay : Nat) : KeepsCanon (execLinkAdaptation port delay) := run_keeps fun s hs => by simp [hs]
theorem execPortRetrain_keeps (k : CmdKey) : KeepsCanon (execPortRetrain k) := runCmd_keeps fun c s hs => by
  dsimp only
  repeat' split
  all_goals simp [hs]

theorem execPortDisable_keeps (port : Nat) (value : BitVec 32) : KeepsCanon (execPortDisable port value) := run_keeps fun s hs => by
  simp [hs]

theorem execPortEnable_keeps (port : Nat) (value : BitVec 32) : KeepsCanon (execPortEnable port value) := run_keeps fun s hs => by simp [hs]
theorem execUnitReset_keeps (k : CmdKey) : KeepsCanon (execUnitReset k) := run_keeps fun s hs => by simp +contextual [hs]

/-! ### Members.lean -/

theorem execHello_keeps (port : Nat) (m : Hello) : KeepsCanon (execHello port m) := run_keeps fun s hs => by simp [hs]
theorem execImagePart_keeps (port offset total : Nat) (bytes : List Byte) : KeepsCanon (execImagePart port offset total bytes) :=
    run_keeps fun s hs => by simp [hs]
theorem execIdClaim_keeps (port : Nat) (c : Claim) : KeepsCanon (execIdClaim port c) := run_keeps fun s hs => by simp [hs]
theorem execIdConflict_keeps (port poolId : Nat) (nonce : BitVec 64) : KeepsCanon (execIdConflict port poolId nonce) :=
    run_keeps fun s hs => by simp [hs]
theorem execClaimStands_keeps : KeepsCanon execClaimStands := run_keeps fun s hs => by simp [hs]

/-! ### Twin.lean -/

theorem execTwinAcknowledgement_keeps (port id : Nat) (ok : Bool) : KeepsCanon (execTwinAcknowledgement port id ok) :=
    run_keeps fun s hs => by simp [hs]
theorem execResyncCopyDone_keeps : KeepsCanon execResyncCopyDone := run_keeps fun s hs => by simp [hs]
theorem execResyncWatermark_keeps (poolId region mark : Nat) : KeepsCanon (execResyncWatermark poolId region mark) :=
    run_keeps fun s hs => by
  -- the region looked up is kept opaque: the kernel would otherwise compute its key to compare the branches
  obtain ⟨look, hlook⟩ : ∃ look, copyRegion s = look := ⟨_, rfl⟩
  rw [hlook]
  dsimp only
  split
  · exact hs
  split
  · exact hs
  split
  · exact hs
  split
  · simp [hs]
  · simp [hs]

theorem execTwinPair_keeps (k : CmdKey) : KeepsCanon (execTwinPair k) := run_keeps fun s hs => by simp [hs]
theorem execTwinPairTimeout_keeps (k : CmdKey) : KeepsCanon (execTwinPairTimeout k) := run_keeps fun s hs => by simp [hs]
theorem execCausewayJournal_keeps (port : Nat) (item : TwinItem) : KeepsCanon (execCausewayJournal port item) := run_keeps fun s hs => by
  simp [hs]

theorem execHeartbeat_keeps (port src : Nat) (beat : BitVec 48) (epoch : BitVec 64) : KeepsCanon (execHeartbeat port src beat epoch) :=
    run_keeps fun s hs => by simp [hs]
theorem execCausewayLost_keeps : KeepsCanon execCausewayLost := run_keeps fun s hs => by
  dsimp only
  repeat' split
  all_goals simp [hs]

theorem execProbe_keeps (port src : Nat) : KeepsCanon (execProbe port src) := run_keeps fun s hs => by simp [hs]
theorem execProbeAck_keeps (port src : Nat) : KeepsCanon (execProbeAck port src) := run_keeps fun s hs => by simp [hs]
theorem execProbeTimeout_keeps : KeepsCanon execProbeTimeout := run_keeps fun s hs => by simp [hs]
theorem execFenceNotice_keeps (port src : Nat) : KeepsCanon (execFenceNotice port src) := run_keeps fun s hs => by simp [hs]
theorem execTakeoverClaim_keeps (port : Nat) (c : Claim) : KeepsCanon (execTakeoverClaim port c) := run_keeps fun s hs => by simp [hs]
theorem execRouteSet_keeps (k : CmdKey) : KeepsCanon (execRouteSet k) := run_keeps fun s hs => by simp [hs]

/-! ### Trust.lean -/

theorem execAttest_keeps (k : CmdKey) (draw : Nat) : KeepsCanon (execAttest k draw) := runCmd_keeps fun c s hs => by simp +contextual [hs]

theorem execKeyAgree_keeps (k : CmdKey) (draw : Nat) : KeepsCanon (execKeyAgree k draw) := runCmd_keeps fun c s hs => by
  simp +contextual [hs]

theorem execIsleKeyLoad_keeps (k : CmdKey) : KeepsCanon (execIsleKeyLoad k) := runCmd_keeps fun c s hs => by
  dsimp only
  repeat' split
  all_goals simp [hs]

theorem execExpelCert_keeps (k : CmdKey) : KeepsCanon (execExpelCert k) := runCmd_keeps fun c s hs => by
  dsimp only
  repeat' split
  all_goals simp [hs]

theorem execCertMessage_keeps (port src : Nat) (cert : List Byte) : KeepsCanon (execCertMessage port src cert) :=
    run_keeps fun s hs => by
  repeat' split
  all_goals simp [hs]

/-! ### Registers.lean -/

theorem execTrdBeatLoRead_keeps (size : Nat) : KeepsCanon (execTrdBeatLoRead size) := run_keeps fun s hs => by simp [hs]
theorem execCswEpochLoRead_keeps (size : Nat) : KeepsCanon (execCswEpochLoRead size) := run_keeps fun s hs => by simp [hs]
theorem execSealWrite_keeps (value : BitVec 32) : KeepsCanon (execSealWrite value) := run_keeps fun s hs => by simp [hs]
theorem execCfgGo_keeps (value : BitVec 32) (blob : HostRead) : KeepsCanon (execCfgGo value blob) := run_keeps fun s hs => by simp [hs]
theorem execStrBindWrite_keeps (port entry : Nat) (value : BitVec 64) : KeepsCanon (execStrBindWrite port entry value) :=
    run_keeps fun s hs => by simp [hs]
theorem execHedModeWrite_keeps (value : BitVec 32) : KeepsCanon (execHedModeWrite value) := run_keeps fun s hs => by simp [hs]
theorem execVfBindWrite_keeps (vf : Nat) (value : BitVec 32) : KeepsCanon (execVfBindWrite vf value) := run_keeps fun s hs => by simp [hs]
theorem execMsixAllocWrite_keeps (fn : Nat) (value : BitVec 32) : KeepsCanon (execMsixAllocWrite fn value) := run_keeps fun s hs => by
  simp [hs]

theorem execAlertClear_keeps (value : BitVec 32) : KeepsCanon (execAlertClear value) := run_keeps fun s hs => by simp [hs]
theorem execDomainSelectWrite_keeps (dom : Nat) (value : BitVec 32) : KeepsCanon (execDomainSelectWrite dom value) :=
    run_keeps fun s hs => by simp [hs]
theorem execClockSwitchDone_keeps (dom : Option Nat) : KeepsCanon (execClockSwitchDone dom) := run_keeps fun s hs => by
  dsimp only
  repeat' split
  all_goals simp [hs]

theorem execFlashFormat_keeps (value : BitVec 32) : KeepsCanon (execFlashFormat value) := run_keeps fun s hs => by simp [hs]
theorem execFlashFormatDone_keeps : KeepsCanon execFlashFormatDone := run_keeps fun s hs => by simp [hs]
theorem execPortsGo_keeps (value : BitVec 32) : KeepsCanon (execPortsGo value) := run_keeps fun s hs => by simp [hs]
theorem execFwGo_keeps (value : BitVec 32) : KeepsCanon (execFwGo value) := run_keeps fun s hs => by simp [hs]
theorem execRegisterWrite_keeps (fn off size : Nat) (value : BitVec 64) : KeepsCanon (execRegisterWrite fn off size value) :=
    run_keeps fun s hs => by simp [hs]

/-! ### Boot.lean -/

theorem execFwImageVerify_keeps (source : Nat) (image : HostRead) : KeepsCanon (execFwImageVerify source image) :=
    run_keeps fun s hs => by
  dsimp only
  repeat' split
  all_goals simp [hs]

theorem execFirmwareStart_keeps (tableBase : Nat) : KeepsCanon (execFirmwareStart tableBase) := run_keeps fun s hs => by simp [hs]
theorem execFlr_keeps (fn : Nat) : KeepsCanon (execFlr fn) := run_keeps fun s hs => by simp [hs]
theorem execPerst_keeps : KeepsCanon execPerst := run_keeps fun s hs => by simp [hs]
theorem execVfEnableChange_keeps (enable : Bool) : KeepsCanon (execVfEnableChange enable) := run_keeps fun s hs => by simp [hs]

/-! ### Smbus.lean -/

theorem execReadId_keeps (b : Smb) : KeepsCanon (execReadId b) := run_keeps fun s hs => by simp [hs]
theorem execSetPoolId_keeps (b : Smb) (value : BitVec 16) : KeepsCanon (execSetPoolId b value) := run_keeps fun s hs => by simp [hs]
theorem execSetAddr_keeps (b : Smb) (value : BitVec 8) : KeepsCanon (execSetAddr b value) := run_keeps fun s hs => by simp [hs]
theorem execCommit_keeps (b : Smb) : KeepsCanon (execCommit b) := run_keeps fun s hs => by simp [hs]
theorem execReadStatus_keeps (b : Smb) : KeepsCanon (execReadStatus b) := run_keeps fun s hs => by simp [hs]
theorem execEnumTokenReceived_keeps : KeepsCanon execEnumTokenReceived := runAlways_keeps fun s hs => by simp [hs]
theorem execEnumInLow_keeps : KeepsCanon execEnumInLow := runAlways_keeps fun s hs => by simp [hs]

/-! ### Thermal.lean -/

theorem execThermalSample_keeps (tj hbm : TempReading) : KeepsCanon (execThermalSample tj hbm) := run_keeps fun s hs => by simp [hs]
theorem execThermalTrip_keeps : KeepsCanon execThermalTrip := runAlways_keeps fun s hs => by simp [hs]
theorem execVloomAdjust_keeps (mv : Nat) : KeepsCanon (execVloomAdjust mv) := run_keeps fun s hs => by simp [hs]

/-! ### Power.lean -/

theorem execPowerOff_keeps : KeepsCanon execPowerOff := runAlways_keeps fun s hs => by simp [hs]
theorem execColdReset_keeps (keyDraw : Nat) : KeepsCanon (execColdReset keyDraw) := runAlways_keeps fun s hs => by simp [hs]
theorem execWarmReset_keeps : KeepsCanon execWarmReset := runAlways_keeps fun s hs => by simp [hs]
theorem execResetNRise_keeps : KeepsCanon execResetNRise := runAlways_keeps fun s hs => by simp [hs]
theorem execResetEntryEnd_keeps : KeepsCanon execResetEntryEnd := runAlways_keeps fun s hs => by simp [hs]
theorem execPowerupStep_keeps (n : Nat) (found : StepFound) : KeepsCanon (execPowerupStep n found) := run_keeps fun s hs => by simp [hs]
end Sys2Proof.Machine

namespace Sys2Proof.Machine

/-- Every one of the 225 commands keeps the canonical form, with every operand. -/
theorem exec_keeps (i : Instr) : KeepsCanon (exec i) := by
  cases i with
  | nop _ => exact execNop_keeps _
  | copy _ _ _ => exact execCopy_keeps _ _ _
  | fill _ _ => exact execFill_keeps _ _
  | tileCopy _ _ => exact execTileCopy_keeps _ _
  | check _ _ => exact execCheck_keeps _ _
  | atomicBatch _ => exact execAtomicBatch_keeps _
  | fence _ => exact execFence_keeps _
  | fenceComplete _ => exact execFenceComplete_keeps _
  | release _ => exact execRelease_keeps _
  | acquire _ => exact execAcquire_keeps _
  | acquireReread _ => exact execAcquireReread_keeps _
  | acquireTimeout _ => exact execAcquireTimeout_keeps _
  | weave _ => exact execWeave_keeps _
  | weavePhaseStart _ => exact execWeavePhaseStart_keeps _
  | gatherAcquire _ => exact execGatherAcquire_keeps _
  | writeRelease _ => exact execWriteRelease_keeps _
  | embGather _ => exact execEmbGather_keeps _
  | embUpdate _ => exact execEmbUpdate_keeps _
  | embStepClose _ => exact execEmbStepClose_keeps _
  | embStats _ => exact execEmbStats_keeps _
  | kvAppend _ => exact execKvAppend_keeps _
  | attnDecode _ => exact execAttnDecode_keeps _
  | attnCombine _ => exact execAttnCombine_keeps _
  | seqCreate _ => exact execSeqCreate_keeps _
  | seqFork _ => exact execSeqFork_keeps _
  | seqPublish _ => exact execSeqPublish_keeps _
  | seqHandoffOffer _ => exact execSeqHandoffOffer_keeps _
  | seqHandoffAccept _ => exact execSeqHandoffAccept_keeps _
  | seqRelease _ => exact execSeqRelease_keeps _
  | seqQuery _ => exact execSeqQuery_keeps _
  | handoffExpiry _ => exact execHandoffExpiry_keeps _
  | orphanReclaim _ => exact execOrphanReclaim_keeps _
  | ringGoneNotice _ _ => exact execRingGoneNotice_keeps _ _
  | atollSearch _ => exact execAtollSearch_keeps _
  | atollInsert _ => exact execAtollInsert_keeps _
  | atollDelete _ => exact execAtollDelete_keeps _
  | atollMerge _ => exact execAtollMerge_keeps _
  | mergeCommit _ => exact execMergeCommit_keeps _
  | oldRootFree _ _ => exact execOldRootFree_keeps _ _
  | atollCreate _ => exact execAtollCreate_keeps _
  | regionAlloc _ => exact execRegionAlloc_keeps _
  | regionFree _ => exact execRegionFree_keeps _
  | map _ => exact execMap_keeps _
  | unmap _ => exact execUnmap_keeps _
  | withdrawalStart => exact execWithdrawalStart_keeps
  | withdrawalSweepDone _ => exact execWithdrawalSweepDone_keeps _
  | drainEnd _ => exact execDrainEnd_keeps _
  | drainBoundExpiry _ => exact execDrainBoundExpiry_keeps _
  | withdrawalComplete _ => exact execWithdrawalComplete_keeps _
  | pinTier _ => exact execPinTier_keeps _
  | poisonClear _ => exact execPoisonClear_keeps _
  | planAdmit _ => exact execPlanAdmit_keeps _
  | planStart _ => exact execPlanStart_keeps _
  | planStop _ => exact execPlanStop_keeps _
  | isleCreate _ => exact execIsleCreate_keeps _
  | isleChange _ => exact execIsleChange_keeps _
  | isleDestroy _ => exact execIsleDestroy_keeps _
  | bindSet _ => exact execBindSet_keeps _
  | isleActivate _ => exact execIsleActivate_keeps _
  | isleReset _ => exact execIsleReset_keeps _
  | unitReset _ => exact execUnitReset_keeps _
  | mapInstall _ => exact execMapInstall_keeps _
  | portRetrain _ => exact execPortRetrain_keeps _
  | agentEvict _ => exact execAgentEvict_keeps _
  | ringCreate _ => exact execRingCreate_keeps _
  | ringDestroy _ => exact execRingDestroy_keeps _
  | rowMigrate _ => exact execRowMigrate_keeps _
  | ferryHoldEnd => exact execFerryHoldEnd_keeps
  | ferryCopyDone _ _ _ => exact execFerryCopyDone_keeps _ _ _
  | twinPair _ => exact execTwinPair_keeps _
  | twinPairTimeout _ => exact execTwinPairTimeout_keeps _
  | resyncCopyDone => exact execResyncCopyDone_keeps
  | routeSet _ => exact execRouteSet_keeps _
  | attest _ _ => exact execAttest_keeps _ _
  | keyAgree _ _ => exact execKeyAgree_keeps _ _
  | isleKeyLoad _ => exact execIsleKeyLoad_keeps _
  | expelCert _ => exact execExpelCert_keeps _
  | doorbellPoll _ _ => exact execDoorbellPoll_keeps _ _
  | doorbellPollReturn _ _ _ => exact execDoorbellPollReturn_keeps _ _ _
  | watchedWakeup _ => exact execWatchedWakeup_keeps _
  | descriptorFetch _ => exact execDescriptorFetch_keeps _
  | descriptorArrival _ _ _ => exact execDescriptorArrival_keeps _ _ _
  | descriptorReread _ _ _ => exact execDescriptorReread_keeps _ _ _
  | ringErrorRecord _ _ => exact execRingErrorRecord_keeps _ _
  | completionWrite _ _ => exact execCompletionWrite_keeps _ _
  | msixModerationTimeout _ => exact execMsixModerationTimeout_keeps _
  | msixUnmask _ _ => exact execMsixUnmask_keeps _ _
  | eventPost => exact execEventPost_keeps
  | ringSetupCreate _ => exact execRingSetupCreate_keeps _
  | ringSetupDestroy _ _ => exact execRingSetupDestroy_keeps _ _
  | sealWrite _ => exact execSealWrite_keeps _
  | fwGo _ => exact execFwGo_keeps _
  | fwImageVerify _ _ => exact execFwImageVerify_keeps _ _
  | firmwareStart _ => exact execFirmwareStart_keeps _
  | cfgGo _ _ => exact execCfgGo_keeps _ _
  | portsGo _ => exact execPortsGo_keeps _
  | flashFormat _ => exact execFlashFormat_keeps _
  | flashFormatDone => exact execFlashFormatDone_keeps
  | alertClear _ => exact execAlertClear_keeps _
  | portDisable _ _ => exact execPortDisable_keeps _ _
  | portEnable _ _ => exact execPortEnable_keeps _ _
  | strBindWrite _ _ _ => exact execStrBindWrite_keeps _ _ _
  | hedModeWrite _ => exact execHedModeWrite_keeps _
  | vfBindWrite _ _ => exact execVfBindWrite_keeps _ _
  | msixAllocWrite _ _ => exact execMsixAllocWrite_keeps _ _
  | refSelectWrite _ => exact execRefSelectWrite_keeps _
  | domainSelectWrite _ _ => exact execDomainSelectWrite_keeps _ _
  | clockSwitchDone _ => exact execClockSwitchDone_keeps _
  | trdBeatLoRead _ => exact execTrdBeatLoRead_keeps _
  | cswEpochLoRead _ => exact execCswEpochLoRead_keeps _
  | registerWrite _ _ _ _ => exact execRegisterWrite_keeps _ _ _ _
  | bar2Read _ _ _ _ => exact execBar2Read_keeps _ _ _ _
  | bar2Write _ _ _ => exact execBar2Write_keeps _ _ _
  | readId _ => exact execReadId_keeps _
  | setPoolId _ _ => exact execSetPoolId_keeps _ _
  | setAddr _ _ => exact execSetAddr_keeps _ _
  | commit _ => exact execCommit_keeps _
  | readStatus _ => exact execReadStatus_keeps _
  | enumTokenReceived => exact execEnumTokenReceived_keeps
  | coldReset _ => exact execColdReset_keeps _
  | warmReset => exact execWarmReset_keeps
  | resetNRise => exact execResetNRise_keeps
  | powerupStep _ _ => exact execPowerupStep_keeps _ _
  | powerOff => exact execPowerOff_keeps
  | perst => exact execPerst_keeps
  | flr _ => exact execFlr_keeps _
  | thermalSample _ _ => exact execThermalSample_keeps _ _
  | thermalTrip => exact execThermalTrip_keeps
  | oscTrim _ => exact execOscTrim_keeps _
  | clkRefLost _ => exact execClkRefLost_keeps _
  | refSwitchBack => exact execRefSwitchBack_keeps
  | rootStopped => exact execRootStopped_keeps
  | vloomAdjust _ => exact execVloomAdjust_keeps _
  | signalDetect _ => exact execSignalDetect_keeps _
  | portUp _ _ _ _ => exact execPortUp_keeps _ _ _ _
  | trainingFailed _ => exact execTrainingFailed_keeps _
  | lossOfSignal _ => exact execLossOfSignal_keeps _
  | flitReceive _ _ => exact execFlitReceive_keeps _ _
  | retireReq _ _ => exact execRetireReq_keeps _ _
  | retireAck port half => exact execRetireAck_keeps port half
  | retrain _ => exact execRetrain_keeps _
  | echo _ _ => exact execEcho_keeps _ _
  | echoReply port stamp delay => exact execEchoReply_keeps port stamp delay
  | linkAdaptation _ _ => exact execLinkAdaptation_keeps _ _
  | rdShared _ _ => exact execRdShared_keeps _ _
  | rdOwn _ => exact execRdOwn_keeps _
  | upgrade _ => exact execUpgrade_keeps _
  | dirty _ => exact execDirty_keeps _
  | wrBack _ _ => exact execWrBack_keeps _ _
  | rdUncached _ _ => exact execRdUncached_keeps _ _
  | wrLine _ _ => exact execWrLine_keeps _ _
  | wrPartial _ _ _ => exact execWrPartial_keeps _ _ _
  | atomic _ _ _ _ => exact execAtomic_keeps _ _ _ _
  | rdRun _ => exact execRdRun_keeps _
  | wrRun _ _ => exact execWrRun_keeps _ _
  | rspAck _ => exact execRspAck_keeps _
  | rspData _ _ => exact execRspData_keeps _ _
  | status _ _ _ => exact execStatus_keeps _ _ _
  | progress _ => exact execProgress_keeps _
  | retry h backoff => exact execRetry_keeps h backoff
  | readData h code first lines => exact execReadData_keeps h code first lines
  | runCont h first lines => exact execRunCont_keeps h first lines
  | atomicResult h code prior => exact execAtomicResult_keeps h code prior
  | subcmd _ _ _ => exact execSubcmd_keeps _ _ _
  | subcmdDone _ _ _ _ _ _ => exact execSubcmdDone_keeps _ _ _ _ _ _
  | hello _ _ => exact execHello_keeps _ _
  | idClaim _ _ => exact execIdClaim_keeps _ _
  | takeoverClaim _ _ => exact execTakeoverClaim_keeps _ _
  | idConflict _ _ _ => exact execIdConflict_keeps _ _ _
  | claimStands => exact execClaimStands_keeps
  | heartbeat port src beat epoch => exact execHeartbeat_keeps port src beat epoch
  | imagePart _ _ _ _ => exact execImagePart_keeps _ _ _ _
  | probe _ _ => exact execProbe_keeps _ _
  | probeAck _ _ => exact execProbeAck_keeps _ _
  | fenceNotice _ _ => exact execFenceNotice_keeps _ _
  | planPrepare port src handle plan isle => exact execPlanPrepare_keeps port src handle plan isle
  | planPrepareAnswer port src handle answer => exact execPlanPrepareAnswer_keeps port src handle answer
  | planCommit port src handle => exact execPlanCommit_keeps port src handle
  | planAbort port src handle => exact execPlanAbort_keeps port src handle
  | prepareTimeout _ => exact execPrepareTimeout_keeps _
  | tentativeExpiry _ => exact execTentativeExpiry_keeps _
  | pauseNotice port src => exact execPauseNotice_keeps port src
  | commitNotice _ _ _ _ _ _ _ _ => exact execCommitNotice_keeps _ _ _ _ _ _ _ _
  | certMessage port src cert => exact execCertMessage_keeps port src cert
  | beat _ _ _ _ _ => exact execBeat_keeps _ _ _ _ _
  | beatBoundary _ => exact execBeatBoundary_keeps _
  | pickOverrun _ => exact execPickOverrun_keeps _
  | beatInputFailover => exact execBeatInputFailover_keeps
  | beatUnsynced cause => exact execBeatUnsynced_keeps cause
  | requestTimeout _ => exact execRequestTimeout_keeps _
  | progressDue _ => exact execProgressDue_keeps _
  | snoopTimeout _ => exact execSnoopTimeout_keeps _
  | agentSweepDone _ => exact execAgentSweepDone_keeps _
  | epochHoldExpiry _ => exact execEpochHoldExpiry_keeps _
  | graceExpiry => exact execGraceExpiry_keeps
  | tlbWalkDone _ _ _ => exact execTlbWalkDone_keeps _ _ _
  | tieringEpoch => exact execTieringEpoch_keeps
  | warmupEnd => exact execWarmupEnd_keeps
  | promotionCommit _ _ => exact execPromotionCommit_keeps _ _
  | moveCommit _ _ => exact execMoveCommit_keeps _ _
  | flashReadDone _ _ _ => exact execFlashReadDone_keeps _ _ _
  | flashProgramDone _ _ => exact execFlashProgramDone_keeps _ _
  | flashEraseDone _ _ => exact execFlashEraseDone_keeps _ _
  | channelFailed _ => exact execChannelFailed_keeps _
  | garbageCollection _ _ => exact execGarbageCollection_keeps _ _
  | patrolScrub _ _ _ => exact execPatrolScrub_keeps _ _ _
  | flashScrub _ _ _ => exact execFlashScrub_keeps _ _ _
  | telemetrySample => exact execTelemetrySample_keeps
  | causewayLost => exact execCausewayLost_keeps
  | probeTimeout => exact execProbeTimeout_keeps
  | causewayJournal _ _ => exact execCausewayJournal_keeps _ _
  | twinAcknowledgement _ _ _ => exact execTwinAcknowledgement_keeps _ _ _
  | backOffExpiry _ => exact execBackOffExpiry_keeps _
  | completionTimeout _ _ => exact execCompletionTimeout_keeps _ _
  | busMasterEnableSet _ => exact execBusMasterEnableSet_keeps _
  | vfEnableChange _ => exact execVfEnableChange_keeps _
  | enumInLow => exact execEnumInLow_keeps
  | pllLocked => exact execPllLocked_keeps
  | resetEntryEnd => exact execResetEntryEnd_keeps
  | planArm port src handle start => exact execPlanArm_keeps port src handle start
  | planStopNotice port src handle atCycleEnd => exact execPlanStopNotice_keeps port src handle atCycleEnd
  | planMemberAck port src handle code => exact execPlanMemberAck_keeps port src handle code
  | commitNoticeAck _ _ _ _ => exact execCommitNoticeAck_keeps _ _ _ _
  | resyncWatermark _ _ _ => exact execResyncWatermark_keeps _ _ _
  | mergeCheckpoint _ => exact execMergeCheckpoint_keeps _

/-- Settles O5: a step runs the front command on a state with the same store, and each command's row keeps the form; an empty queue
leaves the state as it is. -/
theorem storeStaysCanonical : Obligations.StoreStaysCanonical := by
  intro s t hs e
  unfold step at e
  split at e
  · cases e; exact hs
  · next c rest _ => exact @exec_keeps c { s with pending := rest } t hs e

/-- The state at reset meets the invariant that `storeStaysCanonical` keeps. -/
theorem reset_store_canonical : Memory.wf State.reset.store.cells := rfl

end Sys2Proof.Machine

/-! ## The state at reset -/

namespace Sys2Proof.Machine

/-- Settles O6: the parts named are empty as they stand, and each register of the list is read at reset. -/
theorem resetLeaves : Obligations.ResetLeaves := by
  refine ⟨reset_store_canonical, rfl, rfl, rfl, rfl, ?_⟩
  decide

end Sys2Proof.Machine

/-! ## What the cells of the store read as -/

namespace Sys2Proof.Machine

/-- What a key gives after a key was set: the new value under that key, the old entry under any other. -/
theorem NMap.get?_set {α : Type} (m : NMap α) (k x : Nat) (v : α) :
    NMap.get? (NMap.set m k v) x = if x = k then some v else NMap.get? m x := by
  induction m with
  | nil => simp [NMap.set, NMap.get?, eq_comm]
  | cons d r ih =>
    unfold NMap.set
    split
    · simp only [NMap.get?, ih]
      grind
    · simp only [NMap.get?]
      grind [NMap.get?]

/-- What a key gives where only the entries whose key passes a test were kept. -/
theorem NMap.get?_filter {α : Type} (m : NMap α) (p : Nat → Bool) (x : Nat) :
    NMap.get? (m.filter (fun c => p c.1)) x = if p x then NMap.get? m x else none := by
  induction m with
  | nil => simp [NMap.get?]
  | cons d r ih =>
    rw [List.filter_cons]
    split <;> simp only [NMap.get?, ih] <;> grind

theorem Memory.read_filter (m : List Host.Cell) (p : Nat → Bool) (x : Nat) :
    Memory.read (m.filter (fun c => p c.1)) x = if p x then Memory.read m x else 0 := by
  unfold Memory.read NMap.getD
  rw [NMap.get?_filter]
  split <;> rfl

/-- A byte written reads back at its address, and every other address reads as before. -/
theorem Memory.read_write (m : List Host.Cell) (a x : Nat) (b : Byte) :
    Memory.read (Memory.write m a b) x = if x = a then b else Memory.read m x := by
  unfold Memory.write
  split
  · next hb =>
    rw [NMap.del, Memory.read_filter m (· != a)]
    by_cases hx : x = a <;> simp [hx, hb]
  · unfold Memory.read NMap.getD
    rw [NMap.get?_set]
    split <;> rfl

/-- Bytes written read back at their addresses, and every other address reads as before. -/
theorem Memory.read_writes (m : List Host.Cell) (a x : Nat) (bs : List Byte) :
    Memory.read (Memory.writes m a bs) x = if a ≤ x ∧ x < a + bs.length then bs.getD (x - a) 0 else Memory.read m x := by
  induction bs generalizing m a with
  | nil => rw [if_neg (by simp)]; rfl
  | cons b bs ih =>
    rw [Memory.writes, ih, Memory.read_write]
    rcases Nat.lt_trichotomy x a with h | rfl | h
    · simp [show ¬ a + 1 ≤ x by omega, show x ≠ a by omega, show ¬ a ≤ x by omega]
    · simp
    · obtain ⟨i, rfl⟩ := Nat.exists_eq_add_of_lt h
      simp [Nat.add_assoc, Nat.add_comm 1, show a + (i + 1) - (a + 1) = i by omega]

/-- A cleared address reads as zero, and every other address reads as before. -/
theorem Memory.read_clear (m : List Host.Cell) (a n x : Nat) :
    Memory.read (Memory.clear m a n) x = if a ≤ x ∧ x < a + n then 0 else Memory.read m x := by
  rw [Memory.clear, Memory.read_filter m (fun y => y < a || a + n ≤ y)]
  by_cases h : a ≤ x ∧ x < a + n
  · rw [if_pos h, if_neg (by simp; omega)]
  · rw [if_neg h, if_pos (by simp; omega)]

/-- Settles O10, by induction on the bytes written. -/
theorem storeReadAfterWrite : Obligations.StoreReadAfterWrite :=
  fun m a x _ => ⟨Memory.read_writes m a x, fun n => Memory.read_clear m a n x⟩

end Sys2Proof.Machine

/-! ## A store inside one line -/

namespace Sys2Proof.Machine
section
variable {mir : Bool} {off l : Nat} {bs : List Byte} {s t : State}

@[simp] theorem wake_store : (wake off s).store = s.store := by
  unfold wake
  split <;> rfl

@[simp] theorem twinSend_store (kind : Nat) (words : List Nat) (bytes : List Byte) :
    (twinSend kind words bytes s).store = s.store := rfl

/-- A line's status rests on its two marks alone. -/
theorem lineStatus_congr (hp : isPoisoned t l = isPoisoned s l) (hl : isLost t l = isLost s l) : lineStatus t l = lineStatus s l := by
  simp [lineStatus, hp, hl]

theorem lineStatus_unmarked (hp : isPoisoned s l = false) (hl : isLost s l = false) : lineStatus s l = stOk := by
  simp [lineStatus, hp, hl]

/-- A store that would fill part of a marked line that no cache holds in M is refused. -/
theorem storeLine_refused (hb : bs ≠ []) (hc : s.heddle.caches.any (fun c => c.off == lineOf off && c.state == .m) = false)
    (hr : bs.length ≠ 64 ∧ lineStatus s (lineOf off) ≠ stOk) : storeLine mir off bs s = (true, s) := by
  unfold storeLine
  rw [if_neg hb, if_neg (by simp [hc]), if_pos hr]

/-- The marks of a line a store leaves: a whole line's are taken away, part of one keeps what it had. -/
def marksAfter (off : Nat) (bs : List Byte) (marks : List Nat) : List Nat :=
  if bs.length = 64 then marks.filter (· != lineOf off) else marks

/-- What any other store to a line that no cache holds in M leaves in the store. -/
theorem storeLine_stored (hb : bs ≠ []) (hc : s.heddle.caches.any (fun c => c.off == lineOf off && c.state == .m) = false)
    (hr : ¬ (bs.length ≠ 64 ∧ lineStatus s (lineOf off) ≠ stOk)) :
    (storeLine mir off bs s).1 = false ∧
    (storeLine mir off bs s).2.store.cells = Memory.writes s.store.cells off bs ∧
    (storeLine mir off bs s).2.store.poison = marksAfter off bs s.store.poison ∧
    (storeLine mir off bs s).2.store.lost = marksAfter off bs s.store.lost := by
  unfold storeLine
  rw [if_neg hb, if_neg (by simp [hc]), if_neg hr]
  unfold marksAfter
  by_cases h : bs.length = 64 <;> cases mir <;> simp [h, writeBytes]

theorem marksAfter_whole (h : bs.length = 64) (marks : List Nat) : (marksAfter off bs marks).contains (lineOf off) = false := by
  simp [marksAfter, h]

theorem marksAfter_other (h : l ≠ lineOf off) (marks : List Nat) : (marksAfter off bs marks).contains l = marks.contains l := by
  unfold marksAfter
  split
  · rw [Bool.eq_iff_iff]
    simp [h]
  · rfl

end

/-- Settles O18, by what the store holds afterwards and what bytes written read as. -/
theorem lineStoreWritesExactlyItsBytes : Obligations.LineStoreWritesExactlyItsBytes := by
  intro mir off bs s _ hb _ hc
  refine ⟨storeLine_refused hb hc, fun hr => ?_⟩
  obtain ⟨hok, hcells, hpoison, hlost⟩ := storeLine_stored (mir := mir) hb hc hr
  refine ⟨hok, fun x => ?_, fun h => ?_, fun l hl => ?_⟩
  · rw [hcells, Memory.read_writes]
  · exact lineStatus_unmarked (by rw [isPoisoned, hpoison, marksAfter_whole h]) (by rw [isLost, hlost, marksAfter_whole h])
  · exact lineStatus_congr (by rw [isPoisoned, hpoison, marksAfter_other hl, isPoisoned])
      (by rw [isLost, hlost, marksAfter_other hl, isLost])

end Sys2Proof.Machine

/-! ## Setup writes of a sealed device (R6, R361) -/

namespace Sys2Proof.Machine
section
variable {s : State} (h : s.harbour.sealed = true)
include h

theorem writePortCtrl_sealed (n : Nat) (v : BitVec 32) : writePortCtrl n v s = s := by simp [writePortCtrl, h]
theorem writeBindWord_sealed (port entry i v : Nat) : writeBindWord port entry i v s = s := by simp [writeBindWord, h]
theorem writeHedMode_sealed (v : BitVec 32) : writeHedMode v s = s := by simp [writeHedMode, h]
theorem writeSeal_sealed (v : BitVec 32) : writeSeal v s = s := by simp [writeSeal, h]
theorem writeSrcCtrl_sealed (v : BitVec 32) : writeSrcCtrl v s = s := by simp [writeSrcCtrl, h]
theorem writeVfBind_sealed (vf : Nat) (v : BitVec 32) : writeVfBind vf v s = s := by simp [writeVfBind, h]
theorem writeDomain_sealed (d : Nat) (v : BitVec 32) : writeDomain d v s = s := by simp [writeDomain, h]

/-- An allocation write is refused while VFs are enabled, and otherwise ignored. -/
theorem writeMsixAlloc_sealed (fn : Nat) (v : BitVec 32) : writeMsixAlloc fn v s = s ∨ writeMsixAlloc fn v s = refuseWrite s := by
  unfold writeMsixAlloc
  dsimp only
  split
  · exact .inr rfl
  · exact .inl (by simp [h])

theorem cfgGo_sealed (v : BitVec 32) (blob : HostRead) : cfgGo v blob s = s ∨ cfgGo v blob s = refuseWrite s := by
  unfold cfgGo
  rw [if_pos h]
  split
  · exact .inl rfl
  · exact .inr rfl

theorem writeStagger_sealed (v : BitVec 32) : writeStagger v s = s ∨ writeStagger v s = refuseWrite s := by
  unfold writeStagger
  rw [if_pos h]
  split
  · exact .inr rfl
  · exact .inl rfl

theorem writeFlashCfg_sealed (v : BitVec 32) : writeFlashCfg v s = s ∨ writeFlashCfg v s = refuseWrite s := by
  have hs : (if s.harbour.sealed || 2 ≤ v.toNat % 4 then s else { s with flash := { s.flash with opSelect := v.toNat % 4 } }) = s :=
    if_pos (by simp [h])
  have hm : mayFormat s = false := by simp [mayFormat, h]
  unfold writeFlashCfg
  dsimp only
  rw [hs, hm]
  split
  · exact .inl rfl
  · exact .inr rfl

end

/-- A row whose work keeps the state or counts a refused write, on a device with power. -/
theorem run_kept_or_refused {f : State → State} {s : State} (ha : awake s = true) (h : f s = s ∨ f s = refuseWrite s) :
    run f s = .next (settled s s) ∨ run f s = .next (settled s (refuseWrite s)) := by
  rw [run_awake ha]
  exact h.imp (fun e => by rw [e]) (fun e => by rw [e])

/-- Settles O45: each register's write tests the seal first. -/
theorem sealedDeviceKeepsItsSetup : Obligations.SealedDeviceKeepsItsSetup := by
  intro s ha h
  have kept {f : State → State} (e : f s = s) : run f s = .next (settled s s) := by rw [run_awake ha, e]
  refine ⟨fun n v => ⟨kept ?_, kept ?_⟩, fun p e v => kept ?_, fun v => ⟨kept ?_, kept ?_, kept ?_⟩, fun n v => ⟨kept ?_, kept ?_⟩,
    fun fn v blob c hc => ?_⟩
  · simp [writePortCtrl_sealed h]
  · simp [writePortCtrl_sealed h]
  · simp [writeBindWord_sealed h]
  · exact writeHedMode_sealed h v
  · exact writeSeal_sealed h v
  · simp [writeSrcCtrl_sealed h]
  · exact writeVfBind_sealed h n v
  · exact writeDomain_sealed h n v
  · simp only [List.mem_cons, List.not_mem_nil, or_false] at hc
    rcases hc with rfl | rfl | rfl | rfl
    · exact run_kept_or_refused ha (writeMsixAlloc_sealed h fn v)
    · exact run_kept_or_refused ha (cfgGo_sealed h v blob)
    · refine run_kept_or_refused ha ?_
      split
      · exact writeStagger_sealed h v
      · exact .inl rfl
    · refine run_kept_or_refused ha ?_
      split
      · exact writeFlashCfg_sealed h v
      · exact .inl rfl

end Sys2Proof.Machine

/-! ## Reads that latch and writes through BAR0 (R5, R6, R9) -/

namespace Sys2Proof.Machine
section
variable {s : State}

theorem word_zero (n : Nat) : word n 0 = n % 2 ^ 32 := by simp [word, bits]

/-- The high word of a 64-bit number. -/
theorem word_one {n : Nat} (h : n < 2 ^ 64) : word n 1 = n / 2 ^ 32 := by
  rw [word, bits, Nat.shiftRight_eq_div_pow]
  exact Nat.mod_eq_of_lt (by omega)

theorem readReg_beatLo : readReg s 0x700010 = s.treadle.beat.toNat % 2 ^ 32 := word_zero _
theorem readReg_epochLo : readReg s 0xA20010 = s.pool.epoch.toNat % 2 ^ 32 := word_zero _

/-- An access of a size that is no register's is a bad one, whatever the offset. -/
theorem accessOk_size {off size : Nat} (h4 : size ≠ 4) (h8 : size ≠ 8) : accessOk off size = false := by
  simp [accessOk, h4, h8]

theorem badAccess_pf0 : badAccess 0 s = { s with harbour := { s.harbour with badAccess := satInc s.harbour.badAccess 255 } } := rfl

/-- HBR_ID takes no write. -/
theorem writeReg_hbrId (v : Nat) : writeReg 0x0 v s = s := by
  simp [writeReg, writeMailbox]

theorem writeTrd_beatLo (v : Nat) : writeTrd 0x10 v s = s := by
  simp [writeTrd]

/-- The beat counter takes no write. -/
theorem writeReg_beatLo (v : Nat) : writeReg 0x700010 v s = s := by
  simp [writeReg, writeLocked, writeTrd_beatLo]

end

/-- A 4-byte register write on a device with power. -/
theorem registerWrite_word {s : State} (ha : awake s = true) {fn off : Nat} (v : BitVec 64) (h : off % 4 = 0) :
    exec (.registerWrite fn off 4 v) s = .next (settled s (writeBar0 fn off (v.toNat % 2 ^ 32) s)) := by
  have hok : accessOk off 4 = true := by simp [accessOk, h]
  refine (run_awake ha _).trans ?_
  simp [hok, word_zero]

/-- An 8-byte register write on a device with power. -/
theorem registerWrite_dword {s : State} (ha : awake s = true) {fn off : Nat} (v : BitVec 64) (h : off % 8 = 0) :
    exec (.registerWrite fn off 8 v) s = .next (settled s
      (writeBar0 fn (off + 4) (v.toNat / 2 ^ 32) (writeBar0 fn off (v.toNat % 2 ^ 32) s))) := by
  have hok : accessOk off 8 = true := by simp [accessOk, h]
  refine (run_awake ha _).trans ?_
  simp [hok, word_zero, word_one v.isLt]

/-- Settles O48: each access by its size, and the registers that take no write by their places in the write's table. -/
theorem registerAccessesReadLatchAndWrite : Obligations.RegisterAccessesReadLatchAndWrite := by
  intro s ha
  refine ⟨run_awake ha _, readReg_beatLo, run_awake ha _, readReg_epochLo, fun size h4 h8 => ?_, fun fn off v => registerWrite_word ha v,
    fun fn off v => registerWrite_dword ha v, fun off size v h => ?_, fun v => ⟨?_, ?_⟩⟩
  · refine (run_awake ha _).trans ?_
    simp [accessOk_size h4 h8, badAccess_pf0]
  · refine (run_awake ha _).trans ?_
    simp [h, badAccess_pf0]
  · rw [registerWrite_word ha v rfl, writeBar0, if_pos rfl, writeReg_hbrId]
  · rw [registerWrite_word ha v rfl, writeBar0, if_pos rfl, writeReg_beatLo]

end Sys2Proof.Machine

/-! ## Setup writes before the seal (R6, R783, R798, R804–R809) -/

namespace Sys2Proof.Machine
section
variable {s : State} (h : s.harbour.sealed = false)

theorem bits_eq (n lo len : Nat) : bits n lo len = n / 2 ^ lo % 2 ^ len := by rw [bits, Nat.shiftRight_eq_div_pow]

include h

/-- A seal write whose checks pass sets the seal. -/
theorem writeSeal_unsealed {v : BitVec 32} (hv : v.getLsbD 0 = true) (hc : sealCause s = 0) :
    writeSeal v s = { s with harbour := { s.harbour with sealed := true } } := by
  simp [writeSeal, hv, h, hc]

/-- HED_MODE takes its mode while no entry has caching set; the mode it has is no change. -/
theorem writeHedMode_unsealed {v : BitVec 32} (hb : ∀ b ∈ s.links.binds, b.2.toNat.testBit 35 = false) :
    writeHedMode v s = { s with heddle := { s.heddle with broadcast := v.getLsbD 0 } } := by
  have hn : s.links.binds.any (fun b => bit b.2.toNat 35) = false := List.any_eq_false.mpr fun b m => by simp [bit, hb b m]
  unfold writeHedMode
  rw [h, hn]
  split
  · next e =>
    rw [Bool.false_or, beq_iff_eq] at e
    rw [e]
  · rfl

theorem writeVfBind_unsealed {vf : Nat} {v : BitVec 32} (ho : vfOwnsRing s vf = false) :
    let w := v.toNat % 2 ^ 14 + (v.toNat.testBit 15).toNat * 2 ^ 15
    vfBindOk w = true → BitVec.ofNat 32 w ≠ NMap.getD s.links.vfBinds vf 0 →
    writeVfBind vf v s = putVfBind vf (BitVec.ofNat 32 w) s := by
  intro w hw hn
  have hv : bits v.toNat 0 14 + (bit v.toNat 15).toNat * 2 ^ 15 = w := by rw [bits_eq, Nat.pow_zero, Nat.div_one]; rfl
  have hne : (BitVec.ofNat 32 w == NMap.getD s.links.vfBinds vf 0) = false := beq_eq_false_iff_ne.mpr hn
  unfold writeVfBind
  simp only [hv, h, hw, hne, ho]
  rfl

theorem writeMsixAlloc_unsealed {fn : Nat} {v : BitVec 32} (hf : fn = 0 ∨ s.bobbin.vfEnable = false) (hv : v.toNat % 4096 ≠ 0)
    (hm : msixSum s - msixCount s fn + v.toNat % 4096 ≤ 2048) :
    writeMsixAlloc fn v s = { s with bobbin := { s.bobbin with msixAlloc := NMap.set s.bobbin.msixAlloc fn (v.toNat % 4096) } } := by
  have he : ¬ (fn ≠ 0 ∧ s.bobbin.vfEnable = true) := by
    rintro ⟨h0, h1⟩
    simp [h0, h1] at hf
  unfold writeMsixAlloc
  rw [if_neg he, if_neg (by simp [h, hv, hm])]

/-- A port's controls are set, and the port started or stopped where its enable bit changes. -/
theorem writePortCtrl_unsealed {n : Nat} {v : BitVec 32} {p : Port} (hp : port? s n = some p) :
    writePortCtrl n v s =
      (let u := updPort n (fun p => { p with beatOut := v.toNat.testBit 1, allowX4 := v.toNat.testBit 2 }) s
       if p.enable && !v.toNat.testBit 0 then disablePort n u else if !p.enable && v.toNat.testBit 0 then enablePort n u else u) := by
  unfold writePortCtrl
  rw [h, hp]
  rfl

/-- A write that selects the lane names its timing port and takes the lane where it can be taken. -/
theorem writeSrcCtrl_unsealed {v : BitVec 32} (hr : s.clocks.refSel = false) (hv : v.toNat.testBit 0 = true) (hp : v.toNat / 2 % 32 < 24) :
    writeSrcCtrl v s = takeLane { s with clocks := { s.clocks with
      refSel := true, timingPort := v.toNat / 2 % 32, trimSrc := v.toNat.testBit 6, force := v.toNat.testBit 7 } } := by
  have hb : bits v.toNat 1 5 = v.toNat / 2 % 32 := bits_eq _ 1 5
  unfold writeSrcCtrl
  simp only [h, hr, hb, hv, bit, if_pos hp]
  rfl

/-- A domain that is asked for its other source, unforced, waits for the switch; forced and without a unit it is flipped. -/
theorem writeDomain_unsealed {d : Nat} {v : BitVec 32} (hd : d < 100) (hr : s.clocks.domReset.getLsbD d = false)
    (hv : v.getLsbD 0 ≠ s.clocks.domSel.getLsbD d) :
    let u := { s with clocks := { s.clocks with domForce := putBit s.clocks.domForce d (v.getLsbD 1) } }
    (v.getLsbD 1 = false → writeDomain d v s = { u with clocks := { u.clocks with domPending := putBit u.clocks.domPending d true } }) ∧
    (v.getLsbD 1 = true → domainUnit d = none → writeDomain d v s = flipDomain d u) := by
  have hc : (v.getLsbD 0 != s.clocks.domSel.getLsbD d) = true := bne_iff_ne.mpr hv
  intro u
  unfold writeDomain
  rw [if_neg (by simp [h, hd])]
  refine ⟨fun hf => ?_, fun hf hu => ?_⟩
  · simp only [u, hc, hr, hf]
    rfl
  · simp only [u, hc, hr, hf, hu]
    rfl

/-- A format of a flash area that may be formatted empties the area and begins. -/
theorem writeFlashCfg_format {v : BitVec 32} (hv : v.getLsbD 2 = true) (ho : v.toNat % 4 < 2) (hm : mayFormat s = true) :
    writeFlashCfg v s = { s with
      flash := { s.flash with opSelect := v.toNat % 4, formatted := false, formatting := true, opApplied := v.toNat % 4 }
      store := { s.store with cells := s.store.cells.filter (fun c => c.1 < 2 ^ 48)
                              poison := s.store.poison.filter (· < 2 ^ 48), lost := s.store.lost.filter (· < 2 ^ 48) } } := by
  have hs : (if s.harbour.sealed || 2 ≤ v.toNat % 4 then s else { s with flash := { s.flash with opSelect := v.toNat % 4 } }) =
      { s with flash := { s.flash with opSelect := v.toNat % 4 } } := if_neg (by simp [h]; omega)
  have hm' : mayFormat { s with flash := { s.flash with opSelect := v.toNat % 4 } } = true := hm
  unfold writeFlashCfg
  dsimp only
  rw [hs, hv, hm']
  rfl

end

/-- Settles O44: each write's branch for an unsealed device. -/
theorem setupWritesTakeEffectBeforeTheSeal : Obligations.SetupWritesTakeEffectBeforeTheSeal := by
  intro s ha
  have done {f : State → State} {t : State} (e : f s = t) : run f s = .next (settled s t) := by rw [run_awake ha, e]
  refine ⟨fun v hv h hc => done (writeSeal_unsealed h hv hc), fun v => done rfl, fun h => ⟨fun v hb => done (writeHedMode_unsealed h hb),
    fun vf v ho hw hn => done (writeVfBind_unsealed h ho hw hn), fun fn v hf hv hm => done (writeMsixAlloc_unsealed h hf hv hm),
    fun n v p hp => ⟨fun he hv => done ?_, fun he hv => done ?_⟩, fun port entry v => done ?_,
    fun v hr hv hp => done ?_, fun d v hd hr hv => ⟨fun hf => done ((writeDomain_unsealed h hd hr hv).1 hf),
      fun hf hu => done ((writeDomain_unsealed h hd hr hv).2 hf hu)⟩, fun v hv ho hm => done ?_⟩, fun hf => done ?_,
    fun d hd ho hr => done ?_, fun hp hr ho => done ?_⟩
  · simp [bit, hv, writePortCtrl_unsealed h hp, he]
  · simp [bit, hv, writePortCtrl_unsealed h hp, he]
  · rw [word_zero, word_one v.isLt]
  · rw [bit, hv, hr]
    exact writeSrcCtrl_unsealed h hr hv hp
  · rw [if_pos hv]
    exact writeFlashCfg_format h hv ho hm
  · simp [hf]
  · simp [hd, ho, hr]
  · simp [hp, hr, ho]

end Sys2Proof.Machine

/-! ## The end of a command (R23, R160, R353) -/

namespace Sys2Proof.Machine

section
variable {s : State} {k : CmdKey} {c : Cmd} {st a b : Nat}

/-- A command as it stands after its end: its status and counts as the record holds them, and no cluster. -/
def Cmd.endedWith (c : Cmd) (st a b : Nat) : Cmd :=
  { c with phase := .ended, status := st % 65536, count0 := a % 2 ^ 32, count1 := b % 2 ^ 32, clusters := [], slots := [] }

theorem endCmd_of_none (h : cmd? s k = none) : endCmd k st a b s = s := by simp only [endCmd, h]

theorem endCmd_of_ended (h : cmd? s k = some c) (hp : c.phase = .ended) : endCmd k st a b s = s := by
  simp only [endCmd, h, hp, if_true]

/-- A ring command that ends gives up its engines and waits for its record. -/
theorem endCmd_of_ring (h : cmd? s k = some c) (hp : c.phase ≠ .ended) (hl : c.lead = none) :
    endCmd k st a b s = updCmd k (fun _ => c.endedWith st a b) (releaseEngines k s) := by
  simp only [endCmd, h, hp, if_false, hl, Cmd.endedWith]

theorem cmd?_endCmd_of_ring (h : cmd? s k = some c) (hp : c.phase ≠ .ended) (hl : c.lead = none) (k' : CmdKey) :
    cmd? (endCmd k st a b s) k' = if k' = k then some (c.endedWith st a b) else cmd? s k' := by
  have hr (j : CmdKey) : cmd? (releaseEngines k s) j = cmd? s j := rfl
  have hk : c.key = k := cmd?_key h
  rw [endCmd_of_ring h hp hl, cmd?_updCmd _ k k' (fun _ => c.endedWith st a b) fun _ _ => hk, hr, hr, h, Option.map_some]

end

/-- Settles O12: a ring command's end releases its engines and rewrites its own record, which the lookups show. -/
theorem endedCommandHoldsItsStatus : Obligations.EndedCommandHoldsItsStatus := by
  intro k st a b s
  refine ⟨fun c hc hp hl => ⟨?_, fun k' hk => ?_, ?_⟩, fun c => endCmd_of_ended, endCmd_of_none⟩
  · exact (cmd?_endCmd_of_ring hc hp hl k).trans (if_pos rfl)
  · exact (cmd?_endCmd_of_ring hc hp hl k').trans (if_neg hk)
  · rw [endCmd_of_ring hc hp hl]
    rfl

end Sys2Proof.Machine

/-! ## The homes of embedding tables (R517–R543) -/

namespace Sys2Proof.Machine

section
variable {s u : State} {k : CmdKey} {c : Cmd} {t : Table}

/-- A home whose rows are its own, reachable and clean answers a gather with their bytes and counts a read of each. -/
theorem homeGather_served {isle tid : Nat} {rows : List Nat} {d : Cmd} (ht : table? s tid = some t)
    (hh : rows.find? (fun r => !homeHere s isle (rowHome t r)) = none)
    (hr : rows.find? (fun r => typedRange s isle (rowVa t r) (vecLen t.fmt t.width) 2 != stOk) = none)
    (ha : access k isle (rows.map (fun r => ⟨.load, false, rowVa t r, vecLen t.fmt t.width⟩)) s = (.ok, u)) (hd : cmd? u k = some d)
    (hv : rows.find? (fun r => vstatus u { d with isle := isle } (rowVa t r) (vecLen t.fmt t.width) != stOk) = none) :
    homeGather k isle tid rows s =
      (.done stOk 0 0 0 ⟨[], rows.flatMap (fun r => vread u { d with isle := isle } (rowVa t r) (vecLen t.fmt t.width))⟩,
        rows.foldl (fun v r => bumpSlot (homeKey isle tid * 4096 + slotIndex t r) 1 0 v) u) := by
  simp only [homeGather, ht, hh, hr, ha, hd, hv]

/-- A home that has the step open, not closing, and room keeps a new share, not staged. -/
theorem homeReserve_kept {isle tid src useq n : Nat} {step : BitVec 32} (ht : table? s tid = some t)
    (ho : NMap.get? s.emb.openStep (homeKey isle tid) = some step) (hc : homeKey isle tid ∉ s.emb.closing)
    (hn : share? s (homeKey isle tid) src useq step = none) (hr : typedRange s isle t.stagingVa t.stagingLen 2 = stOk)
    (hu : stagingUsed s (homeKey isle tid) + n ≤ t.stagingLen / recordSize t) :
    homeReserve isle tid src useq n step s = (.st stOk, { s with emb := { s.emb with shares := s.emb.shares ++
      [{ table := homeKey isle tid, step := step, src := src, useq := useq, count := n, staged := false }] } }) := by
  simp [homeReserve, ht, ho, hc, hn, hr, Nat.not_lt.mpr hu]

/-- A home whose open step is the one to close, with every share staged, closes it to new shares. -/
theorem homePrepare_closes {isle tid : Nat} {step : BitVec 32} (ho : NMap.get? s.emb.openStep (homeKey isle tid) = some step)
    (hs : s.emb.shares.any (fun x => x.table == homeKey isle tid && !x.staged) = false) :
    homePrepare isle tid step s = (.done stOk 0 step.toNat 0 noData,
      { s with emb := { s.emb with closing := insertNat (homeKey isle tid) s.emb.closing } }) := by
  simp only [homePrepare, ho, if_true, hs, Bool.false_eq_true, if_false]

/-- What a home answers with ST_OK ends its sub-command with the counts and the data it answers. -/
theorem endServed_ok (c0 c1 : Nat) (d : SubData) :
    endServed k (.done stOk 0 c0 c1 d) s = endCmd k stOk c0 c1 (updCmd k (fun c => { c with data := d }) s) := rfl

theorem firstFailing_of_ok (h : ∀ x ∈ c.subs, x.status = some stOk) : firstFailing c = none := by
  have hn : c.subs.filter (fun x => x.status != some stOk) = [] := List.filter_eq_nil_iff.mpr fun x m => by simp [h x m]
  rw [firstFailing, hn, List.foldl_nil]

/-- A lead past its first phase has begun. -/
theorem aux_ne_nil {n : Nat} (h : c.aux.headD 0 = n + 1) : c.aux ≠ [] := by
  intro e
  simp [e] at h

section
variable (hc : cmd? s k = some c) (ha : allAnswered c = true) (hs : ∀ x ∈ c.subs, x.status = some stOk) (hx : c.aux.headD 0 = 2)
include hc ha hs hx

theorem updateGo_applied (n : Nat) :
    updateGo k (n + 1) s = endCmd k stOk (c.subs.map (fun x => x.counts.1)).sum (c.aux.getD 1 0) s := by
  have hne : ¬ c.aux.headD 0 = 1 := by omega
  simp only [updateGo, hc, runLocal_answered hc ha, ha, firstFailing_of_ok hs, hne, if_false, Bool.not_true, Bool.false_eq_true]

theorem closeGo_applied (n : Nat) :
    closeGo k (n + 1) s = endCmd k stOk (c.subs.map (fun x => x.counts.1)).sum (c.subs.map (fun x => x.counts.2)).sum s := by
  have hne : ¬ c.aux.headD 0 = 1 := by omega
  simp only [closeGo, hc, runLocal_answered hc ha, ha, firstFailing_of_ok hs, hne, if_false, Bool.not_true, Bool.false_eq_true]

end
end

/-- Settles O21: each row's body by whether the command is a lead's or a home's, and a home's answer by its own lemma. -/
theorem embeddingCommandsServeTheirShares : Obligations.EmbeddingCommandsServeTheirShares := by
  intro s u k c
  refine ⟨fun h t d hr hl ht => ?_, fun h t n hr hl hp hw ht => ?_, fun hr hl hx ha hs => ?_, fun h hr hl hp => ?_, fun hr hl hx ha hs => ?_⟩
  · intro rows n hh hty hac hd hv
    refine (run_withCmd hr _).trans ?_
    simp only [hl, Option.isSome_some, if_true]
    rw [homeGather_served ht hh hty hac hd hv, endServed_ok]
  · intro hk ho hc hn hty hu hlead
    refine (run_withCmd hr _).trans ?_
    have hsub : homeUpdate k c.isle (leadOf s c) c c.data (startCmd k s) =
        homeReserve c.isle (gaTable c) h.src (upSeq c) n (upStep c) (startCmd k s) := by
      simp only [homeUpdate, hp, if_true, hw, List.headD_cons, hlead]
    simp only [hl, Option.isSome_some, if_true]
    rw [hsub, homeReserve_kept ht ho hc hn hty hu]
    rfl
  · refine (run_withCmd hr _).trans ?_
    obtain ⟨-, hc, -, -⟩ := hr
    simp only [hl, Option.isSome_none, Bool.false_eq_true, if_false, aux_ne_nil hx]
    rw [updateGo_applied hc ha hs hx]
  · intro hk ho hsh
    refine (run_withCmd hr _).trans ?_
    have hsub : homeClose k c.isle (leadOf s c) c c.data (startCmd k s) = homePrepare c.isle (clTable c) (clStep c) (startCmd k s) := by
      simp only [homeClose, hp, if_true]
    simp only [hl, Option.isSome_some, if_true]
    rw [hsub, homePrepare_closes ho hsh, endServed_ok]
    rfl
  · refine (run_withCmd hr _).trans ?_
    obtain ⟨-, hc, -, -⟩ := hr
    simp only [hl, Option.isSome_none, Bool.false_eq_true, if_false, aux_ne_nil hx]
    rw [closeGo_applied hc ha hs hx]

end Sys2Proof.Machine

/-! ## Sub-commands, their answers and their times (R20–R27, R87, R622–R631, R654) -/

namespace Sys2Proof.Machine

/-- What a meaning gives where the device is awake, once its effect is known. -/
theorem run_awake_eq {s t : State} {f : State → State} (ha : awake s = true) (e : f s = t) : run f s = .next (settled s t) := by
  rw [run_awake ha, e]

theorem epochVerdict_current {s : State} {e : BitVec 8} (h : e = s.maps.cur.epoch) : epochVerdict s e = 0 := by
  simp [epochVerdict, h]

theorem epochVerdict_ahead {s : State} {e : BitVec 8} (h : e = s.maps.cur.epoch + 1) : epochVerdict s e = 1 := by
  have hd : (e - s.maps.cur.epoch).toNat = 1 := by rw [h]; bv_omega
  simp [epochVerdict, hd]

/-! ### Sub-commands taken (R22, R87, R622) -/

section
variable {s u : State} {h : Hdr} {desc : Nat} {d : SubData} (ha : awake s = true) (hp : h.port < 24)
  (hr : receive h (heldPool s (bits h.addr.toNat 52 12)) s = (true, u)) (hc : portClosed (takeId u) h.port h.src = false)
include ha hp hr hc

/-- A sub-command of a device that is no joined member is refused. -/
theorem subcmd_stranger (hm : h.src ∉ (takeId u).pool.members) :
    exec (.subcmd h desc d) s = .next (settled s (refuseSub h stPermission 0 (takeId u))) := by
  refine run_awake_eq ha ?_
  have hm' : (takeId u).pool.members.contains h.src = false := by simpa using hm
  simp only [Nat.not_le.mpr hp, if_false, hr, Bool.not_true, Bool.false_eq_true, hc, hm', Bool.not_false, Bool.or_true, if_true]

/-- A member's sub-command for no pool id of the partner is judged under its number. -/
theorem subcmd_member (hm : h.src ∈ (takeId u).pool.members) (hq : isPartner (takeId u) (bits h.addr.toNat 52 12) = false) :
    exec (.subcmd h desc d) s = .next (settled s (pumpAll (judgeSub h u.links.nextId desc d (takeId u)))) := by
  refine run_awake_eq ha ?_
  have hm' : (takeId u).pool.members.contains h.src = true := by simpa using hm
  simp only [Nat.not_le.mpr hp, if_false, hr, Bool.not_true, Bool.false_eq_true, hc, hm', Bool.or_false, hq]

end

/-- A sub-command taken into flight for an isle and served as far as it goes. -/
def admitSub (h : Hdr) (id isle desc : Nat) (d : SubData) (s : State) : State :=
  let c : Cmd := { freshCmd (subKey id) isle desc .ready with lead := some h, data := d, epoch := h.epoch }
  serveSub c.key { s with bobbin := { s.bobbin with cmds := s.bobbin.cmds ++ [c] } }

section
variable {s : State} {h : Hdr} {id isle desc : Nat} {d : SubData} {b : Bool}
  (hb : bindOf s (heldPool s (bits h.addr.toNat 52 12)) h.port h.src h.stream = some (isle, b)) (hv : h.rsv = false) (hy : h.sync = 0)
  (hi : isMine s (bits h.addr.toNat 52 12) = true) (hl : isleActive s isle = true) (hn : s.bobbin.cmds.length < 16384)
include hb hv hy hi hl hn

/-- A resent sub-command is taken where the map in force names no other home for it. -/
theorem judgeSub_resent (hf : subFlag d = 1) (ho : otherHome s.maps.cur (bits h.addr.toNat 52 12) isle desc d = none) :
    judgeSub h id desc d s = admitSub h id isle desc d s := by
  simp [judgeSub, hb, hv, hy, hi, hl, Nat.not_le.mpr hn, hf, ho, admitSub]

theorem judgeSub_current (hf : subFlag d ≠ 1) (ho : forwardedTo s h.epoch desc d = none) (he : h.epoch = s.maps.cur.epoch) :
    judgeSub h id desc d s = admitSub h id isle desc d s := by
  simp [judgeSub, hb, hv, hy, hi, hl, Nat.not_le.mpr hn, hf, ho, epochVerdict_current he, admitSub]

theorem judgeSub_ahead (hf : subFlag d ≠ 1) (ho : forwardedTo s h.epoch desc d = none) (he : h.epoch = s.maps.cur.epoch + 1) :
    judgeSub h id desc d s = holdSub h id desc d [] s := by
  simp [judgeSub, hb, hv, hy, hi, hl, Nat.not_le.mpr hn, hf, ho, epochVerdict_ahead he]

end

/-! ### Answers and timeouts (R23, R238, R630, R654) -/

section
variable {s u : State} {h : Hdr} {id : Nat} {o : Outstanding}

/-- A message that answers the device and acts on nothing is received. -/
theorem answerIn_received : answerIn h (fun _ _ s => s) s = (receive h false s).2 := by
  simp only [answerIn]
  repeat' split
  all_goals rfl

/-- A message that answers an outstanding request acts on it. -/
theorem answerIn_outstanding (hr : receive h false s = (true, u)) (ho : outstandingOf u h = some (id, o)) (f : Nat → Outstanding → State → State) :
    answerIn h f s = f id o u := by
  simp only [answerIn, hr, Bool.not_true, Bool.false_eq_true, if_false, ho]

/-- An answer to a sub-command that is not followed elsewhere is recorded, and the lead goes on. -/
theorem subAnswered_recorded {c : Cmd} {x : Sub} {code : Nat} (hd : o.direct = false) (hc : cmd? (dropOutstanding id s) o.cmd = some c)
    (hx : c.subs[o.shard]? = some x) (hs : code ≠ stReroute ∨ x.resent = true) (hint c0 c1 : Nat) (d : SubData) :
    subAnswered id o code hint c0 c1 d s = advance o.cmd (updSub o.cmd o.shard (fun (x : Sub) =>
      { x with status := some code, answer := d, tag := none, counts := (if code = stReroute then hint else c0, c1) }) (dropOutstanding id s)) := by
  have hn : ¬ (code = stReroute ∧ (!x.resent) = true) := by
    rintro ⟨he, hr⟩
    rcases hs with h | h
    · exact h he
    · simp [h] at hr
  simp only [subAnswered, hd, Bool.false_eq_true, if_false, hc, Option.bind_some, hx, hn]

/-- A request to a pool id without a twin that times out is answered with ST_TIMEOUT. -/
theorem timeOut_ends (ho : NMap.get? s.links.outstanding id = some o) (ht : (routeOf s o.dest).twinAlias = none) :
    timeOut id s = subAnswered id o stTimeout 0 0 0 noData s := by
  simp only [timeOut, ho, ht, Option.isSome_none, Bool.false_and, Bool.false_eq_true, if_false]

/-- A request that times out first redirects its pool id to its twin. -/
theorem timeOut_redirects {a : Nat} (ho : NMap.get? s.links.outstanding id = some o) (ht : (routeOf s o.dest).twinAlias = some a)
    (hr : (routeOf s o.dest).redirected = false) : timeOut id s = redirect o.dest 2 s := by
  simp only [timeOut, ho, ht, hr, Option.isSome_some, Bool.not_false, Bool.and_true, if_true]

end

/-- Settles O56: each row's branch for the premises, with a sub-command judged and an answer recorded by their own lemmas. -/
theorem subcommandsAnswersAndTheirTimesComplete : Obligations.SubcommandsAnswersAndTheirTimesComplete := by
  intro s ha
  refine ⟨?subcmd, ?answers, ?ignored, ?retry, ?timed, ?backOff, ?progress, ?request, ?held, run_awake ha _⟩
  case subcmd =>
    intro h desc d u isle b hp hr pool v hc
    refine ⟨subcmd_stranger ha hp hr hc, fun hm hq hb hv hy hi hl hn => ?_⟩
    rw [subcmd_member ha hp hr hc hm hq]
    refine ⟨fun hf ho => ?_, fun hf ho he => ?_, fun hf ho he => ?_⟩
    · rw [judgeSub_resent hb hv hy hi hl hn hf ho]
      rfl
    · rw [judgeSub_current hb hv hy hi hl hn hf ho he]
      rfl
    · rw [judgeSub_ahead hb hv hy hi hl hn hf ho he]
  case answers =>
    intro h u id o c x code hr ho hd hc hx hs
    have done (hint c0 c1 : Nat) (d : SubData) := congrArg pumpAll (subAnswered_recorded hd hc hx hs hint c0 c1 d)
    exact ⟨fun det => run_awake_eq ha ((answerIn_outstanding hr ho _).trans (done ..)),
      fun det c0 c1 d => run_awake_eq ha ((answerIn_outstanding hr ho _).trans (done ..))⟩
  case ignored =>
    intro h
    have kept := run_awake_eq ha (answerIn_received (s := s) (h := h))
    exact ⟨kept, fun _ _ _ => kept, fun _ _ => kept, fun _ _ => kept⟩
  case retry => exact fun h u id o b hr ho => run_awake_eq ha (answerIn_outstanding hr ho _)
  case timed =>
    intro id o ho
    refine ⟨fun hb => run_awake_eq ha ?_, fun hp => ⟨fun ht => run_awake_eq ha ?_, fun a ht hr => run_awake_eq ha ?_⟩⟩
    · simp only [ho, hb, if_true]
    · simp only [ho, hp, Bool.false_eq_true, if_false, timeOut_ends ho ht]
    · simp only [ho, hp, Bool.false_eq_true, if_false, timeOut_redirects ho ht hr]
  case backOff => exact fun id ho => run_awake_eq ha (by simp only [ho])
  case progress => exact fun id r hr hk => run_awake_eq ha (by simp only [hr, hk, if_false])
  case request => exact fun id r hr hk => run_awake_eq ha (by simp only [hr, hk, if_false])
  case held => exact fun id c h hr hc hl hp hx => run_awake_eq ha (by simp only [hr, hc, hl, hp, hx, and_self, if_true])

end Sys2Proof.Machine

/-! ## A page taken for a region (R80, R669, R734) -/

namespace Sys2Proof.Machine
section
variable (p isle region : Nat) (vpage : Option Nat) (n : BitVec 16) (s : State)

/-- What the page table records of a page taken. -/
theorem getPage_allocPage : getPage (allocPage p isle vpage region n s) p = some
    { isle := isle, vpage := vpage, region := region, counter := n, idle := 0,
      chan := if inTier .flash p then pickChannel s else 0, move := none } := by
  simp only [getPage, allocPage, NMap.get?_set, if_true]

theorem isPoisoned_allocPage {l : Nat} (h : l / pageSize = p) : isPoisoned (allocPage p isle vpage region n s) l = false := by
  simp [isPoisoned, allocPage, h]

theorem isLost_allocPage {l : Nat} (h : l / pageSize = p) : isLost (allocPage p isle vpage region n s) l = false := by
  simp [isLost, allocPage, h]

/-- An address lies in a page where the page's bytes are counted from its base. -/
theorem div_pageSize_eq {x : Nat} : x / pageSize = p ↔ p * pageSize ≤ x ∧ x < p * pageSize + pageSize := by
  simp only [pageSize]
  omega

theorem read_allocPage (x : Nat) : Memory.read (allocPage p isle vpage region n s).store.cells x =
    if x / pageSize = p then 0 else Memory.read s.store.cells x := by
  simp only [div_pageSize_eq]
  exact Memory.read_clear ..

end

/-- Settles O11: the page's bytes are cleared, its marks are taken away and its record is set. -/
theorem newPageReadsAsZero : Obligations.NewPageReadsAsZero := fun p isle region vpage n s _ =>
  ⟨read_allocPage p isle region vpage n s,
    fun _ h => ⟨isPoisoned_allocPage p isle region vpage n s h, isLost_allocPage p isle region vpage n s h⟩,
    ⟨_, getPage_allocPage p isle region vpage n s, rfl, rfl, rfl, rfl⟩⟩

end Sys2Proof.Machine

/-! ## Requests served (R57, R60, R61, R69, R210, R618, R823) -/

namespace Sys2Proof.Machine

/-! ### What performing gives, by the request's kind -/

section
variable {r : Req} {rights : Nat} {l : List (Nat × Nat × Nat)} {w t x : State}
  (ht : t = l.foldl (fun s p => touchPage (eOff p.2.2 / pageSize) (burstsOf p.1 p.2.1) s) w) (hn : t.heddle.txns.length < 8192)
include ht hn

theorem perform_read {ls : List (Line × Nat)} (hk : r.kind = .rdUncached ∨ r.kind = .bar2Read)
    (h : reqRead r (linesUnder l) t = (.inl ls, x)) :
    perform r rights l w = (.done (worstOf ls) (ls.map fun y => (y.1, y.2 != stOk)) 0 0, accepted r x) := by
  subst ht
  rcases hk with hk | hk <;> simp [perform, Nat.not_le.mpr hn, h, hk]

theorem perform_run {ls : List (Line × Nat)} (hk : r.kind = .rdRun) (h : reqRead r (linesUnder l) t = (.inl ls, x)) :
    perform r rights l w = (.run ls, accepted r x) := by
  subst ht
  simp [perform, Nat.not_le.mpr hn, h, hk]

theorem perform_write (hk : r.kind = .wrLine ∨ r.kind = .wrPartial ∨ r.kind = .wrRun ∨ r.kind = .bar2Write) :
    perform r rights l w = doWrite r l t := by
  subst ht
  rcases hk with hk | hk | hk | hk <;> simp [perform, Nat.not_le.mpr hn, hk]

theorem perform_atomic (hk : r.kind = .atomic) : perform r rights l w = doAtomic r l t := by
  subst ht
  simp [perform, Nat.not_le.mpr hn, hk]

end

section
variable {r : Req} {l : List (Nat × Nat × Nat)} {t x y : State} {st : Nat}

/-- A write of whole lines or bytes whose lines are out of every cache stores its data. -/
theorem doWrite_stored (hk : r.kind ≠ .wrPartial) (hc : reqClear r (linesUnder l) t = (none, x))
    (hs : storePieces r l (dataBytes r) stOk (accepted r x) = (st, y)) : doWrite r l t = (.done st [] 0 0, y) := by
  simp [doWrite, hc, hk, hs]

/-- A partial write of a line without error stores the line with the bytes of its mask changed. -/
theorem doWrite_masked {va n e : Nat} (hk : r.kind = .wrPartial) (hc : reqClear r (linesUnder [(va, n, e)]) t = (none, x))
    (hl : lineStatus (accepted r x) (eOff e + va % pageSize) = stOk)
    (hs : storePieces r [(va, n, e)] (leBytes (maskLine (readLine (accepted r x) (eOff e + va % pageSize))
      (r.lines.headD { data := 0, check := 0 }).data r.mask).toNat 64) stOk (accepted r x) = (st, y)) :
    doWrite r [(va, n, e)] t = (.done st [] 0 0, y) := by
  simp only [doWrite, hc, hk, hl, bne_self_eq_false, Bool.and_false, Bool.false_eq_true, if_false, hs]

/-- An atomic of an unmirrored line that no takeover journal can hold is performed. -/
theorem doAtomic_performed {va n e old : Nat} (hi : r.isle < twinIsle) (ha : t.twin.also = 0xFFF) (hm : through t r.isle va e = false)
    (h : atomicAt (.req r) false ((linesUnder [(va, n, e)]).any (·.2)) (homeCluster (eOff e + va % pageSize)) r.op (eOff e + va % pageSize)
      r.a.toNat r.c.toNat t = (some (old, true), x)) :
    doAtomic r [(va, n, e)] t = (.done stOk [] 0 (BitVec.ofNat 128 old), accepted r x) := by
  have hj : t.twin.mirror.atomics.find? (fun _ => false) = none := List.find?_eq_none.mpr (by simp)
  simp [doAtomic, Nat.not_le.mpr hi, ha, hm, h, hj]

end

/-! ### From the arrival to the answer -/

section
variable {s v t x : State} {r : Req} {rights isle : Nat} {l : List (Nat × Nat × Nat)}

/-- A request whose pages are reached is answered with what performing it gives. -/
theorem serve_done {st g : Nat} {ls : List (Line × Bool)} {p : BitVec 128} (hk : r.kind ≠ .dirty ∧ r.kind ≠ .wrBack)
    (ha : isleActive v r.isle = true) (he : r.origin = .strait → epochVerdict v r.hdr.epoch = 0) (hr : Reaches v r rights l t)
    (hp : ∀ w, t = l.foldl (fun s p => touchPage (eOff p.2.2 / pageSize) (burstsOf p.1 p.2.1) s) w → t.heddle.txns.length < 8192 →
      perform r rights l w = (.done st ls g p, x)) :
    serve none r v = respond r t.twin.nextItem st ls g p x := by
  obtain ⟨w, hw, hs⟩ := serve_reaches hk ha he hr
  obtain ⟨-, -, -, -, -, -, -, -, -, -, -, hn⟩ := hr
  rw [hs, hp w hw hn]

/-- A Strait request that arrives and is performed is answered, and what waited for it goes on. -/
theorem requestIn_done {st g : Nat} {ls : List (Line × Bool)} {p : BitVec 128} (hk : r.kind ≠ .dirty ∧ r.kind ≠ .wrBack)
    (ha : Arrives s r isle v) (hr : Reaches v (admitted r isle v) rights l t)
    (hp : ∀ w, t = l.foldl (fun s p => touchPage (eOff p.2.2 / pageSize) (burstsOf p.1 p.2.1) s) w → t.heddle.txns.length < 8192 →
      perform (admitted r isle v) rights l w = (.done st ls g p, x)) :
    requestIn r s = pumpAll (respond (admitted r isle v) t.twin.nextItem st ls g p x) := by
  obtain ⟨-, -, -, -, -, -, -, -, -, he, hi⟩ := id ha
  rw [requestIn_arrives ha, serve_done (r := admitted r isle v) hk hi (fun _ => he) hr hp]

/-- A run read that arrives and is performed is answered burst by burst. -/
theorem requestIn_run {ls : List (Line × Nat)} (hk : r.kind = .rdRun) (ha : Arrives s r isle v)
    (hr : Reaches v (admitted r isle v) rights l t) (h : reqRead (admitted r isle v) (linesUnder l) t = (.inl ls, x)) :
    requestIn r s = pumpAll (deliverRun (admitted r isle v) ls (accepted (admitted r isle v) x)) := by
  obtain ⟨-, -, -, -, -, -, -, -, -, he, hi⟩ := id ha
  obtain ⟨w, hw, hs⟩ := serve_reaches (r := admitted r isle v) (by simp [admitted, hk]) hi (fun _ => he) hr
  obtain ⟨-, -, -, -, -, -, -, -, -, -, -, hn⟩ := hr
  rw [requestIn_arrives ha, hs, perform_run (r := admitted r isle v) hw hn hk h]

end

/-! ### BAR2 apertures (R61, R69) -/

/-- A BAR2 access of a bound function within its aperture is served in the function's isle at the aperture's base. -/
theorem bar2In_served {s : State} {r : Req} {fn off isle : Nat} {i : Isle} (hb : bar2Isle s fn = some isle) (hf : s.twin.state ≠ .fenced)
    (hi : isle? s isle = some i) (ho : off + r.size ≤ 2 ^ 38) (hr : r.origin = .bar2 fn) :
    bar2In r fn off s = pumpAll (serve none { r with id := s.links.nextId, isle := isle, va := i.bar2Base + off } (takeId s)) := by
  have hn : ¬ (s.twin.state = .fenced ∨ 2 ^ 38 < off + r.size) := by rintro (h | h) <;> [exact hf h; omega]
  simp only [bar2In, hb, hn, if_false, hi, ← hr]

theorem isleActive_of_isle? {s : State} {isle : Nat} {i : Isle} (hi : isle? s isle = some i) (ha : i.state = .active) :
    isleActive s isle = true := by simp [isleActive, hi, ha]

/-- Settles O54: each kind's performing by its own lemma, between the arrival and the answer that all share. -/
theorem readsWritesAndAtomicsAreServed : Obligations.ReadsWritesAndAtomicsAreServed := by
  intro s v t x isle rights l
  refine ⟨?read, ?run, ?line, ?lines, ?masked, ?atomic, ?bar2, ?unbound⟩
  case read =>
    intro h ls bad r ha hu hf hv hr hl
    refine run_awake_eq ha ?_
    simp only [hu, hf, bne_iff_ne, ne_eq, not_false_eq_true, Bool.true_and, if_true]
    exact requestIn_done (by simp [newReq]) hv hr fun w hw hn => perform_read hw hn (.inl rfl) hl
  case run =>
    intro h ls r hv hr hl
    exact run_awake_eq hv.1 (requestIn_run rfl hv hr hl)
  case line =>
    intro h w st y r hv hr hc hs
    refine run_awake_eq hv.1 (requestIn_done (by simp [newReq]) hv hr fun w hw hn => ?_)
    rw [perform_write hw hn (.inl rfl)]
    exact doWrite_stored (by simp [admitted, newReq]) hc ((congrArg (storePieces _ l · stOk _) (List.flatMap_singleton ..)).trans hs)
  case lines =>
    intro h ws st y r hv hr hc hs
    refine run_awake_eq hv.1 (requestIn_done (by simp [newReq]) hv hr fun w hw hn => ?_)
    rw [perform_write hw hn (.inr (.inr (.inl rfl)))]
    exact doWrite_stored (by simp [admitted, newReq]) hc hs
  case masked =>
    intro h mask w st y va n e r hv hr hc hl line ho hs
    subst hl
    refine run_awake_eq hv.1 (requestIn_done (by simp [newReq]) hv hr fun w hw hn => ?_)
    rw [perform_write hw hn (.inr (.inl rfl))]
    exact doWrite_masked rfl hc ho hs
  case atomic =>
    intro h op a c va n e old r hv hr hl hi ht hm at_ hx
    subst hl
    refine run_awake_eq hv.1 (requestIn_done (by simp [newReq]) hv hr fun w hw hn => ?_)
    rw [perform_atomic hw hn rfl]
    exact doAtomic_performed hi ht hm hx
  case bar2 =>
    intro ha fn off i hb hf hi hact
    refine ⟨?_, ?_⟩
    · intro len ls bad ho u r hub huf hui hr hl
      refine run_awake_eq ha ?_
      have hc : ((bar2Isle s fn).isSome && s.twin.state != .fenced) = true := by simp [hb, hf]
      rw [if_pos hc, bar2In_served hub huf hui ho rfl]
      exact congrArg pumpAll (serve_done (by simp [newReq]) (isleActive_of_isle? (i := i) hui hact) (by simp) hr
        fun w hw hn => perform_read hw hn (.inr rfl) hl)
    · intro bs st y ho r hr hc hs
      refine run_awake_eq ha ?_
      rw [bar2In_served hb hf hi ho rfl]
      refine congrArg pumpAll (serve_done (by simp [newReq]) (isleActive_of_isle? (i := i) hi hact) (by simp) hr fun w hw hn => ?_)
      rw [perform_write hw hn (.inr (.inr (.inr rfl)))]
      exact doWrite_stored (by simp [newReq]) hc hs
  case unbound =>
    intro ha fn off hb
    exact ⟨fun len bad => run_awake_eq ha (by simp [bar2In, hb, newReq]), fun bs => run_awake_eq ha (by simp [bar2In, hb, newReq])⟩

end Sys2Proof.Machine

/-! ## Regions, mappings and tier pins (R75, R77, R78, R128–R130, R298) -/

namespace Sys2Proof.Machine

/-- A test that fails on every member of a list fails on the list. -/
theorem any_false {α : Type} {l : List α} {f : α → Bool} (h : ∀ x ∈ l, f x = false) : l.any f = false :=
  List.any_eq_false.mpr fun x hx => by simp [h x hx]

section
variable {s u : State} {k : CmdKey} {c : Cmd}

/-- A scratchpad window of a cluster that the isle may map, over unmapped pages whose tables fit, is installed. -/
theorem mapScratch_installed (hm : ∀ p ∈ (List.range 32).map (fun i => c.va 24 / pageSize + i), mapped s c.isle p = false)
    (hd : c.isle = 0 ∨ dedicatedTo s (c.fld 18 0 12) = some c.isle)
    (ht : ensureTables c.isle ((List.range 32).map (fun i => c.va 24 / pageSize + i)) s = some u) :
    mapScratch k c s = endFree k stOk (noteEntries k c.isle ((List.range 32).map (fun i => c.va 24 / pageSize + i))
      ((List.range 32).foldl (fun s i => putEntry c.isle (c.va 24 / pageSize + i) (mkEntry (c.fld 22 0 3) false false false false true 0
        (scratchBase + c.fld 18 0 12 * 0x200000 + i * pageSize)) s) u)) := by
  have hd' : (c.isle != 0 && dedicatedTo s (c.fld 18 0 12) != some c.isle) = false := by
    rcases hd with h | h <;> simp [h]
  simp only [mapScratch, any_false hm, hd', ht, Bool.false_eq_true, if_false]

/-- On a management ring a window under a free id is installed. -/
theorem mapWindow_installed (hr : onManagement s k = true) (hf : NMap.get? s.trans.windows (c.fld 18 0 12) = none) :
    mapWindow k c s = endFree k stOk (twinFor k 7 [c.fld 18 0 12, c.fld 20 0 14, c.fld 22 0 4, c.fld 32 0 64 / pageSize, c.va 24] []
      { s with trans := { s.trans with windows := NMap.set s.trans.windows (c.fld 18 0 12) {
          isle := c.fld 20 0 14, rights := c.fld 22 0 4, pages := c.fld 32 0 64 / pageSize, base := c.va 24, leaving := false } } }) := by
  simp [mapWindow, hr, hf]

/-- A range whose pages are all mapped is pinned where its pins fit, and unpinned where no plan uses it. -/
theorem mapPin_walked (hw : ∀ p ∈ pagesOf (c.va 24) (c.fld 32 0 64), ∃ e, walk s c.isle p = .entry e) :
    (c.fld 17 0 1 = 0 → pinPages c.isle (pagesOf (c.va 24) (c.fld 32 0 64)) s = some u →
      mapPin k c s = endFree k stOk (noteEntries k c.isle (pagesOf (c.va 24) (c.fld 32 0 64)) u)) ∧
    (c.fld 17 0 1 = 1 → (∀ p ∈ pagesOf (c.va 24) (c.fld 32 0 64), planUses s c.isle p = false) →
      mapPin k c s = endFree k stOk (noteEntries k c.isle (pagesOf (c.va 24) (c.fld 32 0 64))
        ((pagesOf (c.va 24) (c.fld 32 0 64)).foldl (unpinPage c.isle) s))) := by
  simp only [mapPin]
  split
  · next h =>
    obtain ⟨p, hp, hx⟩ := List.any_eq_true.mp h
    obtain ⟨e, he⟩ := hw p hp
    simp [he] at hx
  · refine ⟨fun h0 hp => ?_, fun h1 hp => ?_⟩
    · rw [if_neg (by simp [h0]), hp]
    · rw [if_pos h1, if_neg (by simp [any_false hp])]

/-- A PIN_TIER that has dealt with every page and skipped none ends. -/
theorem pinGo_ends {n moved found fuel : Nat} {r : List Nat} (hc : cmd? s k = some c) (ha : c.aux = n :: moved :: found :: 0 :: r)
    (hn : (pagesOf (c.va 24) (c.fld 32 0 64)).length ≤ n) : pinGo k (fuel + 1) s = endCmd k stOk moved found s := by
  have h : (pagesOf (c.va 24) (c.fld 32 0 64))[n]? = none := List.getElem?_eq_none hn
  simp [pinGo, hc, ha, h]

end

/-- Settles O30: each command's branch for the premises, with the forms of MAP by their own lemmas. -/
theorem regionCommandsComplete : Obligations.RegionCommandsComplete := by
  intro s u v k c
  refine ⟨?alloc, ?scratch, ?window, ?pins, ?tier⟩
  case alloc =>
    intro id ps hc hf hm vp0 vps coherent hu hi ht hp r
    refine (run_withCmd hc _).trans ?_
    simp only [hf, hm, Bool.not_true, Bool.false_or, Bool.false_and, any_false hu, hi, ht, hp, Bool.false_eq_true, if_false, vps, vp0, coherent, r]
  case scratch =>
    intro hc hf h0 vp0 vps hm hd ht
    refine (run_withCmd hc _).trans ?_
    simp only [hf, h0, Bool.not_true, Bool.false_eq_true, if_false, if_true]
    rw [mapScratch_installed hm hd ht]
    rfl
  case window =>
    intro hc hf h1 hr hw w
    refine (run_withCmd hc _).trans ?_
    simp only [hf, h1, Bool.not_true, Bool.false_eq_true, if_false, if_true, one_ne_zero]
    rw [mapWindow_installed hr hw]
  case pins =>
    intro hc hf h2 vps hw
    have hx : exec (.map k) s = .next (settled s (mapPin k c s)) := by
      refine (run_withCmd hc _).trans ?_
      simp [hf, h2]
    obtain ⟨pins, unpins⟩ := mapPin_walked (k := k) (u := u) hw
    exact ⟨fun h0 hp => by rw [hx, pins h0 hp], fun h1 hp => by rw [hx, unpins h1 hp]⟩
  case tier =>
    intro n moved found r hc ha hn
    refine (run_withCmd hc _).trans ?_
    rw [if_pos (by simp [ha]), pinGo_ends hc.2.1 ha hn]

end Sys2Proof.Machine

/-! ## Isle commands (R48–R52, R62, R688–R690, R766) -/

namespace Sys2Proof.Machine

theorem irId_eq (bs : List Byte) : irId bs = field bs 0 2 % 2 ^ 14 := by simp [irId, bits]
theorem klIsle_eq (c : Cmd) : klIsle c = field c.arg 0 2 % 2 ^ 14 := by simp [klIsle, bits]

section
variable {s : State} {k : CmdKey} {c d : Cmd} {i : Nat} {old : Isle}

/-- A change that nothing refuses is applied: the isle's record and clusters are the changed ones. -/
theorem applyChange_applied {cut : Nat} (hc : cmd? s k = some d) (hi : NMap.get? s.isles (irId d.arg) = some old)
    (hs : changeStatus s (irId d.arg) old (changedIsle d old) = stOk) :
    applyChange k cut s = endCmd k stOk cut 0 (ownClusters (irId d.arg) (changedIsle d old).clusterMask
      (setIsle (some k) (irId d.arg) (some (changedIsle d old)) s)) := by
  simp only [applyChange, hc, hi, hs, bne_self_eq_false, Bool.false_eq_true, if_false]

/-- A change that nothing refuses and that takes no mapped scratchpad away is applied at once. -/
theorem changeGo_applied (hc : cmd? s k = some d) (hi : NMap.get? s.isles (irId d.arg) = some old)
    (hs : changeStatus s (irId d.arg) old (changedIsle d old) = stOk)
    (hp : scratchPages s (irId d.arg) (old.clusterMask &&& ~~~(changedIsle d old).clusterMask) = []) :
    changeGo k d s = endCmd k stOk 0 0 (ownClusters (irId d.arg) (changedIsle d old).clusterMask
      (setIsle (some k) (irId d.arg) (some (changedIsle d old)) s)) := by
  simp only [changeGo, hi, hs, hp, bne_self_eq_false, Bool.false_eq_true, if_false, List.filter_nil, if_true, applyChange_applied hc hi hs]

/-- A command begun with its progress numbers set, as it stands in flight. -/
theorem cmd?_begun (hc : cmd? s k = some c) (aux : List Nat) :
    cmd? (updCmd k (fun c => { c with aux := aux }) (startCmd k s)) k = some { c with phase := .running, aux := aux } := by
  rw [cmd?_updCmd _ _ _ _ (fun _ h => by exact h), if_pos rfl, cmd?_startCmd hc]
  rfl

/-- An ISLE_CHANGE that waits for no withdrawal and no Shuttle command goes on at once. -/
theorem isleChange_goes (hc : Runs s k 0x0F02 c) (hp : c.phase = .ready)
    (hf : (c.hasArg (fun n => n == 64) && c.zero 32 63 && isleBlockOk c.arg) = true) (hw : ∀ w ∈ s.trans.withdrawals, w.cmd ≠ some k)
    (hb : shuttleBefore s k (irId c.arg) = []) :
    exec (.isleChange k) s = .next (settled s (changeGo k { c with phase := .running, aux := [1] }
      (updCmd k (fun c => { c with aux := [1] }) (startCmd k s)))) := by
  refine (run_withCmd hc _).trans ?_
  have hk := cmd?_key hc.2.1
  have hw' := any_false (l := s.trans.withdrawals) (f := fun w => w.cmd == some k) fun w h => by simpa using hw w h
  simp only [hf, hw', hp, hb, cmdNow, hk, cmd?_begun hc.2.1, Bool.not_true, Bool.false_eq_true, if_false, beq_self_eq_true, if_true,
    List.map_nil, List.filter_nil, Option.getD_some]

/-- Nothing holds an isle that is neither bound nor used. -/
theorem isleDestroy_free {r : Isle} (h0 : i ≠ 0) (hs : r.state = .created ∨ r.state = .active) (hb : bound s i = false)
    (hq : ∀ q ∈ s.bobbin.sqs, q.2.isle ≠ i) (hp : ∀ p ∈ s.treadle.plans, ¬ (p.2.held = true ∧ p.2.isle = i)) :
    (i = 0 || !(r.state == .created || r.state == .active) || bound s i || s.bobbin.sqs.any (fun q => q.2.isle == i) ||
      s.treadle.plans.any (fun p => p.2.held && p.2.isle == i)) = false := by
  have hq' := any_false (l := s.bobbin.sqs) (f := fun q => q.2.isle == i) fun q h => by simpa using hq q h
  have hp' := any_false (l := s.treadle.plans) (f := fun p => p.2.held && p.2.isle == i) fun p h => by simpa using hp p h
  have hs' : (r.state == .created || r.state == .active) = true := by simpa using hs
  simp [h0, hs', hb, hq', hp']

/-- A reset whose isle has no ring and no command left ends, the isle being ACTIVE again. -/
theorem finishReset_ends {r : Isle} (hc : cmd? s k = some c) (hp : c.phase = .running) (hq : ∀ q ∈ s.bobbin.sqs, q.2.isle ≠ c.fld 16 0 14)
    (hx : ∀ x ∈ s.bobbin.cmds, x.isle ≠ c.fld 16 0 14) (hi : NMap.get? s.isles (c.fld 16 0 14) = some r) :
    finishReset s k = endFirst k stOk (c.aux.headD 0) (setIsle (some k) (c.fld 16 0 14) (some { r with state := .active }) s) := by
  have hq' := any_false (l := s.bobbin.sqs) (f := fun q => q.2.isle == c.fld 16 0 14) fun q h => by simpa using hq q h
  have hx' := any_false (l := s.bobbin.cmds) (f := fun x => x.isle == c.fld 16 0 14) fun x h => by simpa using hx x h
  simp only [finishReset, hc, hp, hq', hx', hi, bne_self_eq_false, Bool.or_self, Bool.false_eq_true, if_false]

end

/-- Settles O32: each command's branch for the premises; an ISLE_CHANGE goes through its begin, its go-ahead and its application. -/
theorem isleCommandsComplete : Obligations.IsleCommandsComplete := by
  intro s k c
  dsimp only
  refine ⟨?create, ?change, ?keyLoad, ?activate, ?destroy, ?reset⟩
  case create =>
    intro off u hc ha hz hb h0 hn ht hq hu
    refine (run_withCmd hc _).trans ?_
    simp only [irId_eq, ha, hz, hb, bne_iff_ne.mpr h0, hn, ht, Nat.not_lt.mpr hq, hu, Bool.and_self, Bool.not_true, Option.isSome_none,
      Bool.or_self, Bool.false_eq_true, if_false]
  case change =>
    intro old hc hp ha hz hb hw hsh ho hs hpg
    rw [← irId_eq] at hsh ho hs hpg
    rw [isleChange_goes hc hp (by simp [ha, hz, hb]) hw hsh, changeGo_applied (old := old) (cmd?_begun hc.2.1 [1]) ho hs hpg,
      irId_eq]
    rfl
  case keyLoad =>
    intro key r hc hf ht hr h0 hs hl
    refine (run_withCmd hc _).trans ?_
    have hl' : s.trust.lastKeySeq.any (fun x => decide (klSeq c ≤ x)) = false :=
      (Option.any_eq_false ..).mpr fun x hx => decide_eq_false (Nat.not_le.mpr (hl x hx))
    simp only [klIsle_eq, hf, ht, hr, h0, hs, hl', bne_self_eq_false, Bool.not_true, Bool.or_self, Bool.false_eq_true, if_false, decide_false]
    split <;> rfl
  case activate =>
    intro hc hf
    refine ⟨fun r hr hs hk => (run_withCmd hc _).trans ?_, fun hn => (run_withCmd hc _).trans ?_⟩
    · simp only [hf, hr, hs, hk, Bool.not_true, Bool.false_eq_true, if_false, beq_self_eq_true, Bool.and_self, if_true]
    · simp only [hf, Bool.not_true, Bool.false_eq_true, if_false]
      cases hr : NMap.get? s.isles (c.fld 16 0 14) with
      | none => rfl
      | some r =>
        have : (r.state == .created && r.keys.isSome) = false := by
          rcases hn r hr with h | h <;> simp [h]
        simp only [this, Bool.false_eq_true, if_false]
  case destroy =>
    intro r hc hf hp hr
    refine ⟨fun h0 hs hb hq hpl => (run_withCmd hc _).trans ?_, fun hb => (run_withCmd hc _).trans ?_⟩
    · simp only [hf, beq_eq_false_iff_ne.mpr hp, hr, isleDestroy_free h0 hs hb hq hpl, Bool.not_true, Bool.false_eq_true, if_false]
    · simp only [hf, beq_eq_false_iff_ne.mpr hp, hr, hb, Bool.not_true, Bool.false_eq_true, if_false, Bool.or_true,
      Bool.true_or, if_true]
  case reset =>
    intro n rest r hc hf hp ha hq hx hr
    refine (run_withCmd hc _).trans ?_
    simp only [hf, hp, Bool.not_true, Bool.false_eq_true, if_false, beq_self_eq_true, if_true,
      finishReset_ends hc.2.1 hp hq hx hr, ha, List.headD_cons]

end Sys2Proof.Machine

/-! ## Bindings, maps and units (R95, R638, R767, R811, R812) -/

namespace Sys2Proof.Machine
section
variable {s u : State} {k : CmdKey} {c d : Cmd}

/-- A one-bit field is the bit. -/
theorem bit_fld (byte : Nat) : bit (c.fld byte 0 8) 0 = decide (c.fld byte 0 1 = 1) := by
  simp [bit, Cmd.fld, bits, Nat.testBit_eq_decide_div_mod_eq]

/-- A binding entry that holds no agent and brings none is written at once. -/
theorem bindSet_plain (hc : Runs s k 0x0F04 c) (hf : bindFieldsOk c = true) (hp : c.phase ≠ .running) (h1 : c.fld 16 0 1 = 1)
    (ha : agentAt s (c.fld 17 0 5) (c.fld 18 0 11) = none) (hn : bindCaching (c.fld 24 0 64) = false) :
    exec (.bindSet k) s = .next (settled s (endCmd k stOk 0 0 (twinFor k 8 [c.fld 17 0 5 * 2048 + c.fld 18 0 11, c.fld 24 0 64] []
      (changeBind (c.fld 17 0 5) (c.fld 18 0 11) (BitVec.ofNat 64 (c.fld 24 0 64)) (some k) (startCmd k s))))) := by
  refine (run_withCmd hc _).trans ?_
  simp only [hf, beq_eq_false_iff_ne.mpr hp, h1, ha, hn, Option.isSome_none, Bool.false_and, Bool.not_true, Bool.false_eq_true, if_false,
    one_ne_zero]

/-- The fields of a command rest on its descriptor alone. -/
theorem fld_congr (h : d.desc = c.desc) : d.fld = c.fld := by
  funext byte lo len
  rw [Cmd.fld, h, Cmd.fld]

theorem va_congr (h : d.desc = c.desc) : d.va = c.va := by
  funext byte
  rw [Cmd.va, fld_congr h, Cmd.va]

/-- A command whose ranges are ready goes on. -/
theorem whenReady_ok {l : List Span} (h : access c.key c.isle l (startCmd c.key s) = (.ok, u)) (go : State → State) :
    whenReady c l go s = go u := by
  simp only [whenReady, h]

/-- The epochs that an install takes, as the device tests them: with force one of the next 127, without it the next (R95). -/
theorem epochTaken_iff (force : Prop) [Decidable force] (n : Nat) :
    (if force then decide (1 ≤ n) && decide (n ≤ 127) else n == 1) = true ↔ if force then 1 ≤ n ∧ n ≤ 127 else n = 1 := by
  split <;> simp

/-- A map that can be read, has its check, parses and keeps its records is judged by its epoch alone. -/
theorem mapInstall_judged {m : CompMap} (hc : Runs s k 0x0F08 c) (hf : installFieldsOk c = true) (hm : s.emb.migration = none)
    (ha : access k 0 [⟨.load, false, c.va 16, c.fld 24 0 32⟩] (startCmd k s) = (.ok, u)) (hd : cmd? u k = some d) (he : d.desc = c.desc)
    (hv : vstatus u { d with isle := 0 } (c.va 16) (c.fld 24 0 32) = stOk)
    (hx : crc crc32c (vread u { d with isle := 0 } (c.va 16) (c.fld 24 0 32)) = c.fld 28 0 32)
    (ht : parseMap (vread u { d with isle := 0 } (c.va 16) (c.fld 24 0 32)) = some m) (hk : mapKeeps u.maps.cur m = true) :
    exec (.mapInstall k) s = .next (settled s (
      let dist := (m.epoch - u.maps.cur.epoch).toNat
      if (if c.fld 32 0 1 = 1 then 1 ≤ dist ∧ dist ≤ 127 else dist = 1) then
        installMap (!decide (c.fld 32 0 1 = 1)) m (endCmd k stOk m.epoch.toNat 0 u)
      else endStale k u)) := by
  have hkey := cmd?_key hc.2.1
  have hn : cmdNow u c = d := by simp only [cmdNow, hkey, hd, Option.getD_some]
  refine (run_withCmd hc _).trans ?_
  simp only [hf, hm, Option.isSome_none, Bool.not_true, Bool.false_eq_true, and_false, if_false]
  rw [whenReady_ok (c := { c with isle := 0 }) (u := u) (by simpa only [hkey] using ha)]
  simp only [hn, va_congr (d := { d with isle := 0 }) he, fld_congr (d := { d with isle := 0 }) he, hv, hx, ht, hk, bit_fld,
    bne_self_eq_false, ne_eq, not_true_eq_false, Bool.not_true, Bool.false_eq_true, if_false, decide_eq_true_eq, Bool.not_eq_true', ← Bool.not_eq_true, epochTaken_iff, ite_not]

/-- A retrain of an enabled port that is neither up nor training starts it over from DOWN with all lanes. -/
theorem portRetrain_down {p : Port} (hc : Runs s k 0x0F09 c) (hb : descArgBlock c.desc = false) (hz : c.zero 17 63 = true)
    (hn : c.fld 16 0 8 < 26) (hp : c.phase ≠ .running) (ho : port? s (c.fld 16 0 8) = some p) (he : p.enable = true) (hk : p.cmd = none)
    (h1 : p.state ≠ 1) (h2 : p.state ≠ 2) (h3 : p.state ≠ 3) :
    exec (.portRetrain k) s = .next (settled s
      (updPort (c.fld 16 0 8) (fun p => { p with state := 0, los := true, retired := 0, warm := false, fallback := false, suspended := true })
        (updPort (c.fld 16 0 8) (fun p => { p with attempts := 0, failures := 0, cmd := some k, txIdle := false, started := true })
          (startCmd k s)))) := by
  have hu : portUp (startCmd k s) (c.fld 16 0 8) = false := by
    have : NMap.get? (startCmd k s).links.ports (c.fld 16 0 8) = some p := ho
    simp [portUp, this, h2, h3]
  refine (run_withCmd hc _).trans ?_
  simp only [hb, hz, Nat.not_le.mpr hn, beq_eq_false_iff_ne.mpr hp, ho, he, hk, hu, h1, Bool.not_true, Bool.or_self, decide_false,
    Bool.false_eq_true, if_false]

end

/-- Settles O38: each command's branch for the premises. -/
theorem managementCommandsOfBindingsMapsAndUnits : Obligations.ManagementCommandsOfBindingsMapsAndUnits := by
  intro s u k c d
  refine ⟨?vf, bindSet_plain, ?evict, ?route, ?unit, ?map, fun p => portRetrain_down⟩
  case vf =>
    intro hc hf hp h0
    refine ⟨fun hv => (run_withCmd hc _).trans ?_, fun hv => (run_withCmd hc _).trans ?_⟩
    all_goals simp only [hf, beq_eq_false_iff_ne.mpr hp, h0, hv, Bool.not_true, Bool.false_eq_true, if_false, if_true]
  case evict =>
    intro i hc hb hz1 hz2 hz3 hz4 hn hp ha hca
    refine (run_withCmd hc _).trans ?_
    simp only [hb, hz1, hz2, hz3, hz4, Nat.not_le.mpr hn, beq_eq_false_iff_ne.mpr hp, ha, hca, Bool.not_true, Bool.or_self, decide_false,
      Bool.false_eq_true, if_false, if_true]
  case route =>
    intro hc hf
    refine (run_withCmd hc _).trans ?_
    simp only [hf, Bool.not_true, Bool.false_eq_true, if_false]
  case unit =>
    intro hc hb hz hu
    refine (run_withCmd hc _).trans ?_
    simp only [hb, hz, hu, Bool.not_true, Bool.or_self, Bool.false_eq_true, if_false]
  case map =>
    intro m hc hf hm ha hd he hv bs hx ht hk dist force
    rw [mapInstall_judged hc hf hm ha hd he hv hx ht hk]
    exact ⟨fun h => by rw [if_pos h], fun h => by rw [if_neg h]⟩

end Sys2Proof.Machine

/-! ## UNMAP of a range of pages (R133) -/

namespace Sys2Proof.Machine

section
variable {s : State} {k : CmdKey}

/-- A command's end touches neither the translation part nor the store. -/
theorem endCmd_trans_store (st a b : Nat) : (endCmd k st a b s).trans = s.trans ∧ (endCmd k st a b s).store = s.store := by
  unfold endCmd
  repeat' split
  all_goals exact ⟨rfl, rfl⟩

theorem endFree_trans_store (st : Nat) : (endFree k st s).trans = s.trans ∧ (endFree k st s).store = s.store :=
  endCmd_trans_store ..

/-- A withdrawal begun is one more in the list. -/
theorem startWd_count (cmd : Option CmdKey) (kind isle : Nat) (vpages windows : List Nat) (obj : Nat) :
    (startWd cmd kind isle vpages windows obj s).trans.withdrawals.length = s.trans.withdrawals.length + 1 :=
  List.length_append

variable {c : Cmd}

/-- UNMAP form 0 of a command that has not begun: the pages are judged first, then their pins, then the withdrawal starts. -/
theorem unmap_pages (hc : Runs s k 0x0403 c) (hp : c.phase ≠ .running) (hf : unmapFieldsOk c = true) (h0 : c.fld 16 0 1 = 0) :
    exec (.unmap k) s = .next (settled s (
      let vps := pagesOf (c.va 24) (c.fld 32 0 64)
      if vps.any (fun p => !mapped s c.isle p || withdrawing s c.isle p) then endFree k stNotMapped s
      else if vps.any (pinnedPage s c.isle) then endFree k stPermission s
      else startWd (some k) 0 c.isle vps [] 0 (startCmd k s))) := by
  refine (run_withCmd hc _).trans ?_
  simp only [beq_eq_false_iff_ne.mpr hp, hf, h0, Bool.not_true, Bool.false_eq_true, if_false, zero_ne_one]

end

/-- Settles O37: the pages are judged before anything is begun, and only a pin still stops a range that passes. -/
theorem unmapNeedsMappedPages : Obligations.UnmapNeedsMappedPages := by
  intro s k c hc hp hf h0 vps
  rw [unmap_pages hc hp hf h0]
  refine ⟨fun ⟨p, hm, hbad⟩ => ⟨?ends, ?keeps⟩, fun hok => ?judged⟩
  case ends =>
    have hany : vps.any (fun p => !mapped s c.isle p || withdrawing s c.isle p) = true :=
      List.any_eq_true.mpr ⟨p, hm, by simpa using hbad⟩
    dsimp only
    rw [if_pos hany]
  case keeps =>
    rw [settled_trans, settled_store]
    exact endFree_trans_store stNotMapped
  case judged =>
    have hany : vps.any (fun p => !mapped s c.isle p || withdrawing s c.isle p) = false :=
      any_false fun p hm => by simp [hok p hm]
    dsimp only
    rw [if_neg (ne_true_of_eq_false hany)]
    split
    · exact .inr rfl
    · exact .inl ⟨rfl, startWd_count ..⟩

end Sys2Proof.Machine

/-! ## One burst of COPY, FILL, CHECK and TILE_COPY (R146–R155, R674–R678) -/

namespace Sys2Proof.Machine

section
variable {s u : State} {k : CmdKey} {c d : Cmd} {fuel budget : Nat}

/-- The row of a command that may run, by what its body comes to. -/
theorem run_withCmd_eq {op : Nat} {f : Cmd → State → State} (hc : Runs s k op c) (h : f c s = u) :
    run (withCmd k op f) s = .next (settled s u) := by
  rw [run_withCmd hc, h]

/-- A command that may run, begun. -/
theorem cmd?_startCmd_of_runs {op : Nat} (hc : Runs s k op c) : cmd? (startCmd k s) k = some { c with phase := .running } :=
  cmd?_startCmd hc.2.1

/-! ### Out of bursts: the command ends, or waits for its next one -/

theorem copyLoop_spent (h : cmd? s k = some d) (he : d.desc = c.desc) :
    copyLoop k (fuel + 1) 0 s = if c.fld 32 0 64 ≤ d.done then endCmd64 k d.worst d.done s else s := by
  simp [copyLoop, h, fld_congr he]

theorem fillLoop_spent (h : cmd? s k = some d) (he : d.desc = c.desc) :
    fillLoop k (fuel + 1) 0 s = if c.fld 32 0 64 ≤ d.done then endCmd64 k d.worst d.done s else s := by
  simp [fillLoop, h, fld_congr he]

theorem checkLoop_spent (h : cmd? s k = some d) (he : d.desc = c.desc) :
    checkLoop k (fuel + 1) 0 s = if c.fld 32 0 64 ≤ d.done then checkEnd k d s else s := by
  simp [checkLoop, h, fld_congr he]

/-- A tile's rows, their bytes and their pitch rest on the descriptor alone. -/
theorem tile_congr (he : d.desc = c.desc) : tileRow d = tileRow c ∧ tileRows d = tileRows c ∧ tileDp d = tileDp c := by
  simp only [tileRow, tileRows, tileDp, fld_congr he, and_self]

theorem tileLoop_spent (h : cmd? s k = some d) (he : d.desc = c.desc) :
    tileLoop k (fuel + 1) 0 s = if tileRow c * tileRows c ≤ d.done then endCmd64 k d.worst d.done s else s := by
  simp [tileLoop, h, tile_congr he]

/-! ### A burst that is made -/

theorem copyLoop_burst (h : cmd? s k = some c) (hl : c.done < c.fld 32 0 64)
    (hb : budgetHolds s c [c.va 16 + c.done, c.va 24 + c.done] = false)
    (hm : copyBurst k c (c.va 16 + c.done) (c.va 24 + c.done) (burstLen (c.va 16 + c.done) (c.va 24 + c.done) (c.fld 32 0 64 - c.done))
      (coversPage (c.va 24) (c.fld 32 0 64) (c.va 24 + c.done)) s = (.ok, u)) :
    copyLoop k (fuel + 1) (budget + 1) s = copyLoop k fuel budget (spendBudget c [c.va 16 + c.done, c.va 24 + c.done] u) := by
  simp [copyLoop, h, Nat.not_le.mpr hl, hb, hm]

theorem fillLoop_burst (h : cmd? s k = some c) (hl : c.done < c.fld 32 0 64) (hb : budgetHolds s c [c.va 16 + c.done] = false)
    (hm : readyPiece k c.isle .dma true (coversPage (c.va 16) (c.fld 32 0 64) (c.va 16 + c.done)) (c.va 16 + c.done)
      (burstLen (c.va 16 + c.done) (c.va 16 + c.done) (c.fld 32 0 64 - c.done)) s = (.ok, u)) :
    fillLoop k (fuel + 1) (budget + 1) s =
      let dv := c.va 16 + c.done
      let n := burstLen dv dv (c.fld 32 0 64 - c.done)
      let w := vwrite k c.isle dv (patternBytes (c.fld 40 0 64) c.done n) u
      fillLoop k fuel budget (spendBudget c [dv] (progress k n (if w.1 then stPoison else stOk) (issue k [dv / pageSize] w.2))) := by
  simp [fillLoop, h, Nat.not_le.mpr hl, hb, hm]

theorem checkLoop_burst (h : cmd? s k = some c) (hl : c.done < c.fld 32 0 64) (hb : budgetHolds s c [c.va 24 + c.done] = false)
    (hm : readyPiece k c.isle .dma false false (c.va 24 + c.done)
      (burstLen (c.va 24 + c.done) (c.va 24 + c.done) (c.fld 32 0 64 - c.done)) s = (.ok, u))
    (hg : goodPrefix u (cmdNow u c) (c.va 24 + c.done) (burstLen (c.va 24 + c.done) (c.va 24 + c.done) (c.fld 32 0 64 - c.done)) = none) :
    checkLoop k (fuel + 1) (budget + 1) s =
      let va := c.va 24 + c.done
      let n := burstLen va va (c.fld 32 0 64 - c.done)
      let x := cmdNow u c
      let reg := crcRun (crcOfCode (x.fld 16 0 2)) (checkReg x) (vread u x va n)
      checkLoop k fuel budget (spendBudget x [va]
        (updCmd k (fun y => { y with done := y.done + n, aux := [stOk, reg] }) (issue k [va / pageSize] u))) := by
  simp [checkLoop, h, Nat.not_le.mpr hl, hb, hm, hg]

/-- The first burst of a tile goes from the first byte of its source to that of its destination. -/
theorem tileLoop_firstBurst (h : cmd? s k = some d) (he : d.desc = c.desc) (h0 : d.done = 0) (ht : 0 < tileRow c * tileRows c)
    (hb : budgetHolds s d [c.va 16, c.va 24] = false)
    (hm : copyBurst k d (c.va 16) (c.va 24) (burstLen (c.va 16) (c.va 24) (tileRow c))
      (tileRow c == tileDp c && coversPage (c.va 24) (tileRow c * tileRows c) (c.va 24)) s = (.ok, u)) :
    tileLoop k (fuel + 1) (budget + 1) s = tileLoop k fuel budget (spendBudget d [c.va 16, c.va 24] u) := by
  simp [tileLoop, h, h0, tile_congr he, va_congr he, Nat.pos_iff_ne_zero.mp ht, hb, hm]

/-- A well-formed tile has at least one byte. -/
theorem tile_nonempty (h : tileFieldsOk c = true) : 0 < tileRow c * tileRows c := by
  simp only [tileFieldsOk, Bool.and_eq_true, decide_eq_true_eq] at h
  exact Nat.mul_pos (by omega) (by omega)

end

/-- Settles O15: each row goes into its loop for one burst, which is made, and the loop then has none left. -/
theorem copyFillAndCheckTakeOneBurst : Obligations.CopyFillAndCheckTakeOneBurst := by
  intro s u k c r
  refine ⟨?copy, ?fill, ?check⟩
  case copy =>
    intro bad hc hf ho hl v sv dv hv hb hm d hd he
    refine run_withCmd_eq hc ?_
    simp only [hf, ho, Bool.not_true, Bool.or_self, Bool.false_eq_true, if_false]
    exact (copyLoop_burst hv hl hb hm).trans (copyLoop_spent hd he)
  case fill =>
    intro hc hf hl dv n hb hm w t d hd he
    refine run_withCmd_eq hc ?_
    simp only [hf, Bool.not_true, Bool.false_eq_true, if_false]
    exact (fillLoop_burst (cmd?_startCmd_of_runs hc) hl hb hm).trans (fillLoop_spent hd he)
  case check =>
    intro hc hf hres hl va n hb hm x hg reg t d hd he
    refine run_withCmd_eq hc ?_
    have hrec : (decide (c.phase = .ready) && c.va 56 != 0 && xlatRange s c.isle (c.va 56) 16 2 != stOk) = false := by
      simpa [and_assoc] using hres
    simp only [hf, hrec, Bool.not_true, Bool.false_eq_true, if_false]
    exact (checkLoop_burst (cmd?_startCmd_of_runs hc) hl hb hm hg).trans (checkLoop_spent hd he)

/-- Settles O16: the tile's page parts are judged before its loop, which then makes one burst from the tile's first byte. -/
theorem tileCopyTranslatesThenTakesOneBurst : Obligations.TileCopyTranslatesThenTakesOneBurst := by
  intro s u k c hc hf ho hp parts
  refine ⟨?fails, ?moves⟩
  case fails =>
    intro va st hx
    refine run_withCmd_eq hc ?_
    simp only [hf, ho, hp, show lowestPart (_ ++ _) = _ from hx, Bool.not_true, Bool.or_self, Bool.false_eq_true, if_false, if_true]
  case moves =>
    intro hnil t r hr he h0 hi hb hm d hd hde
    refine run_withCmd_eq hc ?_
    simp only [hf, ho, hp, show failingParts _ _ _ _ ++ _ = [] from hnil, lowestPart, Bool.not_true, Bool.or_self, Bool.false_eq_true,
      if_false, if_true]
    exact (tileLoop_firstBurst hr he h0 (tile_nonempty hf) hb hm).trans (tileLoop_spent hd hde)

end Sys2Proof.Machine

/-! ## ACQUIRE: the read of its flag and its timeout (R184–R187, R247, R248) -/

namespace Sys2Proof.Machine

section
variable {s u : State} {k : CmdKey} {c d : Cmd}

/-! ### A read of a flag -/

/-- The condition of an ACQUIRE on the value read. -/
theorem flagMeets_iff (cond flag value : Nat) :
    flagMeets cond flag value = true ↔ if cond = 0 then flag = value else value ≤ flag := by
  unfold flagMeets
  split <;> simp

/-- A flag that is reached and whose line reads without fault is handed on: what was forwarded for this read is used up, and the
command's wake-up with it. -/
theorem readFlag_ok {va : Nat} (ha : access c.key c.isle [⟨.load, false, va, 8⟩] s = (.ok, u))
    (hs : vstatus u (cmdNow u c) va 8 = stOk) (onFail go : Nat → State → State) :
    readFlag c va onFail go s = go (vnat u (cmdNow u c) va 8) (updCmd c.key (fun x => { x with fwd := [], pages := [] })
      { u with heddle := { u.heddle with wakeCmds := u.heddle.wakeCmds.filter (· != c.key) } }) := by
  simp [readFlag, ha, hs]

/-- An ACQUIRE that reads a good value ends with it where the condition holds, and otherwise keeps it and tries for an entry. -/
theorem acquireRead_ok (hk : c.key = k) (ha : access k c.isle [⟨.load, false, c.va 24, 8⟩] s = (.ok, u))
    (hs : vstatus u (cmdNow u c) (c.va 24) 8 = stOk) :
    acquireRead c s =
      let v := vnat u (cmdNow u c) (c.va 24) 8
      let w := updCmd k (fun x => { x with fwd := [], pages := [] })
        { u with heddle := { u.heddle with wakeCmds := u.heddle.wakeCmds.filter (· != k) } }
      if (if c.fld 17 0 1 = 0 then v = c.fld 32 0 64 else c.fld 32 0 64 ≤ v) then endCmd64 k stOk v w
      else takeEntry k c.isle (c.va 24) (updCmd k (fun x => { x with aux := [v] }) w) := by
  subst hk
  exact (readFlag_ok ha hs _ _).trans (if_congr (flagMeets_iff ..) rfl rfl)

/-! ### What stands under the key of a command that ended -/

@[simp] theorem cmd?_releaseEngines (j : CmdKey) : cmd? (releaseEngines k s) j = cmd? s j := rfl

/-- An end rewrites the command's status and counts or takes the command away: what is left under its key has its descriptor. -/
theorem endCmd_keeps_desc {st a b : Nat} (h : cmd? s k = some c) (hd : cmd? (endCmd k st a b s) k = some d) :
    d.desc = c.desc := by
  have hk : c.key = k := cmd?_key h
  have hrewritten (hx : cmd? (updCmd k (fun _ => c.endedWith st a b) (releaseEngines k s)) k = some d) : d.desc = c.desc := by
    rw [cmd?_updCmd _ k k (fun _ => c.endedWith st a b) fun _ _ => hk,
      if_pos rfl, cmd?_releaseEngines, h, Option.map_some, Option.some.injEq] at hx
    rw [← hx, Cmd.endedWith]
  simp only [endCmd, h] at hd
  split at hd
  case isTrue =>
    rw [h, Option.some.injEq] at hd
    rw [hd]
  case isFalse =>
    split at hd
    case h_1 => exact hrewritten hd
    case h_2 =>
      split at hd
      case isTrue =>
        rw [cmd?_dropCmd, if_pos rfl] at hd
        cases hd
      case isFalse => exact hrewritten hd

/-- A row for another opcode than that under the key changes nothing. -/
theorem withCmd_of_opcode_ne {op : Nat} (h : ∀ d, cmd? s k = some d → d.opcode ≠ op) (f : Cmd → State → State) :
    withCmd k op f s = s := by
  unfold withCmd
  split
  case h_1 => rfl
  case h_2 d hd => simp [h d hd]

end

/-- Settles O14: both rows come to the one read of the flag, and the command that a timeout ended is no chain at a GATHER. -/
theorem acquireReadsUntilItsConditionHolds : Obligations.AcquireReadsUntilItsConditionHolds := by
  intro s k c
  refine ⟨?dispatched, ?reread, ?timeout⟩
  case dispatched =>
    intro u hc hf hp ha hs
    refine run_withCmd_eq hc ?_
    simp only [hf, hp, Bool.not_true, Bool.false_eq_true, if_false, beq_self_eq_true, Bool.true_or, if_true]
    exact acquireRead_ok (cmd?_key hc.2.1) ha hs
  case reread =>
    intro u hc hp hw ha hs
    refine run_withCmd_eq hc ?_
    have hgo : (c.phase == .running && (!holdsEntry s k || s.heddle.wakeCmds.contains k)) = true := by simpa [hp] using hw
    rw [if_pos hgo]
    exact acquireRead_ok (cmd?_key hc.2.1) ha hs
  case timeout =>
    intro v l hc hp ht hv
    refine run_awake_eq hc.1 ?_
    rw [withCmd_runs hc]
    simp only [hp, hv, bne_iff_ne.mpr ht, beq_self_eq_true, Bool.and_self, if_true]
    obtain ⟨-, hk, hop, -⟩ := hc
    refine withCmd_of_opcode_ne (fun d hd => ?_) _
    have hd32 : d.opcode = 0x0032 := by rw [Cmd.opcode, endCmd_keeps_desc hk hd, ← hop, Cmd.opcode]
    rw [hd32]
    decide

end Sys2Proof.Machine

/-! ## Caching requests, snoop answers and lost agents (R202, R210–R212, R249, R255, R823) -/

namespace Sys2Proof.Machine

/-! ### What a grant leaves (R210, R243, R824) -/

/-- The state after a grant: the window of an agent that takes a copy is recorded, M wakes those that watch the line, and the twin is
told of the change. -/
def afterGrant (idx : Nat) (r : Req) (line : Nat) (before : List Nat) (g : Nat) (s : State) : State :=
  noteDir line before (accepted r (if g = grantM then wake line (if g = grantI then s else noteWindow idx r s)
    else if g = grantI then s else noteWindow idx r s))

theorem grantTo_grant (idx : Nat) (r : Req) (line : Nat) (before : List Nat) (g : Nat) (d : Line) (st : Nat) (s : State) :
    grantTo idx r line before (.grant g d st) s = (.done st [(d, st != stOk)] g 0, afterGrant idx r line before g s) := rfl

section
variable {s x : State} {r : Req} {idx line g st : Nat} {d : Line} {mayE : Bool}

theorem doShared_untracked : doShared idx r line false mayE s =
    (.done (lineStatus s line) [(readLine s line, lineStatus s line != stOk)] grantI 0, s) := rfl

theorem doShared_granted (h : hedRead (.ext idx) (.req r) r.fwd mayE line s = (.grant g d st, x)) :
    doShared idx r line true mayE s = (.done st [(d, st != stOk)] g 0, afterGrant idx r line (dirWords s line) g x) := by
  simp only [doShared, h, Bool.not_true, Bool.false_eq_true, if_false, grantTo_grant]

theorem doOwn_watched (hw : isWatched s line = true) :
    doOwn idx r line true s = (.done stOk [] grantWatched 0, accepted r s) := by
  simp only [doOwn, hw, Bool.not_true, Bool.false_eq_true, if_false, if_true]

/-- RD_OWN, and an UPGRADE of an agent that holds no copy: the grant carries the line. -/
theorem doOwn_granted (hw : isWatched s line = false) (hk : r.keep = false) (hu : r.kind = .upgrade → isHolder s idx line = false)
    (h : hedOwn idx (.req r) r.fwd line s = (.grant g d st, x)) :
    doOwn idx r line true s = (.done st [(d, st != stOk)] g 0, afterGrant idx r line (dirWords s line) g x) := by
  have hkeep : (decide (r.kind = .upgrade) && !txnOpen s line && isHolder s idx line) = false := by
    by_cases hr : r.kind = .upgrade
    · simp [hu hr]
    · simp [hr]
  have hr : { r with keep := false } = r := by rw [← hk]
  simp only [doOwn, hw, hk, hkeep, hr, h, Bool.not_true, Bool.or_false, Bool.false_and, Bool.false_eq_true, if_false, grantTo_grant]

/-- An UPGRADE of a recorded holder: the grant carries no data (R213). -/
theorem doOwn_upgraded (hw : isWatched s line = false) (hk : r.keep = false) (hu : r.kind = .upgrade) (ht : txnOpen s line = false)
    (hh : isHolder s idx line = true) (h : hedOwn idx (.req { r with keep := true }) r.fwd line s = (.grant g d st, x)) :
    doOwn idx r line true s =
      (.done (if g = grantM then stOk else st) [] g 0, afterGrant idx r line (dirWords s line) g x) := by
  have hkeep : (decide (r.kind = .upgrade) && !txnOpen s line && isHolder s idx line) = true := by simp [hu, ht, hh]
  simp only [doOwn, hw, hk, hkeep, h, Bool.not_true, Bool.or_true, Bool.false_and, Bool.false_eq_true, if_false, if_true, grantTo_grant]

end

/-! ### From the arrival of a caching request to its answer -/

section
variable {s v t x : State} {r : Req} {isle rights idx line g st : Nat} {l : List (Nat × Nat × Nat)} {a : Agent} {ls : List (Line × Bool)}
  {p : BitVec 128} {tracked : Bool}
  (ha : Arrives s r isle v) (hr : Reaches v (admitted r isle v) rights l t) (hg : agentOf t (admitted r isle v) = some (idx, a))
  (hw : secondWindow t idx a (admitted r isle v) = false) (hl : (linesUnder l).headD (0, false) = (line, tracked))
include ha hr hg hw hl

/-- An RD_SHARED that is reached is answered with what the directory gives its agent. -/
theorem requestIn_shared (hk : r.kind = .rdShared)
    (h : doShared idx (admitted r isle v) line tracked (bit rights 1 && l.all (fun p => eWrite p.2.2)) t = (.done st ls g p, x)) :
    requestIn r s = pumpAll (respond (admitted r isle v) t.twin.nextItem st ls g p x) := by
  refine requestIn_done (by simp [hk]) ha hr fun w ht hn => ?_
  have hk' : (admitted r isle v).kind = .rdShared := hk
  simp only [perform, ← ht, Nat.not_le.mpr hn, hl, hk', hg, hw, decide_false, Bool.false_and, Bool.false_eq_true, if_false, if_true, h]

/-- An RD_OWN or an UPGRADE that is reached is answered with what the directory gives its agent. -/
theorem requestIn_own (hk : r.kind = .rdOwn ∨ r.kind = .upgrade)
    (h : doOwn idx (admitted r isle v) line tracked t = (.done st ls g p, x)) :
    requestIn r s = pumpAll (respond (admitted r isle v) t.twin.nextItem st ls g p x) := by
  refine requestIn_done (by rcases hk with hk | hk <;> simp [hk]) ha hr fun w ht hn => ?_
  have hk' : (admitted r isle v).kind = .rdOwn ∨ (admitted r isle v).kind = .upgrade := hk
  rcases hk' with hk' | hk' <;>
    simp only [perform, ← ht, Nat.not_le.mpr hn, hl, hk', hg, hw, decide_false, Bool.false_and, Bool.false_eq_true, if_false, reduceCtorEq, h]

end

/-! ### DIRTY and WR_BACK (R202, R210, R212) -/

theorem doDirty_owner {s : State} {idx line : Nat} {d : DirEntry} (hd : dirGet s line = some d) (he : d.state = .extExcl) (ho : d.owner = idx) :
    doDirty idx line s = noteDir line (dirWords s line) (dirSet line { d with state := .extDirty } s) := by
  simp only [doDirty, hd, he, ho, and_self, if_true]

/-- The owner's write-back of a line without an open transaction: the line stands at memory and has no owner. -/
theorem doBack_owner {s : State} {idx line : Nat} {b : Line} {bad : Bool} {d : DirEntry} (hd : dirGet s line = some d)
    (he : d.state.ext = true) (ho : d.owner = idx) (ht : txnGet s line = none)
    (hn : txnGet (putOrFree line { delExt idx d with state := .shared, owner := 0 } (memLine line b bad s)) line = none) :
    doBack idx line b bad s = (true, noteDir line (dirWords s line)
      (putOrFree line { delExt idx d with state := .shared, owner := 0 } (memLine line b bad s))) := by
  simp only [doBack, hd, he, ho, ht, hn, and_self, if_true, Option.any_none, Bool.false_eq_true, if_false]

section
variable {s : State} {r : Req} {idx e base len line : Nat} {a : Agent}
  (hg : agentOf s r = some (idx, a)) (hw : a.window = some (bits r.hdr.addr.toNat 40 12, base, len))
  (he : entryOf s r.isle ((base + r.off) / pageSize) = some e) (hl : line = lineOf (eOff e + (base + r.off) % pageSize))
include hg hw he hl

theorem serveReport_dirty (hk : r.kind = .dirty) : serveReport r s = doDirty idx line s := by
  simp only [serveReport, hg, hw, if_true, he, hk, ← hl]

theorem serveReport_back (hk : r.kind = .wrBack) (ht : (takenOver s r [(base + r.off, 64, e)]).1 = stOk)
    (hp : withdrawing s r.isle ((base + r.off) / pageSize) = false) (hn : s.trans.withdrawals = []) {u : State}
    (hb : doBack idx line ((r.lines.headD { data := 0, check := 0 }).data) r.mismatch s = (true, u)) :
    serveReport r s = respond r s.twin.nextItem stOk [] 0 0 u := by
  simp only [serveReport, hg, hw, if_true, he, hk, ← hl, ht, hp, hn, List.any_nil, Bool.or_self, Bool.false_and, bne_self_eq_false,
    Bool.false_eq_true, if_false, reduceCtorEq, hb]

end

/-- A report that arrives is served as one, without a translation. -/
theorem requestIn_report {s v : State} {r : Req} {isle : Nat} (ha : Arrives s r isle v) (hk : r.kind = .dirty ∨ r.kind = .wrBack) :
    requestIn r s = pumpAll (serveReport (admitted r isle v) v) := by
  obtain ⟨-, -, -, -, -, -, -, -, -, -, hi⟩ := id ha
  have hi' : isleActive v (admitted r isle v).isle = true := hi
  have hk' : (admitted r isle v).kind = .dirty ∨ (admitted r isle v).kind = .wrBack := hk
  rw [requestIn_arrives ha, serve, hi', if_neg (by simp), if_pos hk']

/-! ### Snoops answered (R210, R211) -/

/-- An agent's answer takes it out of the open snoop; the last one closes it. -/
theorem answered_open {s : State} {line : Nat} {tx : Txn} (ht : txnGet s line = some tx) (y : Nat × Nat) (data : Option (Line × Bool)) :
    answered line y data s =
      let u := txnSet line { tx with pending := tx.pending.filter (· != y), data := if data.isSome then data else tx.data } s
      if tx.pending.filter (· != y) = [] then pumpAll (closeTxn line u) else u := by
  simp only [answered, ht]

section
variable {s v : State} {h : Hdr} {line idx tag : Nat} {a : Agent}
  (hr : receive h false s = (true, v)) (hs : snoopFor v h = some (line, idx, tag))
include hr hs

theorem snoopAnswer_ack : snoopAnswer h none s = answered line (idx, tag) none v := by
  simp only [snoopAnswer, hr, hs, Bool.not_true, Bool.false_eq_true, if_false]

theorem snoopAnswer_data (ha : NMap.get? v.heddle.agents idx = some a) (w : WireLine) : snoopAnswer h (some w) s =
    answered line (idx, tag) (some (w.data, wireCheck (snoopAddr v a line) w.data != w.check)) v := by
  simp only [snoopAnswer, hr, hs, ha, Bool.not_true, Bool.false_eq_true, if_false]

end

/-- Settles O55: caching requests go from their arrival to what the directory gives, reports to their line's entry, answers to their open
snoop; the times and sweeps are the rows' own branches. -/
theorem cachingRequestsAreGrantedAndSnoopsEnd : Obligations.CachingRequestsAreGrantedAndSnoopsEnd := by
  intro s v t x isle rights idx line l a mark
  refine ⟨?lasting, ?shared, ?own, ?upgrade, ?dirty, ?back, ?answer, ?timeout, ?swept⟩
  case lasting =>
    intro h hs hu hf
    refine run_awake_eq hs ?_
    simp [hu, hf]
  case shared =>
    intro h f hf hu hn hs r hv hr hg hw
    have hin : exec (.rdShared h f) s = .next (settled s (requestIn (newReq .rdShared h) (if f = .transient then countTransient s else s))) := by
      refine run_awake_eq hs ?_
      cases f
      case clean => rfl
      case transient => simp [hu, hn]
      case lasting => exact absurd rfl hf
    rw [hin]
    refine ⟨fun hl => ?_, fun g d st hl hd => ?_⟩
    · rw [requestIn_shared hv hr hg hw hl rfl doShared_untracked]
    · rw [requestIn_shared hv hr hg hw hl rfl (doShared_granted hd)]
      rfl
  case own =>
    intro h r hv hr hg hw hl
    refine ⟨fun hx => run_awake_eq hv.1 ?_, fun g d st hx hd => run_awake_eq hv.1 ?_⟩
    · exact requestIn_own hv hr hg hw hl (.inl rfl) (doOwn_watched hx)
    · exact requestIn_own hv hr hg hw hl (.inl rfl) (doOwn_granted hx rfl (fun hk => nomatch hk) hd)
  case upgrade =>
    intro h r hv hr hg hw hl hx ht
    refine ⟨fun g d st hh hd => run_awake_eq hv.1 ?_, fun g d st hh hd => run_awake_eq hv.1 ?_⟩
    · exact requestIn_own hv hr hg hw hl (.inr rfl) (doOwn_upgraded hx rfl rfl ht hh hd)
    · exact requestIn_own hv hr hg hw hl (.inr rfl) (doOwn_granted hx rfl (fun _ => hh) hd)
  case dirty =>
    intro h n e d base len r hv hg hw he hn hl hd hx ho
    refine run_awake_eq hv.1 ?_
    rw [requestIn_report hv (.inl rfl), serveReport_dirty hg hw he (hn ▸ hl) rfl, doDirty_owner hd hx ho]
  case back =>
    intro h w n e d base len r hv hg hw he hn hl ht hp hwd hd hx ho htx hno
    refine run_awake_eq hv.1 ?_
    obtain ⟨-, -, -, -, -, -, -, hm, -, -, -⟩ := id hv
    have hm' : r.mismatch = false := hm
    rw [requestIn_report hv (.inr rfl), serveReport_back hg hw he (hn ▸ hl) rfl ht hp hwd]
    rw [hm']
    exact doBack_owner hd hx ho htx hno
  case answer =>
    intro hs h tag tx hr hf ht rest last
    refine ⟨run_awake_eq hs ?_, fun hg w => run_awake_eq hs ?_⟩
    · exact (snoopAnswer_ack hr hf).trans (answered_open ht ..)
    · exact (snoopAnswer_data hr hf hg w).trans (answered_open ht ..)
  case timeout =>
    intro hs tx ht
    exact run_awake_eq hs (by simp only [ht])
  case swept =>
    intro hs hg hlost u b w next
    refine ⟨fun hb => run_awake_eq hs ?_, fun k c hb hc => run_awake_eq hs ?_⟩
    · simp only [b, u] at hb
      simp only [hg, hlost, hb, Bool.not_true, Bool.false_eq_true, if_false]
      rfl
    · have hc' : ((cmd? w k).any fun c => c.opcode == 0x0F0A) = decide (c.opcode = 0x0F0A) := by rw [hc]; rfl
      simp only [b, u, w] at hb hc'
      simp only [hg, hlost, hb, hc', Bool.not_true, Bool.false_eq_true, if_false, decide_eq_true_eq]
      rfl

end Sys2Proof.Machine

/-! ## Events held, posted and dropped (R353, R359, R360) -/

namespace Sys2Proof.Machine

/-- Settles O7: the two branches of raising an event. -/
theorem heldEventsAreAtMost1024 : Obligations.HeldEventsAreAtMost1024 := by
  intro e s
  refine ⟨fun h => if_pos h, fun h => ?_⟩
  have hr : raise e s = { s with bobbin := { s.bobbin with held := s.bobbin.held.tail ++ [e], dropped := s.bobbin.dropped + 1 } } := by
    rw [raise, if_neg (Nat.not_lt.mpr h), List.drop_one]
  refine ⟨hr, ?_⟩
  rw [hr, List.length_append, List.length_tail, List.length_singleton]
  omega

section
variable {s : State} {q : Nat} {c : Cq}

/-- An entry that is changed is found changed. -/
theorem NMap.get?_upd {α : Type} (m : NMap α) (k x : Nat) (f : α → α) :
    NMap.get? (NMap.upd m k f) x = if x = k then (NMap.get? m x).map f else NMap.get? m x := by
  induction m with
  | nil => simp [NMap.upd, NMap.get?]
  | cons p r ih =>
    by_cases hk : p.1 = k
    · by_cases hx : x = k
      · simp [NMap.upd, NMap.get?, hk, hx]
      · have hp : p.1 ≠ x := fun h => hx (h.symm.trans hk)
        rw [NMap.get?, if_neg hp, ← ih]
        simp [NMap.upd, NMap.get?, hk, Ne.symm hx]
    · by_cases hp : p.1 = x
      · subst hp; simp [NMap.upd, NMap.get?, hk]
      · rw [NMap.get?, if_neg hp, ← ih]
        simp [NMap.upd, NMap.get?, hk, hp]

/-- With no slot of the events ring to take, nothing is posted. -/
theorem postNext_of_not_postable (h : postable s = false) : postNext s = none := by
  unfold postable at h
  unfold postNext
  split
  · rfl
  · next hq =>
    rw [hq] at h
    simp_all

theorem flushEvents_of_not_postable (h : postable s = false) : flushEvents s = s := by
  rw [flushEvents, postEvents, postNext_of_not_postable h]

/-- A completion ring without MSI-X counts no record. -/
theorem countIrq_off (h : ∀ x, NMap.get? s.bobbin.cqs q = some x → x.msixEn = false) : countIrq q s = s := by
  unfold countIrq
  split
  · rfl
  · next hx => rw [h _ hx]; rfl

/-- An event's record on a ring without MSI-X: one write of the host's memory, and one record more written. -/
theorem postRecord_off (hq : NMap.get? s.bobbin.cqs q = some c) (hm : c.msixEn = false) (e : Event) :
    postRecord q c e s = updCq q (fun x => { x with written := x.written + 1 })
      (emit (.hostWrite c.fn (c.base + BitVec.ofNat 64 (c.written.toNat % 2 ^ c.log2 * 32))
        (recordBytes (e.code + 65536 * e.tagHigh) e.status (c.written.toNat % 65536)
          (recordFlags (recordPhase c.written.toNat c.log2) false true) e.unit e.source e.count0 e.count1 s.treadle.beat.toNat)) s) := by
  refine countIrq_off fun x hx => ?_
  have hu := NMap.get?_upd s.bobbin.cqs q q (fun x => { x with written := x.written + 1 })
  rw [if_pos rfl, hq] at hu
  cases hu.symm.trans hx
  exact hm

/-- Dropped events are posted as one EVENT_OVERFLOW record, before any held one. -/
theorem postNext_dropped (he : eventsCq s = some (q, c)) (hf : c.free = true) (hd : 0 < s.bobbin.dropped) :
    postNext s = some (postRecord q c (event evOverflow 0 0 (s.bobbin.dropped % 2 ^ 32) 0) { s with bobbin := { s.bobbin with dropped := 0 } }) := by
  simp only [postNext, he, hf, hd, Bool.not_true, Bool.false_eq_true, if_false, if_true]

/-- With none dropped, the oldest held event is posted. -/
theorem postNext_held (he : eventsCq s = some (q, c)) (hf : c.free = true) (hd : s.bobbin.dropped = 0) {e : Event} {r : List Event}
    (hh : s.bobbin.held = e :: r) : postNext s = some (postRecord q c e { s with bobbin := { s.bobbin with held := r } }) := by
  simp only [postNext, he, hf, hd, hh, Nat.lt_irrefl, Bool.not_true, Bool.false_eq_true, if_false]

end

/-- Settles O8: what is posted next is the overflow record or the oldest held event, each by one record. -/
theorem droppedEventsArePostedBeforeHeldOnes : Obligations.DroppedEventsArePostedBeforeHeldOnes := by
  intro s
  refine ⟨flushEvents_of_not_postable, fun q c he hf hm hq e h => ?_⟩
  rcases h with ⟨hd, rfl⟩ | ⟨hd, hh⟩
  case inl =>
    rw [postNext_dropped he hf hd, postRecord_off (s := { s with bobbin := { s.bobbin with dropped := 0 } }) hq hm, if_pos hd]
    rfl
  case inr =>
    obtain ⟨r, hr⟩ := List.head?_eq_some_iff.mp hh
    rw [postNext_held he hf hd hr, postRecord_off (s := { s with bobbin := { s.bobbin with held := r } }) hq hm,
      if_neg (Nat.not_lt.mpr (Nat.le_of_eq hd)), hr, ← hd]
    rfl

end Sys2Proof.Machine

/-! ## The bytes of a completion record (R3, R353) -/

namespace Sys2Proof.Machine

@[simp] theorem length_leBytes (n k : Nat) : (leBytes n k).length = k := by
  induction k generalizing n with
  | zero => rfl
  | succ k ih => rw [leBytes, List.length_cons, ih]

/-- Bytes written lowest first read back as the number they were made of, modulo their width. -/
theorem leVal_leBytes (n k : Nat) : leVal (leBytes n k) = n % 256 ^ k := by
  induction k generalizing n with
  | zero => exact (Nat.mod_one n).symm
  | succ k ih =>
    rw [leBytes, leVal, ih, BitVec.toNat_ofNat, Nat.shiftRight_eq_div_pow, pow_succ' 256 k]
    exact Nat.mod_mul.symm

/-- The field that stands first in a string is read back. -/
theorem field_first (n k : Nat) (r : List Byte) : field (leBytes n k ++ r) 0 k = n % 256 ^ k := by
  rw [field, List.drop_zero, List.take_left' (length_leBytes n k), leVal_leBytes]

/-- A field that stands behind the first is a field of the rest. -/
theorem field_behind {k off : Nat} (h : k ≤ off) (n len : Nat) (r : List Byte) : field (leBytes n k ++ r) off len = field r (off - k) len := by
  rw [field, field, List.drop_append, List.drop_eq_nil_of_le (by rwa [length_leBytes]), length_leBytes, List.nil_append]

/-- Settles O9: each field is passed over or read back where the record's bytes are written, the check after the first 28. -/
theorem completionRecordLayout : Obligations.CompletionRecordLayout := by
  intro tag status alive flags unit source c0 c1 beat htag hstatus halive hflags hunit hsource hc0 hc1 hbeat b
  refine ⟨by simp [b, recordBytes], ?_, ?_, ?_, ?_, ?_, ?_, ?_, ?_, ?_, ?_, ?check⟩
  case check =>
    dsimp only [b, recordBytes]
    rw [List.drop_left' (by simp), List.take_left' (by simp)]
  all_goals simp only [b, recordBytes, List.append_assoc, field_behind, field_first, Nat.reduceLeDiff, Nat.reduceSub]
  all_goals omega

end Sys2Proof.Machine

/-! ## The seal without a management ring (R361) -/

namespace Sys2Proof.Machine

/-- Fields of a register word that start above bit `w` leave the bits below it alone. -/
theorem pack_mod {v w : Nat} {l : List (Nat × Nat)} (h : ∀ x ∈ l, w ≤ x.2) : pack ((v, 0) :: l) % 2 ^ w = v % 2 ^ w := by
  have above (n : Nat) : l.foldl (fun n x => n + x.1 * 2 ^ x.2) n % 2 ^ w = n % 2 ^ w := by
    induction l generalizing n with
    | nil => rfl
    | cons x l ih =>
      obtain ⟨d, hd⟩ := Nat.pow_dvd_pow 2 (h x (List.mem_cons_self ..))
      rw [List.foldl_cons, ih fun y hy => h y (List.mem_cons_of_mem _ hy), hd, Nat.mul_left_comm, Nat.add_mul_mod_self_left]
  rw [pack, List.foldl_cons, above, Nat.pow_zero, Nat.mul_one, Nat.zero_add]

section
variable {s : State}

/-- Without an ACTIVE management ring the first of the seal's checks fails. -/
theorem sealCause_no_management (h : ∀ q ∈ s.bobbin.sqs, ¬ (q.2.management = true ∧ q.2.active = true)) : sealCause s = 1 := by
  have hn : s.bobbin.sqs.any (fun q => q.2.management && q.2.active) = false :=
    any_false fun q m => Bool.eq_false_iff.mpr fun e => h q m (Bool.and_eq_true_iff.mp e)
  rw [sealCause, hn]
  rfl

/-- A seal write that a check refuses counts the refusal and records its cause. -/
theorem writeSeal_refused {v : BitVec 32} (hv : v.getLsbD 0 = true) (hs : s.harbour.sealed = false) (hc : sealCause s ≠ 0) :
    writeSeal v s = { s with harbour := { s.harbour with sealRefusals := satInc s.harbour.sealRefusals 255, lastCause := sealCause s } } := by
  simp only [writeSeal, hv, hs, hc, Bool.not_true, Bool.or_self, Bool.false_eq_true, if_false]

/-- A word written to HBR_SEAL's place of BAR0 is a seal write. -/
theorem writeBar0_seal (v : BitVec 32) : writeBar0 0 4 ((v.setWidth 64).toNat % 2 ^ 32) s = writeSeal v s := by
  have hv : BitVec.ofNat 32 ((v.setWidth 64).toNat % 2 ^ 32) = v := by bv_omega
  have hw : writeBar0 0 4 ((v.setWidth 64).toNat % 2 ^ 32) s = writeSeal (BitVec.ofNat 32 ((v.setWidth 64).toNat % 2 ^ 32)) s := rfl
  rw [hw, hv]

/-- The low byte of HBR_SETUP_STATUS is the count of refused seals. -/
theorem readReg_setupStatus_low (h : s.harbour.sealRefusals < 256) : readReg s 0x8 % 2 ^ 8 = s.harbour.sealRefusals := by
  have hr : readReg s 0x8 = pack [(s.harbour.sealRefusals, 0), (s.harbour.lastCause, 8), (s.harbour.badAccess, 16),
    (s.harbour.refusedWrites, 24)] := rfl
  rw [hr, pack_mod (by simp)]
  exact Nat.mod_eq_of_lt h

end

/-- Settles O46: the seal's first check refuses the write, by either way in. -/
theorem sealNeedsAManagementRing : Obligations.SealNeedsAManagementRing := by
  intro s v ha hs hv hm t
  have hw : writeSeal v s = t := by
    have hc := sealCause_no_management hm
    rw [writeSeal_refused hv hs (by rw [hc]; exact Nat.one_ne_zero), hc]
    rfl
  refine ⟨run_awake_eq ha hw, ?_, hs, fun hl => ?_⟩
  · rw [registerWrite_word ha _ rfl, writeBar0_seal, hw]
  · have ht : t.harbour.sealRefusals = s.harbour.sealRefusals + 1 := if_pos hl
    rw [readReg_setupStatus_low (by omega), readReg_setupStatus_low (by omega), ht]

end Sys2Proof.Machine

/-! ## NOP, FENCE and RELEASE (R180–R183, R331) -/

namespace Sys2Proof.Machine

section
variable {s u v : State} {k : CmdKey} {c : Cmd}

/-- A fence's condition, by its scope. -/
theorem fenceDone_iff : fenceDone s c = true ↔
    if c.fld 16 0 2 = 1 then ∀ x ∈ earlier s c.key, x.phase = .ended else earlier s c.key = [] := by
  unfold fenceDone
  split <;> simp

end

/-- Settles O13: each command's branch for its premises. -/
theorem nopFenceAndRelease : Obligations.NopFenceAndRelease := by
  intro s k c
  refine ⟨fun hc hb hz => run_withCmd_eq hc ?_, fun hc hf => run_withCmd_eq hc ?_, fun hc hp hd => run_withCmd_eq hc ?_,
    fun u v hc hf hd ha hw => run_withCmd_eq hc ?_⟩
  · simp [hb, hz]
  · simp only [hf, Bool.not_true, Bool.false_eq_true, if_false]
    rfl
  · have hdone : fenceDone s c = true := fenceDone_iff.mpr (by
      rcases hd with ⟨h1, he⟩ | ⟨h1, he⟩
      · rwa [if_pos h1]
      · rwa [if_neg h1])
    simp [hp, hdone]
  · have hk := cmd?_key hc.2.1
    simp only [hf, hd, Bool.not_true, Bool.false_eq_true, if_false]
    rw [whenReady_ok (u := u) (by rwa [hk]), hw]
    rfl

end Sys2Proof.Machine

/-! ## Rings created and destroyed (R316–R326) -/

namespace Sys2Proof.Machine

/-- The isle of a setup record stands in its first 14 bits. -/
theorem rf_isle (r : Rec) : rf r 0 0 14 = r % 2 ^ 14 := by
  simp [rf, bits]

/-- Settles O40: a record or a destroy is judged by its status first, and the rest of the row follows. -/
theorem ringsAreCreatedAndDestroyed : Obligations.RingsAreCreatedAndDestroyed := by
  intro s u
  refine ⟨?create, ?destroy, ?setup, ?setupDestroy⟩
  case create =>
    intro k c hc ha hz
    dsimp only
    refine ⟨fun hs hd => run_withCmd_eq hc ?_, fun hs => run_withCmd_eq hc ?_⟩
    · simp only [ha, hz, rf_isle, hs, hd, Bool.and_self, Bool.not_true, bne_self_eq_false, Bool.false_eq_true, if_false]
    · simp only [ha, hz, rf_isle, bne_iff_ne.mpr hs, Bool.and_self, Bool.not_true, Bool.false_eq_true, if_false, if_true]
  case destroy =>
    intro k c hc hp hb h1 h2
    have hw : (!descArgBlock c.desc && c.rz 16 12 4 && c.zero 18 63) = true := by rw [hb, h1, h2]; rfl
    refine ⟨fun hd => run_withCmd_eq hc ?_, fun st hd => run_withCmd_eq hc ?_⟩
    all_goals simp only [hp, hw, hd, Bool.not_true, Bool.false_eq_true, if_false]
  case setup =>
    intro fn f isle ha hs hn hf hi
    refine ⟨fun hst hd => run_awake_eq ha ?_, fun hst => run_awake_eq ha ?_⟩
    · simp only [setupCreate, hs, hn, hf, hi, hst, hd, Option.getD_some, Option.isSome_some, Bool.not_true, Bool.or_self, Bool.false_eq_true,
        bne_self_eq_false, if_false]
      rfl
    · simp only [setupCreate, hs, hn, hf, hi, Option.getD_some, Option.isSome_some, Bool.not_true, Bool.or_self, Bool.false_eq_true,
        bne_iff_ne.mpr hst, if_false, if_true]
      rfl
  case setupDestroy =>
    intro fn f sq ha hs hf hb
    refine ⟨fun hd => run_awake_eq ha ?_, fun st hd => run_awake_eq ha ?_⟩
    · simp only [setupDestroy, hs, hf, hb, hd, Option.any_some, Bool.not_true, Bool.or_self, Bool.false_eq_true, if_false]
    · simp only [setupDestroy, hs, hf, hb, hd, Option.any_some, Bool.not_true, Bool.or_self, Bool.false_eq_true, if_false]
      rfl

end Sys2Proof.Machine

/-! ## Doorbells taken and descriptors fetched (R337–R350) -/

namespace Sys2Proof.Machine

section
variable {s u : State} {k : CmdKey} {c : Cmd} {q : Sq} {fn : Nat} {line : BitVec 64} {d : Nat}

/-! ### Polls and wake-ups (R337, R339, R340) -/

/-- A line that a live doorbell uses is polled at once, or waits as a late poll while 64 reads are out. -/
theorem doorbellPoll_live (ha : awake s = true)
    (hl : s.bobbin.sqs.any (fun q => sqOnLine fn line q.2) = true ∨ s.bobbin.cqs.any (fun q => cqOnLine fn line q.2) = true)
    (hf : s.twin.state ≠ .fenced) (hb : ∃ f, NMap.get? s.bobbin.fns fn = some f ∧ f.bme = true) :
    exec (.doorbellPoll fn line) s = .next (settled s
      (if s.bobbin.polls.length < 64 then
        emit (.hostRead fn line 64) { s with bobbin := { s.bobbin with polls := s.bobbin.polls ++ [(fn, line)] } }
      else { s with bobbin := { s.bobbin with pollQueue := s.bobbin.pollQueue ++ [(fn, line)], latePolls := s.bobbin.latePolls + 1 } })) := by
  obtain ⟨f, hf', hm⟩ := hb
  have hl' := Bool.or_eq_true_iff.mpr hl
  refine run_awake_eq ha ?_
  simp only [hl', hf, hf', hm, Option.any_some, Bool.not_true, Bool.or_false, decide_false, Bool.false_eq_true, if_false]

section
variable (ha : awake s = true) (hp : s.bobbin.polls.contains (fn, line) = true) (hq : s.bobbin.pollQueue = [])
include ha hp hq

/-- A poll in flight returns with no other waiting: its line is taken. -/
theorem doorbellPollReturn_data (bs : List Byte) :
    exec (.doorbellPollReturn fn line (.data bs)) s = .next (settled s (takeLine (sqOnLine fn line) (cqOnLine fn line) bs
      { s with bobbin := { s.bobbin with polls := removeOne (fn, line) s.bobbin.polls } })) := by
  refine run_awake_eq ha ?_
  simp only [hp, hq, Bool.not_true, Bool.false_eq_true, if_false]

/-- A poll in flight that the host refuses stops the rings of its line. -/
theorem doorbellPollReturn_refused :
    exec (.doorbellPollReturn fn line .refused) s = .next (settled s
      (((s.bobbin.sqs.filter (fun q => sqOnLine fn line q.2 && !q.2.destroying)).map (·.1)).foldl (fun s sq => sqError sq stPermission s)
        { s with bobbin := { s.bobbin with polls := removeOne (fn, line) s.bobbin.polls } })) := by
  refine run_awake_eq ha ?_
  simp only [hp, hq, Bool.not_true, Bool.false_eq_true, if_false, readStatus, Option.getD_some]

end

/-- A woken line that reads without fault and that no line cache holds dirty is taken from the store. -/
theorem watchedWakeup_clean (ha : awake s = true) {off : Nat} (hw : s.heddle.wakeups.contains off = true) (hs : lineStatus s off = stOk)
    (hc : cacheDirty s off = none) :
    let on := fun (dbHost : Bool) (isle : Nat) (line : BitVec 64) => !dbHost && offOf s isle (line.toNat / 64 * 64) == some off
    exec (.watchedWakeup off) s = .next (settled s (takeLine (fun q => on q.dbHost q.isle q.dbLine) (fun q => on q.dbHost q.isle q.dbLine)
      (leBytes (readLine s off).toNat 64) { s with heddle := { s.heddle with wakeups := s.heddle.wakeups.filter (· != off) } })) := by
  intro on
  refine run_awake_eq ha ?_
  have hs' : lineStatus { s with heddle := { s.heddle with wakeups := s.heddle.wakeups.filter (· != off) } } off = stOk := hs
  have hc' : cacheDirty { s with heddle := { s.heddle with wakeups := s.heddle.wakeups.filter (· != off) } } off = none := hc
  simp only [hw, hs', hc', Bool.not_true, bne_self_eq_false, Bool.false_eq_true, if_false]
  rfl

/-! ### Fetch (R345, R716) -/

/-- What fetching from ring `sq` comes to, once the look at its context is done: up to 8 descriptors enter flight, and a host ring's are
read in one read. -/
def serveRing (sq : Nat) (s : State) : State :=
  match NMap.get? s.bobbin.sqs sq with
  | none => s
  | some q =>
    let u := fetchRun sq 8 { s with bobbin := { s.bobbin with lastServed := sq } }
    let n := match NMap.get? u.bobbin.sqs sq with | some q' => seqDist q'.fetched q.fetched | none => 0
    if q.host then emit (.hostRead q.fn (q.base + BitVec.ofNat 64 (q.fetched.toNat % 2 ^ q.log2 * 64)) (64 * n)) (noteRing sq u)
    else noteRing sq u

/-- The next ring is served where its context can be read, a transient fault counted first. -/
theorem descriptorFetch_served (ha : awake s = true) {sq : Nat} {f : Media} (hf : f ≠ .lasting) (hn : nextRing s = some sq) :
    exec (.descriptorFetch f) s = .next (settled s (serveRing sq (if f = Media.transient then countTransient s else s))) := by
  refine run_awake_eq ha ?_
  cases f with
  | lasting => exact absurd rfl hf
  | clean => simp only [hn]; rfl
  | transient => simp only [hn]; rfl

/-- A host ring that is served is read from the first descriptor not yet fetched. -/
theorem serveRing_host {sq : Nat} {q' : Sq} (hq : NMap.get? s.bobbin.sqs sq = some q) (hh : q.host = true)
    (hu : NMap.get? (fetchRun sq 8 { s with bobbin := { s.bobbin with lastServed := sq } }).bobbin.sqs sq = some q') :
    serveRing sq s = emit (.hostRead q.fn (q.base + BitVec.ofNat 64 (q.fetched.toNat % 2 ^ q.log2 * 64)) (64 * (q'.fetched - q.fetched).toNat))
      (noteRing sq (fetchRun sq 8 { s with bobbin := { s.bobbin with lastServed := sq } })) := by
  simp only [serveRing, hq, hh, hu, if_true, seqDist]

/-- A lasting fault in the next ring's context fences the device. -/
theorem descriptorFetch_lasting (ha : awake s = true) {sq : Nat} (hn : nextRing s = some sq) :
    exec (.descriptorFetch .lasting) s = .next (settled s (fenceFault 3 s)) := by
  refine run_awake_eq ha ?_
  simp only [hn]
  rfl

/-! ### Arrival (R346–R349) -/

/-- Checks 3 to 8 passed without an argument block: the descriptor is dispatched. -/
theorem checkRest_plain (h1 : bits d 20 12 = 0) (h2 : bits d 80 16 = 0) (h3 : assignedOps.contains (bits d 0 16) = true)
    (h4 : bits d 0 16 < 0x0F00 ∨ q.management = true) (h5 : isleActive s q.isle = true) (h6 : descScheduled d = pickRing s k.sq)
    (h7 : argRefOk q d = true) (h8 : descArgBlock d = false) (arg : HostRead) (reread : Bool) :
    checkRest k q d arg reread s = dispatchCmd k d [] reread s := by
  have h4' : (decide (0x0F00 ≤ bits d 0 16) && !q.management) = false := by
    rcases h4 with h | h
    · simp [Nat.not_le.mpr h]
    · simp [h]
  simp only [checkRest, h1, h2, h3, h4', h5, h6, h7, h8, bne_self_eq_false, Bool.or_self, Bool.not_true,
    Bool.not_false, Bool.and_not_self, Bool.not_and_self, Bool.false_eq_true, if_false, if_true]

section
variable (hc : cmd? s k = some c) (hl : c.lead = none) (h0 : c.desc = 0) (hq : sqOf s k = some q) (hh : q.host = true) {bs : List Byte}
  (hb : bs.length = 64) {reread : Bool} (hp : c.phase = if reread then .rereading else .fetching)
include hc hl h0 hq hh hb hp

/-- The 64 bytes of a host descriptor arrive: its check, then its alive value, then the rest are looked at. -/
theorem arrive_host (arg : HostRead) :
    arrive k (.data bs) arg reread s =
      (let u := updCmd k (fun c => { c with desc := leVal bs, pages := [], fwd := [] }) s
       let bad := fun (st : Nat) (s : State) =>
         if reread then endCmd k st k.seq.toNat (Config.freeWord s.free).toNat (nextFree s) else readAgain k q s
       if crc crc32c (splice bs 12 [0, 0, 0, 0]) ≠ field bs 12 4 then bad stCheckMismatch u
       else if field bs 8 2 ≠ k.seq.toNat % 65536 then bad stAliveMismatch u
       else checkRest k q (leVal bs) arg reread u) := by
  have hp' : (c.phase != (if reread then Phase.rereading else Phase.fetching)) = false := bne_eq_false_iff_eq.mpr hp
  simp only [arrive, hc, hq, hl, h0, hh, hp', hostBytes, hb, Option.isSome_none, Bool.or_self, ne_eq,
    not_true_eq_false, Bool.false_eq_true, if_false, if_true]

end

end

/-- Settles O42: the row of each doorbell, fetch and arrival, by the branch that the premises choose. -/
theorem doorbellsAreTakenAndDescriptorsFetched : Obligations.DoorbellsAreTakenAndDescriptorsFetched := by
  intro s ha
  refine ⟨fun fn line => ⟨?poll, ?pollReturn⟩, ?wakeup, ?fetch, ?arrival, ?timeout⟩
  case poll =>
    intro hl hf hb
    rw [doorbellPoll_live ha hl hf hb]
    exact ⟨fun h => by rw [if_pos h]; rfl, fun h => by rw [if_neg (Nat.not_lt.mpr h)]⟩
  case pollReturn =>
    intro hp hq u
    exact ⟨doorbellPollReturn_data ha hp hq, doorbellPollReturn_refused ha hp hq⟩
  case wakeup => exact fun off hw hs hc => watchedWakeup_clean ha hw hs hc
  case fetch =>
    intro sq q q' f hf hn hq hh c u hu
    refine ⟨(descriptorFetch_served ha hf hn).trans ?_, descriptorFetch_lasting ha hn⟩
    have hcb : c.bobbin = s.bobbin := by
      simp only [c]
      split <;> rfl
    have hs := serveRing_host (s := c) (q' := q') (hcb ▸ hq) hh (by rw [hcb]; exact hu)
    rw [hcb] at hs
    rw [hs]
  case arrival =>
    intro k c q bs hc hl h0 hq hh hb u d
    refine ⟨fun hcrc halive h1 h2 h3 h4 h5 h6 h7 h8 => ?good, fun hcrc => ⟨fun hp => run_awake_eq ha ?_, fun hp => run_awake_eq ha ?_⟩⟩
    case good =>
      have dispatched (reread : Bool) (hp : c.phase = if reread then .rereading else .fetching) :
          arrive k (.data bs) .refused reread s = dispatchCmd k d [] reread u := by
        rw [arrive_host hc hl h0 hq hh hb hp, if_neg (not_not.mpr hcrc), if_neg (not_not.mpr halive)]
        exact checkRest_plain h1 h2 h3 h4 h5 h6 h7 h8 _ _
      exact ⟨fun hp => run_awake_eq ha (dispatched false hp), fun hp => run_awake_eq ha (dispatched true hp)⟩
    · rw [arrive_host (reread := false) hc hl h0 hq hh hb hp, if_pos hcrc]
      rfl
    · rw [arrive_host (reread := true) hc hl h0 hq hh hb hp, if_pos hcrc]
      rfl
  case timeout =>
    intro k c q hc hl hq hh hp
    have hp' : (c.phase == .fetching || c.phase == .rereading) = true := by simpa using hp
    refine ⟨fun h0 => run_awake_eq ha ?_, fun h0 hr => run_awake_eq ha ?_⟩
    · simp only [hc, hq, hl, hh, hp', h0, Option.isSome_none, Bool.not_true, Bool.or_self, Bool.false_eq_true, if_false, if_true]
    · simp only [hc, hq, hl, hh, hp', h0, hr, Option.isSome_none, Bool.not_true, Bool.or_self, Bool.false_eq_true, if_false, if_true,
        ne_eq, not_false_eq_true, and_self]

end Sys2Proof.Machine

/-! ## What a beat boundary leaves as it is (R363, R368, R370) -/

namespace Sys2Proof.Machine

/-- The parts of the device that no plan, pick or marker of a beat boundary changes: the store, the isles, the device's own condition
and the beat's number. -/
def beatFrame (s : State) : Store × NMap Isle × Pool × BitVec 48 := (s.store, s.isles, s.pool, s.treadle.beat)

section
variable (s : State) (k : CmdKey) (h : Nat)

/-- A loop of passes that keep the frame keeps it. -/
theorem foldl_beatFrame {α : Type} {f : State → α → State} (hf : ∀ s a, beatFrame (f s a) = beatFrame s) (l : List α) :
    beatFrame (l.foldl f s) = beatFrame s := by
  induction l generalizing s with
  | nil => rfl
  | cons a l ih => rw [List.foldl_cons, ih, hf]

/-! ### Commands, events and messages -/

@[simp] theorem emit_beatFrame (o : Out) : beatFrame (emit o s) = beatFrame s := rfl
@[simp] theorem updCmd_beatFrame (f : Cmd → Cmd) : beatFrame (updCmd k f s) = beatFrame s := rfl
@[simp] theorem updPlan_beatFrame (f : Plan → Plan) : beatFrame (updPlan h f s) = beatFrame s := rfl

@[simp] theorem raise_beatFrame (e : Event) : beatFrame (raise e s) = beatFrame s := by
  rw [raise_eventsOnly e s]; rfl

@[simp] theorem endCmd_beatFrame (st a b : Nat) : beatFrame (endCmd k st a b s) = beatFrame s := by
  unfold endCmd
  split
  · rfl
  · split
    · rfl
    · dsimp only
      split
      · rfl
      · split <;> rfl

@[simp] theorem endFree_beatFrame (st : Nat) : beatFrame (endFree k st s) = beatFrame s := endCmd_beatFrame ..
@[simp] theorem badDesc_beatFrame : beatFrame (badDesc k s) = beatFrame s := endFree_beatFrame ..
@[simp] theorem admitRefused_beatFrame (reason pick resource beat : Nat) :
    beatFrame (admitRefused k reason pick resource beat s) = beatFrame s := endCmd_beatFrame ..

@[simp] theorem sendManage_beatFrame (dst : Nat) (op : Mgmt) (words : List Nat) :
    beatFrame (sendManage dst op words s) = beatFrame s := by
  unfold sendManage; split <;> rfl

@[simp] theorem twinNote_beatFrame (kind : Nat) (words : List Nat) (bytes : List Byte) :
    beatFrame (twinNote kind words bytes s) = beatFrame s := by
  unfold twinNote; split <;> rfl

/-! ### Plans -/

@[simp] theorem notePlan_beatFrame : beatFrame (notePlan h s) = beatFrame s := by
  unfold notePlan
  split
  · rfl
  · split <;> simp

@[simp] theorem dropPlan_beatFrame : beatFrame (dropPlan h s) = beatFrame s := notePlan_beatFrame ..

@[simp] theorem pausePlan_beatFrame (reason cause : Nat) : beatFrame (pausePlan reason cause h s) = beatFrame s := by
  unfold pausePlan
  split
  · rfl
  · dsimp only
    split <;> simp

@[simp] theorem turnPlan_beatFrame : beatFrame (turnPlan s h) = beatFrame s := by
  unfold turnPlan
  split
  · rfl
  · dsimp only
    split <;> split <;> simp [apply_ite beatFrame]

@[simp] theorem releasePick_beatFrame (p : Plan) (x : Nat × Pick) : beatFrame (releasePick h p s x) = beatFrame s := by
  unfold releasePick
  split
  · rfl
  · split <;> simp

@[simp] theorem releasePicks_beatFrame : beatFrame (releasePicks s h) = beatFrame s := by
  unfold releasePicks
  split
  · rfl
  · split
    · rfl
    · exact foldl_beatFrame _ (fun s x => releasePick_beatFrame s h _ x) _

@[simp] theorem settlePlan_beatFrame : beatFrame (settlePlan h s) = beatFrame s := by
  have told (l : List Nat) (w : List Nat) (s : State) : beatFrame (l.foldl (fun s d => sendManage d .planAck w s) s) = beatFrame s :=
    foldl_beatFrame s (fun s d => sendManage_beatFrame s d _ w) l
  have ended (l : List Cmd) (st : Nat) (s : State) : beatFrame (l.foldl (fun s c => endFree c.key st s) s) = beatFrame s :=
    foldl_beatFrame s (fun s c => endFree_beatFrame s c.key st) l
  unfold settlePlan
  split
  · rfl
  · dsimp only
    repeat' split
    all_goals simp [told, ended]

theorem settlePlans_beatFrame : beatFrame (settlePlans s) = beatFrame s := foldl_beatFrame s settlePlan_beatFrame _

theorem reloadBudgets_beatFrame : beatFrame (reloadBudgets s) = beatFrame s := rfl

theorem sendMarkers_beatFrame : beatFrame (sendMarkers s) = beatFrame s := by
  unfold sendMarkers
  refine (foldl_beatFrame _ (fun s p => emit_beatFrame s _) _).trans ?_
  split
  · exact foldl_beatFrame _ (fun s p => emit_beatFrame s _) _
  · rfl

end

/-! ### The boundary -/

/-- The beat advances: one more beat without a marker, unless the device is root, and one more without the partner's heartbeat. -/
def nextBeat (slack : Int) (s : State) : State :=
  { s with
    treadle := { s.treadle with beat := s.treadle.beat + 1, slack := BitVec.ofInt 16 slack,
                                sinceMarker := if s.treadle.root then 0 else s.treadle.sinceMarker + 1 }
    twin := { s.twin with silent := s.twin.silent + 1 } }

/-- The plans held at a boundary take their turns, then release their picks. -/
def turnPlans (s : State) : State :=
  let keys := s.treadle.plans.map (·.1)
  keys.foldl releasePicks (keys.foldl turnPlan s)

theorem turnPlans_beatFrame (s : State) : beatFrame (turnPlans s) = beatFrame s :=
  (foldl_beatFrame _ releasePicks_beatFrame _).trans (foldl_beatFrame s turnPlan_beatFrame _)

/-- What a boundary does to an awake device: the beat, the plans, the budgets, the plans that are done, the markers. -/
theorem beatBoundary_awake {s : State} (ha : awake s = true) (slack : Int) :
    exec (.beatBoundary slack) s =
      .next (settled s (sendMarkers (settlePlans (reloadBudgets (turnPlans (nextBeat slack s)))))) :=
  run_awake ha _

/-- Settles O36: all that a boundary does after it has advanced the beat keeps the frame. -/
theorem eachBoundaryAdvancesTheBeatByOne : Obligations.EachBoundaryAdvancesTheBeatByOne := by
  intro s slack ha
  refine ⟨_, beatBoundary_awake ha slack, ?_⟩
  generalize hu : sendMarkers (settlePlans (reloadBudgets (turnPlans (nextBeat slack s)))) = u
  have hframe : beatFrame u = beatFrame (nextBeat slack s) := by
    rw [← hu, sendMarkers_beatFrame, settlePlans_beatFrame, reloadBudgets_beatFrame, turnPlans_beatFrame]
  obtain ⟨hstore, hisles, hpool, hbeat⟩ : u.store = s.store ∧ u.isles = s.isles ∧ u.pool = s.pool ∧ u.treadle.beat = s.treadle.beat + 1 := by
    simpa [beatFrame, nextBeat] using hframe
  refine ⟨?_, ?_, by simpa using hstore, by simpa using hisles, rfl⟩
  · rw [settled_treadle, hbeat, BitVec.toNat_add]
    rfl
  · rw [awake, settled_pool, hpool]
    exact ha

end Sys2Proof.Machine

/-! ## Beat markers, lost inputs and overruns (R363, R364, R366, R368, R369, R410) -/

namespace Sys2Proof.Machine

section
variable {s : State}

theorem raise_treadle (e : Event) (s : State) : (raise e s).treadle = s.treadle := by rw [raise_eventsOnly e s]

/-- Raising an event does not read the beat's part of the state. -/
theorem raise_setTreadle (e : Event) (s : State) (t : Treadle) : { raise e s with treadle := t } = raise e { s with treadle := t } := by
  simp only [raise]
  split <;> rfl

/-- A member that holds no plan has no one to tell that it is unsynced. -/
theorem declareUnsynced_of_no_plans (h : s.treadle.plans = []) :
    declareUnsynced s = raise (event evBeatUnsynced (if s.treadle.onAlternate then s.treadle.alternate else s.treadle.primary) 0
        (s.treadle.phaseErr % 2 ^ 32).toNat (s.treadle.sinceMarker % 2 ^ 32))
      { s with treadle := { s.treadle with locked := false, unsynced := true, run := 0 } } := by
  simp only [declareUnsynced, raise_treadle, h, List.filter_nil, List.foldl_nil]

/-- A boundary of a device without a plan turns, releases and settles nothing. -/
theorem beatBoundary_of_no_plans (ha : awake s = true) (h : s.treadle.plans = []) (slack : Int) :
    exec (.beatBoundary slack) s = .next (settled s (sendMarkers (reloadBudgets (nextBeat slack s)))) := by
  have ht : turnPlans (nextBeat slack s) = nextBeat slack s := by simp [turnPlans, nextBeat, h]
  have hs : settlePlans (reloadBudgets (nextBeat slack s)) = reloadBudgets (nextBeat slack s) := by
    simp [settlePlans, reloadBudgets, nextBeat, h]
  rw [beatBoundary_awake ha, ht, hs]

section
variable {port root hops : Nat} {number : BitVec 48} {err : Int} (ha : awake s = true) (hroot : s.treadle.root = false)
  (hup : portUp s port = true) (hport : port = s.treadle.primary) (halt : s.treadle.onAlternate = false)
include ha hroot hup hport halt

/-- A marker near its time on the primary input of a locked device is counted. -/
theorem beat_counted (he : err.natAbs ≤ 64) (hl : s.treadle.locked = true) :
    exec (.beat port number root hops err) s = .next (settled s { s with treadle := { s.treadle with
      phaseErr := err, hops := hops % 16, rootId := root % 4096, run := min (s.treadle.run + 1) 64, sinceMarker := 0 } }) := by
  refine run_awake_eq ha ?_
  simp [hroot, hup, ← hport, halt, he, hl]

/-- The 64th marker in a row near its time locks the device to the marker's number. -/
theorem beat_locks (he : err.natAbs ≤ 64) (hl : s.treadle.locked = false) (hr : s.treadle.run = 63) :
    exec (.beat port number root hops err) s = .next (settled s (raise (event evBeatLocked port 0 (err % 2 ^ 32).toNat 0)
      { s with treadle := { s.treadle with
        phaseErr := err, hops := hops % 16, rootId := root % 4096, run := 64, locked := true, unsynced := false, beat := number,
        sinceMarker := 0 } })) := by
  refine run_awake_eq ha ?_
  simp [hroot, hup, ← hport, halt, he, hl, hr, raise_treadle, raise_setTreadle]

/-- A marker off its time declares a device unsynced that is not yet. -/
theorem beat_unsyncs (he : 64 < err.natAbs) (hs : s.treadle.unsynced = false) :
    exec (.beat port number root hops err) s = .next (settled s
      (let u := declareUnsynced { s with treadle := { s.treadle with
        phaseErr := err, hops := hops % 16, rootId := root % 4096, run := 0 } }
      { u with treadle := { u.treadle with sinceMarker := 0 } })) := by
  refine run_awake_eq ha ?_
  simp [hroot, hup, ← hport, halt, Nat.not_le.mpr he, hs]

end

end

/-- Settles O35: each row's branch for the premises. -/
theorem beatMarkersLockAndLoseSync : Obligations.BeatMarkersLockAndLoseSync := by
  intro s ha
  refine ⟨?marker, ?boundary, ?failover, ?silent, ?overrun⟩
  case marker =>
    intro port root hops number err hroot hup hport halt
    exact ⟨beat_locks ha hroot hup hport halt, beat_counted ha hroot hup hport halt, beat_unsyncs ha hroot hup hport halt⟩
  case boundary => exact fun slack h => beatBoundary_of_no_plans ha h slack
  case failover => exact fun hr hn h26 h4 => run_awake_eq ha (by simp [hr, hn, h26, h4])
  case silent =>
    exact fun cause hr hu h16 => ⟨run_awake_eq ha (by simp [hr, hu, h16]), declareUnsynced_of_no_plans⟩
  case overrun =>
    intro k c hc hl
    exact ⟨fun ho => run_awake_eq ha (by simp [overrunPick, hc, hl, ho]), fun ho => run_awake_eq ha (by simp [overrunPick, hc, ho])⟩

end Sys2Proof.Machine

/-! ## PLAN_ADMIT, PLAN_START and PLAN_STOP (R388, R389, R391–R393, R397, R398) -/

namespace Sys2Proof.Machine

section
variable {s u : State} {k : CmdKey} {c d : Cmd} {h : Nat} {p : Plan} {t : PlanText}

/-- A plan is found changed where it was changed. -/
theorem plan?_updPlan (s : State) (h : Nat) (f : Plan → Plan) : plan? (updPlan h f s) h = (plan? s h).map f :=
  (NMap.get?_upd s.treadle.plans h h f).trans (if_pos rfl)

/-- A command that no plan held names, as the rows test it. -/
theorem plans_any_cmd_eq_false (hn : ∀ p ∈ s.treadle.plans, p.2.cmd ≠ some k) : s.treadle.plans.any (fun p => p.2.cmd == some k) = false := by
  simpa using hn

/-- A plan that is not done releasing stays. -/
theorem settlePlan_of_not_stopped (hp : plan? s h = some p) (hs : p.stopping ≠ 3) : settlePlan h s = s := by
  simp [settlePlan, hp, hs]

/-- A plan of this device alone that is not being prepared is marked to stop at a boundary. -/
theorem stopPlan_of_alone (hp : plan? s h = some p) (hs : p.state ≠ .preparing) (ho : p.others = []) {mode : Nat} (hm : max p.stopping mode ≠ 3) :
    stopPlan h mode s = updPlan h (fun p => { p with stopping := max p.stopping mode, waiting := p.others, refusals := [] }) s := by
  simp only [stopPlan, hp, beq_eq_false_iff_ne.mpr hs, Bool.false_eq_true, if_false, ho, tellMembers, List.foldl_nil]
  exact settlePlan_of_not_stopped (by rw [plan?_updPlan, hp, Option.map_some]) hm

/-- A plan that is read whole, has its length and its check, and parses is judged by the admission checks. -/
theorem planAdmit_read {bs : List Byte} (hc : Runs s k 0x0500 c) (hf : admitFieldsOk c = true) (ht : admitTurn s k = true)
    (hn : ∀ p ∈ s.treadle.plans, p.2.cmd ≠ some k) (hu : access k c.isle [⟨.load, false, c.va 16, c.fld 24 0 32⟩] (startCmd k s) = (.ok, u))
    (hd : cmd? u k = some d) (hdesc : d.desc = c.desc) (hv : vstatus u d (c.va 16) (c.fld 24 0 32) = stOk)
    (hbs : vread u d (c.va 16) (c.fld 24 0 32) = bs) (hl : bs.length = planLength bs) (hcrc : crc crc32c bs = c.fld 28 0 32)
    (hp : parsePlan bs = some t) :
    exec (.planAdmit k) s = .next (settled s (admitPlan k d t bs u)) := by
  have hk : c.key = k := cmd?_key hc.2.1
  have hnow : cmdNow u c = d := by rw [cmdNow, hk, hd, Option.getD_some]
  refine run_withCmd_eq hc ?_
  simp only [hf, ht, plans_any_cmd_eq_false hn, Bool.not_true, Bool.or_self, Bool.false_eq_true, if_false]
  rw [whenReady_ok (by rw [hk]; exact hu)]
  simp only [hnow, paLen, va_congr hdesc, fld_congr hdesc, hv, hbs, hl, hcrc, hp, bne_self_eq_false, Bool.false_eq_true, if_false, ne_eq,
    not_true_eq_false]

/-- A plan that fails a check is refused with its reason and pick, and its resource and beat. -/
theorem admitPlan_refused (hno : (planChecks s t s.pool.id 0 c.isle).yes = false) (bytes : List Byte) :
    admitPlan k c t bytes s =
      let a := planChecks s t s.pool.id 0 c.isle
      endCmd k stAdmitRefused (a.reason + 256 * a.pick) (a.resource + 65536 * a.beat) s := by
  simp only [admitPlan, hno, Bool.not_false, if_true, admitRefused]

/-- A plan of this device alone that passes is admitted under the next handle. -/
theorem admitPlan_alone (hyes : (planChecks s t s.pool.id 0 c.isle).yes = true) (h1 : t.members.length = 1) (bytes : List Byte) :
    admitPlan k c t bytes s =
      endCmd k stOk (takeHandle s).1 0 (putPlan (takeHandle s).1 (newPlan t .admitted c.isle 0 0 none []) (takeHandle s).2) := by
  simp only [admitPlan, hyes, Bool.not_true, Bool.false_eq_true, if_false, h1, if_true]

end

/-- Settles O33: the plan that PLAN_ADMIT reads is judged by its checks; PLAN_START and PLAN_STOP act on the plan they name, where no member
but this device is to be told. -/
theorem planCommandsComplete : Obligations.PlanCommandsComplete := by
  intro s u k c d
  refine ⟨?admission, ?starting, ?stopping⟩
  case admission =>
    intro t hc hf ht hn hu hd hdesc hisle hv bs hl hcrc hp a
    rw [planAdmit_read hc hf ht hn hu hd hdesc hv rfl hl hcrc hp]
    refine ⟨fun hno => ?_, fun hyes h1 => ?_⟩
    · rw [admitPlan_refused (by rwa [hisle]), hisle]
    · rw [admitPlan_alone (by rwa [hisle]) h1, hisle]
      rfl
  case starting =>
    intro h p hc hb h1 h2 h3 hn hnamed hp hcmd
    dsimp only
    refine ⟨fun hst hok hsync ho => run_withCmd_eq hc ?_, fun hbad => run_withCmd_eq hc ?_⟩
    · have hst' : (p.state == .admitted || p.state == .paused) = true := by simpa using hst
      have hsync' : (s.treadle.locked || s.treadle.root) = true := by simpa using hsync
      simp only [hb, h1, h2, h3, plans_any_cmd_eq_false hn, hnamed, hp, hcmd, hst', hok, hsync', ho, Option.isSome_none, Bool.not_true,
        Bool.or_self, Bool.false_eq_true, if_false, if_true]
    · simp only [hb, h1, h2, h3, plans_any_cmd_eq_false hn, hnamed, hp, hcmd, hbad, Option.isSome_none, Bool.not_true, Bool.not_false,
        Bool.or_self, Bool.or_true, Bool.false_eq_true, if_false, if_true]
  case stopping =>
    intro h p hc hb h1 h2 hn hnamed hp hcmd hst hs ho
    have hbit : c.fld 20 0 1 < 2 := Nat.mod_lt _ (by decide)
    have hmode : (if c.fld 20 0 1 = 1 then 2 else 1) = c.fld 20 0 1 + 1 := by split <;> omega
    have hheld : plan? (updPlan h (fun p => { p with cmd := some k }) (startCmd k s)) h = some { p with cmd := some k } := by
      rw [plan?_updPlan]
      exact congrArg _ hp
    refine run_withCmd_eq hc ?_
    simp only [hb, h1, h2, plans_any_cmd_eq_false hn, hnamed, hp, hcmd, hmode, Option.any_some, Option.isSome_none, Bool.not_true, Bool.or_self,
      Bool.false_eq_true, if_false]
    exact stopPlan_of_alone hheld hst ho (by dsimp only; omega)

end Sys2Proof.Machine

/-! ## WEAVE: its start, its end, its phases and its flags (R432–R450) -/

namespace Sys2Proof.Machine

section
variable {s u : State} {k : CmdKey} {c : Cmd} {fuel : Nat}

/-- Past its last stage, a chain none of whose items met poison ends with all of them finished. -/
theorem weaveLoop_spent_clean (hc : cmd? s k = some c) (hd : stageCount c ≤ c.done) (hi : deadItems c = []) :
    weaveLoop k (fuel + 1) s = endWeave k c stOk (itemCount c) 0 s := by
  simp only [weaveLoop, hc, if_pos hd, hi]

/-- Past its last stage, a chain with poisoned items, `i` the lowest of them, ends with the others finished. -/
theorem weaveLoop_spent_poisoned {i : Nat} {r : List Nat} (hc : cmd? s k = some c) (hd : stageCount c ≤ c.done)
    (hi : deadItems c = i :: r) :
    weaveLoop k (fuel + 1) s = endWeave k c stPoison (itemCount c - (r.length + 1)) i s := by
  simp only [weaveLoop, hc, if_pos hd, hi]

/-- A command still ready starts its chain on the clusters chosen for it. -/
theorem weave_started (hc : Runs s k 0x0040 c) (hp : c.phase = .ready) (hw : weaveOk s c = true) {l : List Nat}
    (hl : chooseClusters s c true (c.fld 32 0 64) = .ok l) :
    exec (.weave k) s = .next (settled s (weaveLoop k 9 (updCmd k (fun x => { x with aux := [0], slots := emptySlots x })
      (l.foldl (scrubScratch (scratchOff c) (scratchLen c)) (takeClusters k c.isle l (startCmd k s)))))) := by
  refine run_withCmd_eq hc ?_
  simp only [hp, hw, hl, beq_self_eq_true, Bool.true_or, Bool.not_true, Bool.false_eq_true, if_true, if_false]

/-- A chain that has its clusters runs on from where it stands. -/
theorem weave_resumed (hc : Runs s k 0x0040 c) (hp : c.phase = .running) (hn : c.clusters ≠ []) :
    exec (.weave k) s = .next (settled s (weaveLoop k 9 s)) := by
  refine run_withCmd_eq hc (if_neg ?_)
  simp [hp, hn]

/-- The phase that a chain stands at is marked started, and the chain goes on. -/
theorem weavePhaseStart_goes (hc : Runs s k 0x0040 c) (hp : c.phase = .running) (hn : c.clusters ≠ [])
    (hd : c.done < stageCount c) (hs : startsPhase s c c.done = true) (h0 : weaveSync c = 0) :
    exec (.weavePhaseStart k) s = .next (settled s (weaveLoop k 9 (setSync k 1 s))) := by
  refine run_withCmd_eq hc (if_pos ?_)
  simp [hp, hn, hd, hs, h0]

/-- A flag that is reached and reads without fault lets the GATHER go on or leaves it waiting. -/
theorem gatherAcquire_read (hc : Runs s k 0x0040 c) (hw : awaitsFlag s c = true)
    (ha : access k c.isle [⟨.load, false, sgFlagVa (atStage c), 8⟩] s = (.ok, u))
    (hs : vstatus u (cmdNow u c) (sgFlagVa (atStage c)) 8 = stOk) :
    let v := vnat u (cmdNow u c) (sgFlagVa (atStage c)) 8
    let w := updCmd k (fun x => { x with fwd := [], pages := [] })
      { u with heddle := { u.heddle with wakeCmds := u.heddle.wakeCmds.filter (· != k) } }
    exec (.gatherAcquire k) s = .next (settled s
      (if (if sgCond (atStage c) = 0 then v = sgFlag (atStage c) else sgFlag (atStage c) ≤ v) then
        weaveLoop k 9 (setSync k 2 { w with heddle := { w.heddle with acquires := w.heddle.acquires.filter (fun a => a.1 != k) } })
       else takeEntry k c.isle (sgFlagVa (atStage c)) w)) := by
  obtain rfl : c.key = k := cmd?_key hc.2.1
  refine run_withCmd_eq hc ?_
  rw [if_pos hw]
  exact (readFlag_ok ha hs _ _).trans (if_congr (flagMeets_iff ..) rfl rfl)

/-- A flag that is reached and written whole sends the chain on to the stage behind its WRITE. -/
theorem writeRelease_written {v : State} (hc : Runs s k 0x0040 c) (hp : c.phase = .running) (h3 : weaveSync c = 3)
    (hq : sgScope (atStage c) = 2 → c.unacked = [])
    (ha : access k c.isle [⟨.shuttle (itemCluster c 0), true, sgFlagVa (atStage c), 8⟩] s = (.ok, u))
    (hv : vwrite k c.isle (sgFlagVa (atStage c)) (leBytes (sgFlag (atStage c)) 8) u = (false, v)) :
    exec (.writeRelease k) s = .next (settled s
      (weaveLoop k 9 (setSync k 0 (updCmd k (fun x => { x with done := x.done + 1, fwd := [] }) v)))) := by
  refine run_withCmd_eq hc ?_
  have hgo : (c.phase == .running && weaveSync c == 3 && (sgScope (atStage c) != 2 || c.unacked == [])) = true := by
    simpa [hp, h3, imp_iff_not_or] using hq
  simp only [if_pos hgo, ha, hv, Bool.false_eq_true, if_false]

end

/-- Settles O19: each clause is the row's lemma above; a chain past its last stage resumes into its end, by whether an item met
poison. -/
theorem weaveRunsItsChain : Obligations.WeaveRunsItsChain := by
  intro s u k c hc
  refine ⟨fun hp hw l hl => weave_started hc hp hw hl, ?ended, weavePhaseStart_goes hc, gatherAcquire_read hc,
    fun v hp h3 hq ha hv => writeRelease_written hc hp h3 hq ha hv⟩
  case ended =>
    intro hp hn hd
    rw [weave_resumed hc hp hn]
    cases hi : c.aux.drop 1 with
    | nil => rw [weaveLoop_spent_clean hc.2.1 hd hi]
    | cons d r => rw [weaveLoop_spent_poisoned hc.2.1 hd hi]

end Sys2Proof.Machine

/-! ## Lagoon sequences at their home and at their lead; appends and attention (R459–R505) -/

namespace Sys2Proof.Machine

/-! ### What a sequence's home answers (R496, R498, R501, R503–R505) -/

section
variable {s : State} {k : CmdKey} {c : Cmd} {isle ring : Nat} {q : KvSeq} {d : SubData}

/-- Beginning a command leaves what a handle names. -/
@[simp] theorem seq?_startCmd (h : Nat) : seq? (startCmd k s) isle h = seq? s isle h := rfl

/-- A home's plain status ends its sub-command with no counts and no data, but for one that carries a hint. -/
theorem endServed_st {st : Nat} (hs : st < 65536) (hr : st ≠ stReroute) :
    endServed k (.st st) s = endCmd k st 0 0 (updCmd k (fun c => { c with data := noData }) s) := by
  simp only [endServed, Home.st, Nat.mod_eq_of_lt hs, hr, if_false]

section
variable (hq : seq? s isle (kvHandle c) = some q)
include hq

/-- The owner of a sequence that no mutating command holds offers it. -/
theorem homeOffer_offered (ho : q.owner = ring) (h0 : q.ostate = 0) (hm : q.mutating = []) :
    homeOffer isle ring c s =
      (.st stOk, putSeq isle (hSlot (kvHandle c)) { q with ostate := 1, target := c.fld 24 0 24 } s) := by
  simp [homeOffer, hq, ho, h0, hm]

/-- The target of an offer, or any ring where the sequence is orphaned, becomes its owner. -/
theorem homeAccept_taken (h : (q.ostate = 1 ∧ q.target = ring) ∨ q.ostate = 2) :
    homeAccept isle ring c s = (.done stOk 0 q.length 0 noData,
      putSeq isle (hSlot (kvHandle c)) { q with owner := ring, ostate := 0, target := 0, ownerGone := false } s) := by
  simp only [homeAccept, hq, if_pos h]

theorem homeAccept_refused (h : ¬ ((q.ostate = 1 ∧ q.target = ring) ∨ q.ostate = 2)) :
    homeAccept isle ring c s = (.st stNotOwner, s) := by
  simp only [homeAccept, hq, if_neg h]

/-- A release without unpublish drops one reference, and the sequence with its last one. -/
theorem homeSeqRelease_dropsOne (hp : subPhase d = 0) (hu : c.fld 24 0 1 = 0) :
    homeSeqRelease isle c d s = (.done stOk 0 (q.refs - 1) 0 ⟨seqWords q, []⟩,
      if q.refs - 1 = 0 then destroySeq isle (kvHandle c) s
      else putSeq isle (hSlot (kvHandle c)) { q with refs := q.refs - 1 } s) := by
  have hb : bit (c.fld 24 0 8) 0 = false := by simp [bit_fld, hu]
  simp only [homeSeqRelease, if_pos hp, hq, hb, Bool.false_eq_true, false_and, if_false, Nat.sub_zero]

/-- A publish by the owner at the sequence's length registers a key that no sequence has, where the registry has room. -/
theorem homePublish_registers {w : List Nat} {key : Nat} (hl : pbLookup c = false) (hk : w.getD 1 0 = key) (ho : q.owner = w.headD 0)
    (h0 : q.ostate = 0) (hn : q.length = pbTokens c) (hf : registered s isle key = none) (hr : registrySize s < 65536) :
    homePublish isle c w s = (.done stOk 0 (kvHandle c % 2 ^ 32) (kvHandle c / 2 ^ 32) noData,
      putSeq isle (hSlot (kvHandle c)) { q with keys := q.keys ++ [key], refs := q.refs + 1, isSealed := true } s) := by
  subst hk
  simp only [homePublish, hl, hq, ho, h0, hn, hf, Nat.not_le.mpr hr, Bool.false_eq_true, ne_eq, not_true_eq_false, or_self, if_false]

end
end

/-- Settles O23: each row is served by the home's answer, which its own lemma gives. -/
theorem sequenceHomeServesItsCommands : Obligations.SequenceHomeServesItsCommands := by
  intro s k c h q ring key rest hl hq slot r ended
  have hr : seq? (startCmd k s) c.isle (kvHandle c) = some q := by rw [seq?_startCmd, hq]
  have lead : c.lead.isSome = true := by rw [hl, Option.isSome_some]
  refine ⟨?offer, ?accept, ?refuse, ?release, ?publish⟩
  case offer =>
    intro hc hw ho h0 hm
    refine run_withCmd_eq hc ?_
    simp only [if_pos lead, hw, List.headD_cons, homeOffer_offered hr ho h0 hm]
    exact endServed_st (by decide) (by decide)
  case accept =>
    intro hc hw ha
    refine run_withCmd_eq hc ?_
    simp only [if_pos lead, hw, List.headD_cons, homeAccept_taken hr ha]
    exact endServed_ok ..
  case refuse =>
    intro hc hw ha
    refine run_withCmd_eq hc ?_
    simp only [if_pos lead, hw, List.headD_cons, homeAccept_refused hr ha]
    exact endServed_st (by decide) (by decide)
  case release =>
    intro hc hp hu
    refine run_withCmd_eq hc ?_
    simp only [if_pos lead, homeSeqRelease_dropsOne hr hp hu]
    exact endServed_ok ..
  case publish =>
    intro hc hb hw ho h0 hn hf hs
    refine run_withCmd_eq hc ?_
    simp only [if_pos lead, hw, homePublish_registers (w := ring :: key :: rest) hr hb rfl ho h0 hn hf hs]
    exact endServed_ok ..

/-! ### What a sequence's lead makes of its answers (R459, R460, R490–R493, R500) -/

section
variable {s u : State} {k : CmdKey} {c : Cmd} {fuel : Nat}

@[simp] theorem putSeq_pool (isle slot : Nat) (q : KvSeq) : (putSeq isle slot q s).pool = s.pool := by
  simp only [putSeq, noteSeq, twinNote]
  repeat' split
  all_goals rfl

/-- A new sequence takes the lowest free slot at the slot's generation. -/
theorem newSeq_lowest {isle n : Nat} {q : KvSeq} (hn : freeSlot s = some n) :
    newSeq isle q s = some (handleOf s.pool.id n (NMap.getD s.lagoon.gens n 0).toNat,
      putSeq isle n { q with gen := NMap.getD s.lagoon.gens n 0 } s) := by
  simp only [newSeq, hn]

/-- A list of devices all of which are this one or members names no stranger. -/
theorem place_hasNoStranger {l : List (Nat × Nat)} (h : ∀ p ∈ l, p.1 = s.pool.id ∨ p.1 ∈ s.pool.members) :
    l.any (fun p => p.1 != s.pool.id && !s.pool.members.contains p.1) = false := by
  simpa [List.any_eq_false, imp_iff_not_or] using h

section
variable (hc : cmd? s k = some c) (ha : allAnswered c = true)
include hc ha

/-- A fork whose holders all took their references ends with the new handle. -/
theorem forkGo_referenced (hs : ∀ x ∈ c.subs, x.status = some stOk) (hx : c.aux.headD 0 = 2) :
    forkGo k (fuel + 1) s = endCmd64 k stOk (c.aux.getD 1 0) s := by
  simp only [forkGo, hc, runLocal_answered hc ha, ha, firstFailing_of_ok hs, hx, Nat.reduceEqDiff, Bool.not_true, Bool.false_eq_true,
    if_true, if_false]

/-- A query whose home answered with the record writes it once its result can be reached. -/
theorem queryGo_answered {x : Sub} (hx : c.subs = [x]) (hs : ∀ x ∈ c.subs, x.status = some stOk)
    (hr : access k c.isle [⟨.load, true, c.va 24, 64⟩] (startCmd k s) = (.ok, u)) :
    let q := seqOfWords x.answer.words
    queryGo k s = endCmd k stOk q.length (ownerWord q % 2 ^ 32) (vput k c.isle (c.va 24) (queryRecord (kvHandle c) q) u) := by
  obtain rfl : c.key = k := cmd?_key hc
  simp only [queryGo, hc, runLocal_answered hc ha, ha, firstFailing_of_ok hs, hx, List.head?_cons, Bool.not_true, Bool.false_eq_true,
    if_false]
  rw [whenReady_ok hr]

end
end

/-- Settles O24: SEQ_CREATE passes its checks and takes the lowest slot; a fork and a query go on from their homes' answers. -/
theorem sequenceLeadCommandsComplete : Obligations.SequenceLeadCommandsComplete := by
  intro s u k c
  refine ⟨?create, ?fork, ?query⟩
  case create =>
    intro n hc hf hp hn g
    refine run_withCmd_eq hc ?_
    simp only [hf, Bool.not_true, Bool.false_eq_true, if_false, place_hasNoStranger hp, newSeq_lowest hn, putSeq_pool]
    rfl
  case fork =>
    intro new r hc hl hx ha hs
    refine run_withCmd_eq hc ?_
    simp only [hl, hx, Option.isSome_none, Bool.false_eq_true, if_false, reduceCtorEq]
    rw [forkGo_referenced hc.2.1 ha hs (by rw [hx, List.headD_cons]), hx]
    rfl
  case query =>
    intro x hc hl hx hs ht hr q
    refine run_withCmd_eq hc ?_
    simp only [hl, hx, Option.isSome_none, Bool.false_eq_true, if_false]
    exact queryGo_answered hc.2.1 (by simp [allAnswered, hs, ht]) hs (by simp [hs, ht]) hr

/-! ### Appends written, attention answered, records combined (R467, R468, R475, R480, R484–R488) -/

section
variable {s u : State} {k : CmdKey} {c : Cmd} {fuel : Nat}

/-- A command that has its clusters goes on with them. -/
theorem withClusters_held (hc : cmd? s k = some c) (hn : c.clusters ≠ []) (fail : Nat → State → State) (go : State → State) :
    withClusters k fail go s = go s := by
  simp only [withClusters, hc, if_pos hn]

theorem cmdNow_of_cmd? {d : Cmd} (hk : c.key = k) (hd : cmd? s k = some d) : cmdNow s c = d := by
  simp only [cmdNow, hk, hd, Option.getD_some]

section
variable (hc : cmd? s k = some c) (ha : allAnswered c = true) (hx : c.aux.headD 0 = 3)
include hc ha hx

/-- An append that its holders wrote ends where its home is this device. -/
theorem appendGo_written (hs : ∀ x ∈ c.subs, x.status = some stOk) (hm : isMine s (hPool (kvHandle c)) = true) :
    appendGo k (fuel + 1) s = endCmd k stOk (kvPos c + kvN c) (c.aux.getD 2 0) s := by
  simp only [appendGo, hc, runLocal_answered hc ha, ha, firstFailing_of_ok hs, hx, hm, Nat.reduceEqDiff, Bool.not_true,
    Bool.false_eq_true, if_true, if_false]

/-- An attention whose shares are answered with nothing worse than poison finishes its entries. -/
theorem attnGo_answered (hs : ∀ x ∈ c.subs, x.status = some stOk ∨ x.status = some stPoison) :
    attnGo k (fuel + 1) s = attnFinish k c (entrySeqs (atCount c) c.data.words) s := by
  have hn : c.subs.filter (fun x => x.status != some stOk && x.status != some stPoison) = [] :=
    List.filter_eq_nil_iff.mpr fun x m => by rcases hs x m with h | h <;> simp [h]
  simp only [attnGo, hc, runLocal_answered hc ha, ha, hx, hn, cmdNow_of_cmd? (cmd?_key hc) hc, List.foldl_nil, Nat.reduceEqDiff,
    Bool.not_true, Bool.false_eq_true, if_false]

end

/-- The sizes of a combine rest on its descriptor alone. -/
theorem combine_congr {d : Cmd} (he : d.desc = c.desc) :
    cbCount d = cbCount c ∧ cbHeads d = cbHeads c ∧ cbDim d = cbDim c ∧ cbMode d = cbMode c ∧ cbRecord d = cbRecord c := by
  simp only [cbRecord, cbCount, cbHeads, cbDim, cbMode, fld_congr he, and_self]

/-- A combine with its clusters, its ranges ready and its records clean writes the tree of each head's partials. -/
theorem attnCombine_written {v : State} {d : Cmd} (hc : Runs s k 0x0202 c) (hf : combineFieldsOk c = true) (hn : c.clusters ≠ [])
    (ha : access k c.isle [⟨.shuttle (c.clusters.headD 0), false, c.va 24, cbCount c * cbRecord c⟩,
      ⟨.shuttle (c.clusters.headD 0), true, c.va 32, cbHeads c * headLen (cbMode c) (cbDim c)⟩] (startCmd k (startCmd k s)) = (.ok, u))
    (hd : cmd? u k = some d) (he : d.desc = c.desc) (hi : d.isle = c.isle)
    (hv : ∀ r, r < cbCount c → vstatus u d (c.va 24 + r * cbRecord c) (cbRecord c) = stOk)
    (hw : vwrite k c.isle (c.va 32) ((List.range (cbHeads c)).flatMap (fun hd =>
      headBytes (cbMode c) (treeParts ((List.range (cbCount c)).map (fun r => decodeVec 0 (cbDim c + 2)
        (vread u d (c.va 24 + r * cbRecord c + hd * headLen 2 (cbDim c)) (headLen 2 (cbDim c)))))))) u = (false, v)) :
    exec (.attnCombine k) s = .next (settled s (endCmd k stOk (cbCount c) 0xFFFFFFFF v)) := by
  obtain rfl : c.key = k := cmd?_key hc.2.1
  refine run_withCmd_eq hc ?_
  have hs := cmd?_startCmd_of_runs hc
  simp only [hf, Bool.not_true, Bool.false_eq_true, if_false]
  rw [withClusters_held hs hn, cmdNow_of_cmd? rfl hs]
  refine (whenReady_ok ha _).trans ?_
  obtain ⟨-, hheads, hdim, hmode, hrec⟩ := combine_congr he
  have hbad : (List.range (cbCount c)).filter (fun r => vstatus u d (c.va 24 + r * cbRecord c) (cbRecord c) != stOk) = [] :=
    List.filter_eq_nil_iff.mpr fun r m => by simp [hv r (List.mem_range.mp m)]
  rw [cmdNow_of_cmd? (c := { c with phase := .running }) rfl hd]
  have hbegun : cbCount { c with phase := .running } = cbCount c := rfl
  simp only [hbegun, hheads, hdim, hmode, hrec, va_congr he, hi, hbad, hw, Bool.false_eq_true, if_false]

end

/-- Settles O25: an append and an attention go on from their shares' answers, a holder serves its write phase, and a combine writes
its heads. -/
theorem kvAppendAndAttentionComplete : Obligations.KvAppendAndAttentionComplete := by
  intro s u v k c
  refine ⟨?append, ?served, ?decode, ?combine⟩
  case append =>
    intro n st taken hc hl hx ha hs hm hn
    refine run_withCmd_eq hc ?_
    simp only [hl, hx, Option.isSome_none, Bool.false_eq_true, if_false, reduceCtorEq]
    rw [appendGo_written hc.2.1 ha (by rw [hx, List.headD_cons]) hs hm, hx, hn]
    rfl
  case served =>
    intro h r hc hl hp hw
    refine run_withCmd_eq hc ?_
    simp [hl, homeKv, hp, hw]
  case decode =>
    intro hc hl rest hx ha hs
    refine run_withCmd_eq hc ?_
    simp only [hl, hx, Option.isSome_none, Bool.false_eq_true, if_false, reduceCtorEq]
    exact attnGo_answered hc.2.1 ha (by rw [hx, List.headD_cons]) hs
  case combine =>
    intro hc hf hn ha d hd he hi hv part hw
    exact attnCombine_written hc hf hn ha hd he hi hv hw

end Sys2Proof.Machine

/-! ## The record of an embedding table (R518, R543, R544) -/

namespace Sys2Proof.Machine

/-- Settles O22: where its range is ready EMB_STATS writes the record, and its clear bit alone decides whether the counters go. -/
theorem embStatsWritesTheTableRecord : Obligations.EmbStatsWritesTheTableRecord := by
  intro s u k c t hc hf ht ha tid held v step
  have hk : c.key = k := cmd?_key hc.2.1
  have hready (go : State → State) : whenReady c [⟨.load, true, c.va 24, 32832⟩] go s = go u := whenReady_ok (by rwa [hk]) go
  refine ⟨fun hclear => run_withCmd_eq hc ?_, fun hkeep => run_withCmd_eq hc ?_⟩
  · simp only [hf, ht, hready, bit_fld, hclear, decide_true, Bool.not_true, Bool.false_eq_true, if_false, if_true]
    rfl
  · simp only [hf, ht, hready, bit_fld, hkeep, zero_ne_one, decide_false, Bool.not_true, Bool.false_eq_true, if_false]
    rfl

end Sys2Proof.Machine

/-! ## A row migration, from its start to its commit or its roll-back (R545–R554) -/

namespace Sys2Proof.Machine

/-! ### ROW_MIGRATE at the old home (R546, R547) -/

section
variable {s : State} {k : CmdKey} {c : Cmd} {t : Table}
variable (hc : Runs s k 0x0F20 c) (hl : c.lead = none) (hx : c.aux = []) (hf : migrateFieldsOk c = true) (ho : onManagement s k = true)
  (ht : table? s (mgTable c) = some t) (hs : mgSlot c < t.slots.length)
include hc hl hx hf ho ht hs

/-- A slot that another device holds is named with its home in the hint. -/
theorem rowMigrate_elsewhere (hh : (slotAt t (mgSlot c)).pool ≠ s.pool.id) :
    exec (.rowMigrate k) s = .next (settled s
      (endCmd64 k stReroute ((Config.freeWord s.free).toNat / 4096 * 4096 + (slotAt t (mgSlot c)).pool) (nextFree s))) := by
  refine run_withCmd_eq hc ?_
  simp [hl, hx, hf, ho, ht, Nat.not_le.mpr hs, hh]

variable (hh : (slotAt t (mgSlot c)).pool = s.pool.id) (hp : mgPool c ≠ (slotAt t (mgSlot c)).pool) (hm : mgPool c ∈ s.pool.members)
include hh hp hm

/-- With no migration under way the new home is asked. -/
theorem rowMigrate_asks (hn : s.emb.migration = none) :
    exec (.rowMigrate k) s = .next (settled s (migrateGo k (startSubs k [newSub 0 (mgPool c) c.desc { words := [0, 0], bytes := [] }]
      (updCmd k (fun c => { c with aux := [1] }) (startCmd k s))))) := by
  refine run_withCmd_eq hc ?_
  simp [hl, hx, hf, ho, ht, Nat.not_le.mpr hs, hh, hh ▸ hp, hm, hn]

/-- One migration at a time: while another table's runs the command ends with ST_QUOTA. -/
theorem rowMigrate_quota {m : Migration} (hn : s.emb.migration = some m) (hmt : m.table ≠ mgTable c) :
    exec (.rowMigrate k) s = .next (settled s (endFree k stQuota s)) := by
  refine run_withCmd_eq hc ?_
  simp [hl, hx, hf, ho, ht, Nat.not_le.mpr hs, hh, hh ▸ hp, hm, hn, hmt]

end

section
variable {s : State} {m : Migration}

/-! ### The copy and the roll-back (R548, R549, R554) -/

/-- After the hold Ferry sends every row of the slot, and its cursor stands at their number. -/
theorem ferryStart_copies {t : Table} {u : State} (hm : s.emb.migration = some m) (hp : m.phase = 0)
    (hh : s.emb.holdEpochs ≤ s.emb.epochs) (ht : table? s m.table = some t)
    (hs : sendRows 1 m t ((List.range (slotRows t m.slot).2).map (fun i => (slotRows t m.slot).1 + i)) s = (.ok, u)) :
    ferryStart s = updMigration (fun x => { x with phase := 1, cursor := (slotRows t m.slot).2 }) u := by
  simp [ferryStart, hm, hp, Nat.not_lt.mpr hh, ht, hs]

theorem updMigration_running (hm : s.emb.migration = some m) (f : Migration → Migration) :
    updMigration f s = { s with emb := { s.emb with migration := some (f m) } } := by
  rw [updMigration, hm, Option.map_some]

/-- A migration rolled back is over; its event is posted and its command ends with the status. -/
theorem rollBack_running (hm : s.emb.migration = some m) (st : Nat) :
    rollBack st s = endFree m.cmd st (raise (event evMigrationRolledBack 0 m.table (m.slot + m.pool * 4096) st)
      { s with emb := { s.emb with migration := none } }) := by
  simp only [rollBack, hm]

section
variable {c : Cmd} (ha : awake s = true) (hm : s.emb.migration = some m) (hc : cmd? s m.cmd = some c) (hp : m.phase = 1)
  (hans : allAnswered c = true)
include ha hm hc hp hans

/-- A copy none of whose sub-commands failed is complete. -/
theorem ferryCopyDone_complete (hok : firstFailing c = none) :
    exec (.ferryCopyDone m.table m.slot m.cursor) s = .next (settled s
      { s with emb := { s.emb with migration := some { m with phase := 2 } } }) := by
  refine run_awake_eq ha ?_
  simp only [hm, hc, hp, hans, hok, and_self, if_true, updMigration_running hm]

/-- A copy with a failure rolls the migration back with the status of the first. -/
theorem ferryCopyDone_rollsBack {x : Sub} {st : Nat} (hx : firstFailing c = some x) (hst : x.status = some st) :
    exec (.ferryCopyDone m.table m.slot m.cursor) s = .next (settled s (rollBack st s)) := by
  refine run_awake_eq ha ?_
  simp only [hm, hc, hp, hans, hx, hst, and_self, if_true, Option.getD_some]

end

/-! ### The commit (R550–R552) -/

section
variable {port src tid slot newHome va : Nat} {e : BitVec 8} {step : BitVec 32}
variable (hup : portUp s port = true) (hf : s.twin.state ≠ .fenced) (hsrc : src ∈ s.pool.members)
include hup hf hsrc

/-- A device that is not fenced does not drop a member's notice on a port that is up. -/
theorem commitNotice_heard : (!portUp s port || s.twin.state == .fenced || !s.pool.members.contains src) = false := by
  simp [hup, hf, hsrc]

variable (ha : awake s = true)
include ha

/-- A commit notice of any epoch but the next is reported and changes nothing. -/
theorem commitNotice_mismatch (he : e ≠ s.maps.cur.epoch + 1) :
    exec (.commitNotice port src tid slot newHome va e step) s = .next (settled s
      (raise (event evMapNoticeMismatch 0 tid s.maps.cur.epoch.toNat e.toNat) s)) := by
  refine run_awake_eq ha ?_
  simp only [commitNotice_heard hup hf hsrc, Bool.false_eq_true, if_false, if_pos he]

/-- A member that is not the new home installs the moved map. -/
theorem commitNotice_member (he : e = s.maps.cur.epoch + 1) (hn : newHome ≠ s.pool.id) :
    exec (.commitNotice port src tid slot newHome va e step) s = .next (settled s
      (installMap true (movedMap s.maps.cur tid slot newHome va) s)) := by
  refine run_awake_eq ha ?_
  simp only [commitNotice_heard hup hf hsrc, he, hn, ne_eq, not_true_eq_false, Bool.false_eq_true, if_false]

/-- A new home that held no slot of the table opens its step, installs the moved map and acknowledges. -/
theorem commitNotice_newHome {t : Table} (he : e = s.maps.cur.epoch + 1) (hn : newHome = s.pool.id)
    (ht : NMap.get? s.maps.cur.tables tid = some t) (hno : ∀ x ∈ t.slots, x.pool ≠ s.pool.id) :
    exec (.commitNotice port src tid slot newHome va e step) s = .next (settled s (sendManage src .commitNoticeAck [tid, slot]
      (installMap true (movedMap s.maps.cur tid slot newHome va)
        { s with emb := { s.emb with openStep := NMap.set s.emb.openStep tid (step + 1) } }))) := by
  have hhad : t.slots.any (fun x => x.pool == s.pool.id) = false := by simpa using hno
  refine run_awake_eq ha ?_
  simp only [commitNotice_heard hup hf hsrc, he, hn, ht, hhad, Option.any_some, ne_eq, not_true_eq_false, Bool.false_eq_true,
    if_false, if_true]

end
end

/-- Settles O59: each row's branch for the premises; the copy's end is a completion or a roll-back by its first failing share. -/
theorem migrationsCopyCommitAndRollBack : Obligations.MigrationsCopyCommitAndRollBack := by
  intro s k c
  refine ⟨?newHome, ?oldHome, ?holdEnd, ?copyDone, ?notice, ?acknowledged⟩
  case newHome =>
    intro h hc hl r
    refine run_withCmd_eq hc ?_
    simp only [hl, Option.isSome_some, if_true]
    rfl
  case oldHome =>
    intro t hc hl hx hf ho ht hs home
    exact ⟨rowMigrate_elsewhere hc hl hx hf ho ht hs, rowMigrate_asks hc hl hx hf ho ht hs,
      fun m => rowMigrate_quota (m := m) hc hl hx hf ho ht hs⟩
  case holdEnd =>
    intro m t ha hm hp hh ht u hu
    exact run_awake_eq ha (ferryStart_copies hm hp hh ht hu)
  case copyDone =>
    intro m ha hm hc hp hans
    refine ⟨ferryCopyDone_complete ha hm hc hp hans, fun x st hx hst => ?_⟩
    rw [ferryCopyDone_rollsBack ha hm hc hp hans hx hst, rollBack_running hm]
  case notice =>
    intro port src tid slot newHome va e step ha hup hf hsrc
    exact ⟨commitNotice_mismatch hup hf hsrc ha, commitNotice_member hup hf hsrc ha, fun t => commitNotice_newHome hup hf hsrc ha⟩
  case acknowledged =>
    intro m port ha hup hm hp
    refine run_awake_eq ha ?_
    simp only [hm, hup, hp, ne_eq, not_true_eq_false, Bool.not_true, Bool.or_self, decide_false, Bool.false_eq_true, if_false]

end Sys2Proof.Machine

/-! ## The rows' frames and runs of the block (R748, R753) -/

namespace Sys2Proof.Machine

/-- A row's frame: those of resets, power events, pin levels and the thermal trip act in every condition of the device, every
other row acts where the device is awake alone. -/
theorem exec_frame (c : Instr) :
    (actsAsleep c = true ∧ ∃ f, exec c = runAlways f) ∨ (actsAsleep c = false ∧ ∃ f, exec c = run f) := by
  cases c with
  | enumTokenReceived | enumInLow | warmReset | resetNRise | resetEntryEnd | powerOff | thermalTrip | coldReset _ =>
    exact .inl ⟨rfl, _, rfl⟩
  | _ => exact .inr ⟨rfl, _, rfl⟩

/-- A row that acts in every condition of the device leaves the state its effect gives. -/
theorem runAlways_eq {s t : State} {f : State → State} (e : f s = t) : runAlways f s = .next (settled s t) := by
  rw [runAlways_next, e]

/-- No row stops, and each leaves the queue as it was. -/
theorem exec_goes (c : Instr) (s : State) : ∃ t, exec c s = .next t ∧ t.pending = s.pending := by
  obtain ⟨-, f, hf⟩ | ⟨-, f, hf⟩ := exec_frame c
  · rw [hf]; exact ⟨_, runAlways_next s f, rfl⟩
  · rw [hf]; exact run_goes f s

/-- A step with a command in front of the queue answers a state whose queue is the queue's rest. -/
theorem step_cons {s : State} {c : Instr} {rest : List Instr} (h : s.pending = c :: rest) :
    ∃ t, step s = .next t ∧ t.pending = rest := by
  obtain ⟨t, ht, hp⟩ := exec_goes c { s with pending := rest }
  exact ⟨t, by simp only [step, h, ht], hp⟩

/-- A step on an empty queue is idle. -/
theorem step_nil {s : State} (h : s.pending = []) : step s = .next s := by simp only [step, h]

theorem runSteps_succ {s t : State} (h : step s = .next t) (n : Nat) : runSteps (n + 1) s = runSteps n t := by
  simp only [runSteps, h, next?, Option.bind_some]

/-- A block whose queue is empty idles for as long as it steps. -/
theorem runSteps_idle {s : State} (h : s.pending = []) (n : Nat) : runSteps n s = some s := by
  induction n with
  | zero => rfl
  | succ n ih => rw [runSteps_succ (step_nil h), ih]

/-- Steps enough for the queue empty it and none stops. -/
theorem runSteps_empties (l : List Instr) : ∀ s : State, s.pending = l →
    ∃ t, t.pending = [] ∧ ∀ n, runSteps (l.length + n) s = some t := by
  induction l with
  | nil => exact fun s h => ⟨s, h, fun n => runSteps_idle h _⟩
  | cons c rest ih =>
    intro s h
    obtain ⟨t, hst, ht⟩ := step_cons h
    obtain ⟨u, hu, hrun⟩ := ih t ht
    refine ⟨u, hu, fun n => ?_⟩
    rw [List.length_cons, Nat.add_right_comm, runSteps_succ hst, hrun n]

/-- Settles O3, by induction on the queue: each step takes its front command and answers a state with the rest. -/
theorem queueRunsToItsEnd : Obligations.QueueRunsToItsEnd := by
  intro s
  obtain ⟨t, hp, hrun⟩ := runSteps_empties s.pending s rfl
  exact ⟨t, hrun 0, hp, hrun⟩

/-- Settles O1: a step's two branches, by the queue's shape. -/
theorem stepRunsFrontCommand : Obligations.StepRunsFrontCommand :=
  fun _ _ _ => ⟨rfl, step_nil⟩

/-- Settles O2: every row runs in one of the two frames, and neither stops. -/
theorem everyCommandAnswersNextState : Obligations.EveryCommandAnswersNextState := exec_goes

/-- Settles O4: a row that does not act asleep runs in the frame that leaves a device that is not awake as it is. -/
theorem asleepDeviceKeepsItsState : Obligations.AsleepDeviceKeepsItsState := by
  intro c s ha hc
  obtain ⟨h, -⟩ | ⟨-, f, hf⟩ := exec_frame c
  · rw [hc] at h; cases h
  · rw [hf, run_asleep ha]

end Sys2Proof.Machine

/-! ## MSI-X allocation while VFs are enabled (R805) -/

namespace Sys2Proof.Machine

section
variable {s : State}

/-- A write of a VF's allocation while VFs are enabled is refused. -/
theorem writeMsixAlloc_refused {vf : Nat} (hv : vf ≠ 0) (he : s.bobbin.vfEnable = true) (v : BitVec 32) :
    writeMsixAlloc vf v s = refuseWrite s :=
  if_pos ⟨hv, he⟩

/-- The allocation registers' place in the map of PF0. -/
theorem writeReg_msixAlloc {fn : Nat} (h : fn < 256) (v : Nat) :
    writeReg (0x302000 + 4 * fn) v s = writeMsixAlloc fn (BitVec.ofNat 32 v) s := by
  have hi : (0x302000 + 4 * fn - 0x302000) / 4 = fn := by omega
  unfold writeReg
  dsimp only
  rw [if_neg (by omega), if_neg (by omega), if_neg (by omega), if_neg (by omega), if_neg (by omega), if_neg (by omega), if_neg (by omega),
    if_neg (by omega), if_pos (by omega), hi]

end

/-- Settles O47: the row and the register's write through BAR0 are one refusal. -/
theorem msixAllocationIsFixedWhileVfsAreEnabled : Obligations.MsixAllocationIsFixedWhileVfsAreEnabled := by
  intro s vf v ha he h1 h2
  have hw (w : BitVec 32) : writeMsixAlloc vf w s = refuseWrite s := writeMsixAlloc_refused (Nat.ne_of_gt h1) he w
  refine ⟨run_awake_eq ha (hw v), ?_⟩
  rw [registerWrite_word ha _ (by omega), writeBar0, if_pos rfl, writeReg_msixAlloc (Nat.lt_succ_of_le h2), hw]
  rfl

end Sys2Proof.Machine

/-! ## The shelf controller's commands and the enumeration chain (R778, R779, R813) -/

namespace Sys2Proof.Machine

section
variable {s : State} {b : Smb} {ok : State → Bool} {answer : State → List Byte} {act : State → State}

theorem smbRun_elsewhere (h : smbAnswers s b.addr = false) : smbRun b ok answer act s = s := by
  simp only [smbRun, h, Bool.not_false, if_true]

theorem smbRun_accepted (h : smbAnswers s b.addr = true) (hp : b.pecOk = true) (ho : ok s = true) :
    smbRun b ok answer act s = emit (.smbus (some (answer s))) (act s) := by
  simp only [smbRun, h, hp, ho, Bool.not_true, Bool.false_eq_true, if_false, Bool.and_self, if_true]

theorem smbRun_refused (h : smbAnswers s b.addr = true) (ho : ok s = false) : smbRun b ok answer act s = emit (.smbus none) s := by
  simp only [smbRun, h, ho, Bool.not_true, Bool.false_eq_true, if_false, Bool.and_false]

theorem smbRun_badPec (h : smbAnswers s b.addr = true) (hp : b.pecOk = false) : smbRun b ok answer act s = emit (.smbus none) s := by
  simp only [smbRun, h, hp, Bool.not_true, Bool.false_eq_true, if_false, Bool.false_and]

/-- An addressed transaction whose packet error code is good acts where the command's condition holds, and is not acknowledged else. -/
theorem smbRun_if {P : Prop} [Decidable P] (h : smbAnswers s b.addr = true) (hp : b.pecOk = true) (ho : ok s = true ↔ P) :
    smbRun b ok answer act s = if P then emit (.smbus (some (answer s))) (act s) else emit (.smbus none) s := by
  split
  · next hP => exact smbRun_accepted h hp (ho.mpr hP)
  · next hP => exact smbRun_refused h (Bool.eq_false_iff.mpr fun e => hP (ho.mp e))

theorem holdsToken_iff : holdsToken s = true ↔ s.pool.enumIn = true ∧ s.pool.enumOut = some false := by
  simp [holdsToken]

/-- The address the device answers at, by whether it is committed (R778, R813). -/
theorem smbAnswers_iff {a : Nat} (h : 1 ≤ s.clocks.stepDone) : smbAnswers s a = true ↔
    if s.pool.committed = true then s.pool.smbAddr = some a else a = 0x2C ∧ holdsToken s = true ∧ s.pool.id = 0xFFF := by
  unfold smbAnswers
  rw [decide_eq_true h, Bool.true_and]
  split
  · exact beq_iff_eq
  · simp [and_assoc]

theorem smbStatus_length : (smbStatus s).length = 8 := by
  simp [smbStatus]

end

/-- Settles O50: each command is one transaction, decided by the address, the packet error code and the command's own condition. -/
theorem smbusCommandsAnswerAndCommit : Obligations.SmbusCommandsAnswerAndCommit := by
  intro s
  refine ⟨fun ha => ⟨fun b hb v a => ?elsewhere, fun b hb hp => ?addressed, fun b hb hp v a => ?badPec⟩,
    fun a hs => ⟨fun hc => ?own, fun hc => ?first⟩, fun hp => ?enumHigh, ?enumLow⟩
  case elsewhere =>
    have hs {ok answer act} : smbRun b ok answer act s = s := smbRun_elsewhere hb
    exact ⟨run_awake_eq ha hs, run_awake_eq ha hs, run_awake_eq ha hs, run_awake_eq ha hs, run_awake_eq ha hs⟩
  case badPec =>
    have hs {ok answer act} : smbRun b ok answer act s = emit (.smbus none) s := smbRun_badPec hb hp
    exact ⟨run_awake_eq ha hs, run_awake_eq ha hs, run_awake_eq ha hs, run_awake_eq ha hs, run_awake_eq ha hs⟩
  case addressed =>
    refine ⟨run_awake_eq ha (smbRun_accepted hb hp rfl), fun v => run_awake_eq ha (smbRun_if hb hp ?_),
      fun a => run_awake_eq ha (smbRun_if hb hp ?_), fun p q h1 h2 => run_awake_eq ha ?_, fun hn => run_awake_eq ha (smbRun_refused hb ?_),
      fun hc => ⟨run_awake_eq ha (smbRun_accepted hb hp hc), smbStatus_length⟩, fun hc => run_awake_eq ha (smbRun_refused hb hc)⟩
    · simp [holdsToken_iff, and_assoc]
    · simp [holdsToken_iff, and_assoc]
    · rw [smbRun_accepted hb hp (by simp [h1, h2]), h1]
      rfl
    · rcases hn with hn | hn <;> simp [hn]
  case own => simp [smbAnswers_iff hs, hc]
  case first => simp [smbAnswers_iff hs, hc, holdsToken_iff, and_assoc]
  case enumLow => exact runAlways_next s fun s => { s with pool := { s.pool with enumIn := false } }
  case enumHigh =>
    refine runAlways_eq ?_
    simp only [hp, if_true]

end Sys2Proof.Machine

/-! ## Clock sources, the supply setpoint and temperature (R743–R755, R790–R793) -/

namespace Sys2Proof.Machine

section
variable {s : State}

theorem raise_clocks (e : Event) (s : State) : (raise e s).clocks = s.clocks := by rw [raise_eventsOnly e s]

/-- A forced select of the other reference switches at once and leaves the PLL in holdover (R751). -/
theorem selectRef_forced {lane : Bool} (h : s.clocks.refIsLane = !lane) : selectRef true lane s = { s with clocks := { s.clocks with
    refIsLane := lane, switchPending := false, holdover := true, pllLocked := false } } := by
  simp [selectRef, h]

section
variable {cause : Nat} (ha : awake s = true) (hc : cause = 1 ∨ cause = 2)
include ha hc

/-- A lost timing lane is replaced by the oscillator (R747, R750). -/
theorem clkRefLost_lane (hl : s.clocks.refIsLane = true) :
    let u := raise (event 0x0A01 (refUnit s) 0 cause 0) s
    exec (.clkRefLost cause) s = .next (settled s (raise (event 0x0A02 31 0 2 0) { u with clocks := { u.clocks with
      laneAlive := u.clocks.laneAlive &&& ~~~(1 <<< u.clocks.timingPort : BitVec 24)
      refIsLane := false, switchPending := false, holdover := true, pllLocked := false } })) := by
  intro u
  have hu : u.clocks.refIsLane = true := by rw [← hl, raise_clocks]
  have hg : (cause = 1 || cause = 2) = true := by simpa using hc
  refine run_awake_eq ha ?_
  simp only [hg, Bool.not_true, Bool.false_eq_true, if_false]
  rw [if_pos hu, selectRef_forced hu]

/-- A lost oscillator leaves the PLL in holdover (R747). -/
theorem clkRefLost_oscillator (hl : s.clocks.refIsLane = false) :
    let u := raise (event 0x0A01 (refUnit s) 0 cause 0) s
    exec (.clkRefLost cause) s = .next (settled s
      { u with clocks := { u.clocks with oscAlive := false, holdover := true, pllLocked := false } }) := by
  intro u
  have hu : ¬ u.clocks.refIsLane = true := by rw [raise_clocks, hl]; exact Bool.false_ne_true
  have hg : (cause = 1 || cause = 2) = true := by simpa using hc
  refine run_awake_eq ha ?_
  simp only [hg, Bool.not_true, Bool.false_eq_true, if_false]
  rw [if_neg hu]

end

section
variable (ha : awake s = true) (hr : s.clocks.refSel = true) (hl : s.clocks.refIsLane = false) (hs : s.clocks.switchPending = false)
  (hp : portUp s s.clocks.timingPort = true)
include ha hr hl hs hp

/-- The reference returns to the timing lane by a glitch-free switch while the oscillator runs (R750). -/
theorem refSwitchBack_glitchFree (ho : s.clocks.oscAlive = true) :
    exec .refSwitchBack s = .next (settled s (raise (event 0x0A02 s.clocks.timingPort 0 1 0) { s with clocks := { s.clocks with
      laneAlive := s.clocks.laneAlive ||| (1 <<< s.clocks.timingPort : BitVec 24), refIsLane := true } })) := by
  refine run_awake_eq ha ?_
  simp only [hr, hl, hs, hp, ho, Bool.not_true, Bool.or_self, Bool.false_eq_true, if_false, if_true]

/-- The reference returns to the timing lane by a forced select where the oscillator has stopped (R747, R750). -/
theorem refSwitchBack_forced (ho : s.clocks.oscAlive = false) :
    exec .refSwitchBack s = .next (settled s (raise (event 0x0A02 s.clocks.timingPort 0 2 0) { s with clocks := { s.clocks with
      laneAlive := s.clocks.laneAlive ||| (1 <<< s.clocks.timingPort : BitVec 24), refIsLane := true, switchPending := false
      holdover := true, pllLocked := false } })) := by
  refine run_awake_eq ha ?_
  simp only [hr, hl, hs, hp, ho, Bool.not_true, Bool.or_self, Bool.false_eq_true, if_false]
  rw [selectRef_forced rfl]

end

theorem vloomLow_le {mv : Nat} (hf : s.clocks.floor ≤ mv)
    (hp : (∃ p ∈ s.treadle.plans, p.2.state = .started) → 735 ≤ mv) : vloomLow s ≤ mv := by
  unfold vloomLow
  split
  · next h => exact Nat.max_le.mpr ⟨hf, hp (by simpa using h)⟩
  · exact hf

/-- A setpoint that R755 permits is taken. -/
theorem vloomAdjust_permitted {mv : Nat} (ha : awake s = true) (hb : s.harbour.boot = 3) (hl : vloomLow s ≤ mv) (hc : mv ≤ s.clocks.ceiling)
    (h5 : mv % 5 = s.clocks.vloom % 5) : exec (.vloomAdjust mv) s = .next (settled s { s with clocks := { s.clocks with vloom := mv } }) := by
  refine run_awake_eq ha (if_pos ⟨hb, hl, hc, ?_⟩)
  split <;> omega

/-- An action that starts above its threshold (at it, for the throttle) ends 5 °C below. -/
theorem hold_eq {start stop : Int} (h : start - 50 = stop) (was atIt : Bool) (t : Int) :
    hold was atIt start t =
      if was = true then decide (stop < t) else if atIt = true then decide (start ≤ t) else decide (start < t) := by
  rw [hold, h]

end

/-- Settles O51: each row's branch for the premises, the selects of the reference through `selectRef_forced`. -/
theorem clockAndThermalEventsComplete : Obligations.ClockAndThermalEventsComplete := by
  intro s
  refine ⟨fun ha => ⟨?pll, ?trim, fun cause hc => ⟨clkRefLost_lane ha hc, clkRefLost_oscillator ha hc⟩,
    fun hr hl hs hp => ⟨refSwitchBack_glitchFree ha hr hl hs hp, refSwitchBack_forced ha hr hl hs hp⟩, run_awake ha _,
    fun mv hb hf hp hc h5 => vloomAdjust_permitted ha hb (vloomLow_le hf hp) hc h5, ?sample⟩, ?trip⟩
  case pll =>
    intro hs hr
    refine run_awake_eq ha ?_
    simp only [hs, hr, Bool.not_true, Bool.or_self, Bool.false_eq_true, if_false]
  case trim =>
    intro code h
    refine run_awake_eq ha (if_pos ?_)
    split <;> simpa [*] using h
  case sample =>
    intro tj hbm
    refine run_awake_eq ha ?_
    simp only [hold_eq (show (1050 : Int) - 50 = 1000 from rfl), hold_eq (show (950 : Int) - 50 = 900 from rfl),
      hold_eq (show (1150 : Int) - 50 = 1100 from rfl), hold_eq (show (850 : Int) - 50 = 800 from rfl),
      Bool.and_eq_true, Bool.or_eq_true, Bool.not_eq_true', Bool.or_eq_false_iff, and_assoc, Bool.false_eq_true, if_false, if_true]
  case trip =>
    intro hp ht
    refine runAlways_eq ?_
    simp only [hp, ht, Bool.not_true, Bool.or_self, Bool.false_eq_true, if_false]

end Sys2Proof.Machine

/-! ## Flits as they arrive (R634–R637) -/

namespace Sys2Proof.Machine

section
variable {s : State} {n : Nat} {p : Port} {f : Flit} (ha : awake s = true) (hp : port? s n = some p) (hu : portUp s n = true)
  (h3 : f.ftype ≠ 3) (hr : p.retiring = none)

section
include hp

/-- A lasting fault at ×8 asks to retire the half that holds the lane (R636). -/
theorem lastingFlit_retires (h8 : p.state = 2) (hx : p.allowX4 = true) (lane : Nat) : lastingFlit n lane s =
    emit (.control n 3 (laneHalf lane) 0) (updPort n (fun p => { p with retiring := some (laneHalf lane, some (lane % 8)) }) s) := by
  simp only [lastingFlit, hp, h8, hx, and_self, if_true]

/-- A lasting fault at ×4, or with allow_x4 clear, fails the port (R637). -/
theorem lastingFlit_fails (h : p.state = 3 ∨ p.allowX4 = false) (lane : Nat) : lastingFlit n lane s = failPort n 3 s := by
  have hn : ¬ (p.state = 2 ∧ p.allowX4 = true) := by
    rintro ⟨h8, hx⟩
    simp [h8, hx] at h
  simp only [lastingFlit, hp, hn, if_false]

end

section
include ha hp hu h3 hr

/-- What a flit does where none is failing, by whether it is good and in order (R634, R635). -/
theorem flitReceive_fresh (hf : p.failing = none) :
    let awaited := (p.rxSeq + 1) % 1024
    exec (.flitReceive n f) s = .next (settled s
      (if f.crcOk = true ∧ f.seq % 1024 = (if f.ftype = 1 then awaited else p.rxSeq) then
        updPort n (fun p => { takeHeader f p with rxSeq := if f.ftype = 1 then awaited else p.rxSeq }) s
      else emit (.nak n p.rxSeq) (updPort n (fun p => { p with failing := some awaited }) s))) := by
  refine run_awake_eq ha ?_
  simp only [hp, hu, h3, hr, hf, Bool.not_true, decide_false, Option.isSome_none, Bool.or_self, Bool.false_eq_true, if_false]

/-- What a flit does while flit `m` is failing: only the replayed copy of `m` is looked at (R635, R637). -/
theorem flitReceive_replay {m : Nat} (hf : p.failing = some m) : exec (.flitReceive n f) s = .next (settled s
    (if f.ftype ≠ 1 ∨ f.seq % 1024 ≠ m then s
     else if f.crcOk = true then updPort n (fun p => { takeHeader f p with rxSeq := m, failing := none, replays := p.replays + 1 }) s
     else lastingFlit n f.badLane s)) := by
  refine run_awake_eq ha ?_
  simp only [hp, hu, h3, hr, hf, Bool.not_true, decide_false, Option.isSome_none, Bool.or_self, Bool.false_eq_true, if_false,
    Bool.or_eq_true, bne_iff_ne]

end

end

/-- Settles O53: by whether a flit is failing, the branches of `flitReceive_fresh` and `flitReceive_replay`. -/
theorem flitsAreTakenInOrderAndReplayed : Obligations.FlitsAreTakenInOrderAndReplayed := by
  intro s n p f ha hp hu h3 hr
  refine ⟨fun hf => ?fresh, fun m hf => ?failing⟩
  case fresh =>
    rw [flitReceive_fresh ha hp hu h3 hr hf]
    refine ⟨fun h1 hc ho => ?_, fun h1 hc ho => ?_, fun h => ?_⟩
    · rw [if_pos ⟨hc, by rw [if_pos h1, ho]⟩]
      simp only [h1, if_true]
    · rw [if_pos ⟨hc, by rw [if_neg h1, ho]⟩]
      simp only [h1, if_false]
    · rw [if_neg]
      rintro ⟨hc, ho⟩
      exact h.elim (fun e => Bool.false_ne_true (e.symm.trans hc)) fun e => e ho
  case failing =>
    rw [flitReceive_replay ha hp hu h3 hr hf]
    have copy (h1 : f.ftype = 1) (ho : f.seq % 1024 = m) : ¬ (f.ftype ≠ 1 ∨ f.seq % 1024 ≠ m) := by simp [h1, ho]
    refine ⟨fun h => by rw [if_pos h], fun h1 ho hc => by rw [if_neg (copy h1 ho), if_pos hc], fun h1 ho hc h8 hx => ?_, fun h1 ho hc h => ?_⟩
    · rw [if_neg (copy h1 ho), hc, if_neg Bool.false_ne_true, lastingFlit_retires hp h8 hx]
      rfl
    · rw [if_neg (copy h1 ho), hc, if_neg Bool.false_ne_true, lastingFlit_fails hp h]

end Sys2Proof.Machine

/-! ## Ports: training, fall-back and loss (R632–R642) -/

namespace Sys2Proof.Machine

/-- The lanes that fail step 4 of a training: those of one half, or none (R632). -/
def failedLanes (half : Option Nat) : BitVec 8 := match half with | some h => halfMask h | none => 0

/-- The lane that a fall-back's LANE_RETIRED names: the one found at fault here, else a free value (log 4). -/
def faultyLane (p : Port) (s : State) : Nat := match p.retiring with | some (_, some l) => l | _ => Config.freeChoice s.free % 8

/-- A port's record once a training has ended with `retired` lanes out of service: a cold training starts the flit numbering anew, a
retrain and a fall-back keep it (R632, R639). -/
def Port.trained (p : Port) (retired : BitVec 8) (reversed : Bool) (delay : Nat) : Port :=
  { p with
    state := if retired = 0 then 2 else 3, retired := retired, reversed := reversed, los := false, failures := 0, warm := false
    fallback := false, suspended := false, retiring := none, cmd := none, credit := fullCredit, echoes := (0, 0)
    delay := if p.fallback then p.delay else BitVec.ofNat 24 delay
    rxSeq := if p.warm || p.fallback then p.rxSeq else 0x3FF
    acked := if p.warm || p.fallback then p.acked else 0x3FF
    failing := if p.warm || p.fallback then p.failing else none
    replayFrom := if p.warm || p.fallback then some ((p.acked + 1) % 1024) else none }

/-- What follows once a port of record `p` is up with record `q`: its PORT_RETRAIN ends, plans that no longer fit are paused, and the
claim and the timing lane go on (R378, R638, R648, R744). -/
def afterUp (n : Nat) (p q : Port) (s : State) : State :=
  pumpAll (takeLane (startClaim n (fitAfter n (match p.cmd with | some k => endCmd k stOk q.state q.retired.toNat s | none => s))))

/-- A port of record `p` is up with record `q`: by a fall-back it posts LANE_RETIRED, otherwise it sends HELLO (R636, R644, R659). -/
def comeUp (n : Nat) (p q : Port) (s : State) : State :=
  let u := watchLane n (updPort n (fun _ => q) s)
  afterUp n p q (if p.fallback then raise (event evLaneRetired n (partnerOf u n) q.retired.toNat (faultyLane p u)) (nextFree u)
                 else sendHello n u)

section
variable {s : State} {n : Nat} {p q : Port}

theorem comeUp_greets (hf : p.fallback = false) :
    comeUp n p q s = afterUp n p q (sendHello n (watchLane n (updPort n (fun _ => q) s))) := by
  simp only [comeUp, hf, Bool.false_eq_true, if_false]

theorem comeUp_posts {own lane : Nat} (hf : p.fallback = true) (ht : p.retiring = some (own, some lane)) :
    comeUp n p q s =
      (let u := watchLane n (updPort n (fun _ => q) s)
       afterUp n p q (raise (event evLaneRetired n (partnerOf u n) q.retired.toNat lane) (nextFree u))) := by
  simp only [comeUp, hf, if_true, faultyLane, ht]

variable (ha : awake s = true) (hp : port? s n = some p)
include ha hp

/-- The end of a training: an enabled port that trains and keeps a half comes up. -/
theorem portUp_trained {half : Option Nat} {reversed : Bool} {delay : Nat} (h1 : p.state = 1) (he : p.enable = true)
    (hr : p.retired ||| failedLanes half ≠ 0xFF) :
    exec (.portUp n half reversed delay) s = .next (settled s (comeUp n p (p.trained (p.retired ||| failedLanes half) reversed delay) s)) := by
  refine run_awake_eq ha ?_
  simp only [hp]
  refine if_neg ?_
  rw [h1, he, Bool.or_eq_true]
  rintro (h | h)
  · cases h
  · exact hr (of_decide_eq_true h)

theorem trainingFailed_again (h1 : p.state = 1) (h : p.failures < 2) :
    exec (.trainingFailed n) s = .next (settled s (updPort n (fun p => beginAttempt { p with failures := p.failures + 1 }) s)) := by
  refine run_awake_eq ha ?_
  simp only [hp, h1, bne_self_eq_false, Bool.false_eq_true, if_false]
  exact if_neg (by omega)

theorem trainingFailed_thrice (h1 : p.state = 1) (h : 2 ≤ p.failures) :
    exec (.trainingFailed n) s = .next (settled s (failPort n 2 (updPort n (fun p => { p with failures := p.failures + 1 }) s))) := by
  refine run_awake_eq ha ?_
  simp only [hp, h1, bne_self_eq_false, Bool.false_eq_true, if_false]
  exact if_pos (by omega)

/-- RETIRE_REQ at ×8: a fall-back on the half in the port's own numbering, or a failure where ×4 is not allowed (R636, R637). -/
theorem retireReq_full {half : Nat} (h2 : p.state = 2) (hh : half ≤ 1) :
    exec (.retireReq n half) s = .next (settled s
      (if !p.allowX4 then failPort n 3 s
       else
        let own := if p.reversed then 1 - half else half
        fallBack n own (emit (.control n 4 own 0) (updPort n (fun p => { p with retiring := some (own, none) }) s)))) := by
  refine run_awake_eq ha ?_
  simp only [hp, h2, Nat.not_lt.mpr hh, bne_self_eq_false, decide_false, Bool.or_self, Bool.false_eq_true, if_false]

end

/-- Settles O52: each row's branch for the premises; the end of a training by `comeUp`. -/
theorem portsTrainUpFallBackAndFail : Obligations.PortsTrainUpFallBackAndFail := by
  intro s n ha
  refine ⟨fun p hp => ⟨?signal, ?up, ?failed, ?loss, ?retire⟩, ?live⟩
  case signal =>
    intro he hs ht h0
    refine run_awake_eq ha ?_
    simp only [hp, he, hs, ht, h0, Bool.not_false, beq_self_eq_true, Bool.and_self, if_true]
    rfl
  case up =>
    intro half reversed delay h1 he retired hr q done after
    have hl : retired = p.retired ||| failedLanes half := by rcases half with _ | _ | _ <;> rfl
    rw [portUp_trained ha hp h1 he (hl ▸ hr), ← hl]
    refine ⟨fun hf hw => ?_, fun hf hw => ?_, fun hf own lane ht => ?_⟩
    · have hq : p.trained retired reversed delay =
          { q with delay := BitVec.ofNat 24 delay, rxSeq := 0x3FF, acked := 0x3FF, failing := none, replayFrom := none } := by
        simp only [Port.trained, hf, hw]
        rfl
      rw [comeUp_greets hf, hq]
      rfl
    · have hq : p.trained retired reversed delay =
          { q with delay := BitVec.ofNat 24 delay, replayFrom := some ((p.acked + 1) % 1024) } := by
        simp only [Port.trained, hf, hw]
        rfl
      rw [comeUp_greets hf, hq]
      rfl
    · have hq : p.trained retired reversed delay = { q with replayFrom := some ((p.acked + 1) % 1024) } := by
        simp only [Port.trained, hf, Bool.or_true]
        rfl
      rw [comeUp_posts hf ht, hq]
      rfl
  case failed => exact fun h1 => ⟨trainingFailed_again ha hp h1, trainingFailed_thrice ha hp h1⟩
  case loss =>
    intro hs hl
    refine run_awake_eq ha (if_pos ?_)
    simp [hp, hs, hl]
  case retire =>
    intro half h2 hh
    refine ⟨fun hx => ?_, fun hx => ?_, fun own lane hr => ?_⟩
    · rw [retireReq_full ha hp h2 hh, if_neg (by simp [hx])]
    · rw [retireReq_full ha hp h2 hh, if_pos (by simp [hx])]
    · refine run_awake_eq ha ?_
      simp only [hp, hr, h2, if_true]
  case live =>
    intro hu
    refine ⟨run_awake_eq ha (if_pos hu), fun stamp => ⟨run_awake_eq ha (if_pos ?_), fun d => run_awake_eq ha (if_pos ?_)⟩, fun d => ?_⟩
    · rw [hu, Bool.true_or]
    · rw [hu, Bool.true_or]
    · refine run_awake_eq ha ((if_pos hu).trans ?_)
      congr 1
      funext p
      have hfar : (p.delay.toNat + 8 < d || d + 8 < p.delay.toNat) = decide (8 < Int.natAbs (p.delay.toNat - d : Int)) := by
        rw [Bool.eq_iff_iff]
        simp
        omega
      simp only [hfar, decide_eq_true_eq]

end Sys2Proof.Machine

/-! ## Identity, key agreement and certificates (R685–R697) -/

namespace Sys2Proof.Machine

section
variable {s u : State} {k : CmdKey} {c : Cmd}

/-- A command whose range in isle 0 is ready goes on. -/
theorem whenReady_isle0 {l : List Span} (hc : cmd? s k = some c) (h : access k 0 l (startCmd k s) = (.ok, u)) (go : State → State) :
    whenReady { c with isle := 0 } l go s = go u := by
  obtain rfl := cmd?_key hc
  exact whenReady_ok (c := { c with isle := 0 }) h go

/-- EXPEL_CERT ends with the status of its certificate's judgement (R694, R695). -/
theorem expelCert_judged {x : Cert} (hc : Runs s k 0x0F43 c) (hf : certFieldsOk c = true) (hx : parseCert c.arg = some x) :
    exec (.expelCert k) s = .next (settled s (
      let r := takeCert noPort c.arg x (startCmd k s)
      endFree k (if r.1 = 0 then stOk else if r.1 = 2 then stStaleEpoch else stPermission) r.2)) := by
  refine run_withCmd_eq hc ?_
  simp only [hf, hx, Bool.not_true, Bool.false_eq_true, if_false]
  split
  · rfl
  · split <;> rfl

end

/-- Settles O39: each command's branch for the premises; the certificate's status by its judgement. -/
theorem trustCommandsComplete : Obligations.TrustCommandsComplete := by
  intro s u k c
  refine ⟨?attest, ?agree, fun x => expelCert_judged, ?heard⟩
  case attest =>
    intro draw hc hf ha
    refine run_withCmd_eq hc ?_
    simp only [hf, Bool.not_true, Bool.false_eq_true, if_false, whenReady_isle0 hc.2.1 ha]
  case agree =>
    intro draw hc hf ha
    refine run_withCmd_eq hc ?_
    simp only [hf, Bool.not_true, Bool.false_eq_true, if_false, whenReady_isle0 hc.2.1 ha]
  case heard =>
    intro port src bytes x ha hu hp hb hj hx
    refine run_awake_eq ha ?_
    simp only [hu, Nat.not_le.mpr hp, hb, hj, hx, bne_self_eq_false, decide_false, Bool.not_true, Bool.or_self, Bool.false_eq_true, if_false]

end Sys2Proof.Machine

/-! ## Shares of an Atoll's home and the end of a search (R571–R600) -/

namespace Sys2Proof.Machine

section
variable {s u : State} {k : CmdKey} {c : Cmd} {isle i : Nat} {d : SubData} {sh : Shard} (hs : shard? s isle (asId c) = some sh)
include hs

/-- A home logs the tombstone of one id that has none (R571, R600). -/
theorem homeDelete_logs (hw : subWords d = [i]) (ht : ∀ t ∈ sh.tombs, t.2 ≠ i) (hc : sh.tombs.length + 1 ≤ sh.tombCap) :
    homeDelete isle c d s = (.done stOk 0 1 0 noData, syncShard isle (asId c)
      { sh with tombs := sh.tombs ++ [((sh.tombTail + 0) % 2 ^ 32, i)], tombTail := (sh.tombTail + 1) % 2 ^ 32 } s) := by
  have hn : sh.tombs.any (fun t => t.2 == i) = false := any_false fun t h => beq_eq_false_iff_ne.mpr (ht t h)
  simp [homeDelete, hs, hw, hn, Nat.not_lt.mpr hc]

/-- A home appends the side entry of one new item whose vector is accepted (R571, R596, R598). -/
theorem homeInsert_appends {v : List Nat} {rest : List Nat} (hp : subPhase d = 1) (hn : aiCount c = 1)
    (hw : subWords d = sh.dims :: sh.metric :: rest) (hv : v = decodeVec 0 sh.dims ((d.bytes.drop 64).take (4 * sh.dims)))
    (hr : vecRefused sh.metric v = false) (ht : ∀ t ∈ sh.tombs, t.2 ≠ field d.bytes 0 8) (hi : ∀ x ∈ sh.sides, x.id ≠ field d.bytes 0 8)
    (hc : sh.sides.length + 1 ≤ sh.sideCap) :
    homeInsert isle c d s = (.done stOk 0 1 0 noData, syncShard isle (asId c)
      { sh with
        sides := sh.sides ++ [{ seq := (sh.sideTail + 0) % 2 ^ 32, id := field d.bytes 0 8, norm := (encodeItem sh.metric sh.so v).2
                                attrs := (List.range 8).map (fun j => field d.bytes (16 + 4 * j) 4)
                                codes := (encodeItem sh.metric sh.so v).1 }]
        sideTail := (sh.sideTail + 1) % 2 ^ 32 } s) := by
  have hnt : sh.tombs.any (fun t => t.2 == field d.bytes 0 8) = false := any_false fun t h => beq_eq_false_iff_ne.mpr (ht t h)
  have hni : ¬ ∃ x ∈ sh.sides, x.id = field d.bytes 0 8 := fun ⟨x, h, e⟩ => hi x h e
  simp [homeInsert, hs, hp, hn, hw, ← hv, hr, hnt, hni, Nat.not_lt.mpr hc]

end

/-- Settles O27: a home's row ends with what its share gives; a lead whose shards answered goes to the search's end. -/
theorem atollHomeServesSearchInsertAndDelete : Obligations.AtollHomeServesSearchInsertAndDelete := by
  intro s u k c h sh
  refine ⟨?delete, ?insert, ?search, ?lead⟩
  case delete =>
    intro i hc hl hs hw ht hr
    refine run_withCmd_eq hc ?_
    have hs' : shard? (startCmd k s) c.isle (asId c) = some sh := hs
    simp only [hl, Option.isSome_some, if_true, homeDelete_logs hs' hw ht hr, endServed_ok]
  case insert =>
    intro v rest hc hl hs hp hn hw hv hr ht hi hcap
    refine run_withCmd_eq hc ?_
    have hs' : shard? (startCmd k s) c.isle (asId c) = some sh := hs
    simp only [hl, Option.isSome_some, if_true, homeInsert_appends hs' hp hn hw hv hr ht hi hcap, endServed_ok]
  case search =>
    intro d hc hl hp hd
    refine run_withCmd_eq hc ?_
    simp only [hl, Option.isSome_some, if_true, hd, endServed_ok]
  case lead =>
    intro rest hc hl hx ha hok
    refine run_withCmd_eq hc ?_
    simp only [hl, hx, Option.isSome_none, Bool.false_eq_true, if_false, ne_eq, reduceCtorEq, not_false_eq_true, if_true, searchGo, hc.2.1,
      runLocal_answered hc.2.1 ha, ha, Bool.not_true, firstFailing_of_ok hok, List.headD_cons]

end Sys2Proof.Machine

/-! ## ATOLL_CREATE (R573–R578) -/

namespace Sys2Proof.Machine

/-- The fields of an ATOLL_CREATE rest on its argument block alone. -/
theorem createFields_congr {c d : Cmd} (h : d.arg = c.arg) :
    crDims d = crDims c ∧ crMetric d = crMetric c ∧ crDegree d = crDegree c ∧ crSide d = crSide c ∧ crTomb d = crTomb c ∧
      crNav d = crNav c ∧ crRecord d = crRecord c ∧ crMeta d = crMeta c ∧ crRecordLen d = crRecordLen c ∧ crSo d = crSo c := by
  simp only [crDims, crMetric, crDegree, crSide, crTomb, crNav, crRecord, crMeta, crRecordLen, crSo, h, and_self]

/-- Settles O28: no check refuses the create, and its fields are those of the argument block while it waits for its table. -/
theorem atollCreateMakesAnEmptyShard : Obligations.AtollCreateMakesAnEmptyShard := by
  intro s u k c d hc hf hs hn ha hd he hi hv
  dsimp only
  intro hso hl
  obtain rfl := cmd?_key hc.2.1
  have hx : cmdNow u c = d := by simp only [cmdNow, hd, Option.getD_some]
  have hall := List.all_eq_true.mpr hso
  refine run_withCmd_eq hc ?_
  simp only [hf, hs, refuseOr, shardKey, hn, bne_self_eq_false, Option.isSome_none, List.find?_cons, List.find?_nil, Bool.not_true,
    Bool.false_eq_true, if_false]
  rw [whenReady_ok ha]
  simp only [hx, createFields_congr he, he, hi, hv, hall, Nat.not_le.mpr hl, bne_self_eq_false, Bool.not_true, Bool.false_eq_true, if_false]

end Sys2Proof.Machine

/-! ## The twin: pairing, watching, takeover and copy (R702–R730) -/

namespace Sys2Proof.Machine

/-- A TWIN_PAIR of the device that the partner's announcement `w` names, as its partner, with its device and in its mode (R702). -/
def pairFor (w : List Nat) (s : State) : Option Cmd :=
  s.bobbin.cmds.find? (fun (c : Cmd) => c.opcode == 0x0F30 && c.phase == Phase.running && s.twin.pairCmd != some c.key &&
    tpPartner c == w.getD 0 0xFFF && w.getD 1 0xFFF == s.pool.id && tpMode c == w.getD 2 0)

/-- The state in which a pair without resync has formed: its key agreed, its mirror empty (R691, R702). -/
def paired (peer : Nat) (s : State) : State :=
  let u := agreePairing (dropMirror s)
  { u with twin := { u.twin with state := .paired, partner := peer, silent := 0, mirror := Mirror.empty } }

/-- The state with the partner's announcement of a TWIN_PAIR noted, or taken back (R702). -/
def notePeer (w : Option (List Nat)) (s : State) : State := { s with twin := { s.twin with peerPair := w } }

section
variable {s : State}

theorem learnEpoch_twin (pid : Nat) (e : BitVec 64) : (learnEpoch pid e s).twin = s.twin := by
  unfold learnEpoch; split <;> rfl

theorem fencedBy_own {e : BitVec 64} (h : s.pool.id ≠ 0xFFF) (he : s.pool.epoch < e) : fencedBy s.pool.id e s = true := by
  simp [fencedBy, h, he]

/-- Without an announcement of the partner a TWIN_PAIR waits. -/
theorem tryPair_waits (h : s.twin.peerPair = none) : tryPair s = s := by
  simp only [tryPair, h]

/-- An announcement that names a TWIN_PAIR in mode 0, of ends that are both fit, forms the pair (R702, R703). -/
theorem tryPair_pairs {w : List Nat} {c : Cmd} (hw : s.twin.peerPair = some w) (hc : pairFor w s = some c) (hm : tpMode c = 0)
    (hg : partnerGreeted s (tpPartner c) = true) (h1 : endFit 0 (twinCode s.twin.state) (twinClean s) = true)
    (h2 : endFit 0 (w.getD 3 0) (w.getD 5 0 == 1) = true) :
    tryPair s = endFree c.key stOk (sendUnit (paired (tpPartner c) (notePeer none s))) := by
  have hmeet : tryPair s = meetPair c.key c w s := by
    unfold tryPair
    rw [hw]
    dsimp only
    rw [show s.bobbin.cmds.find? _ = some c from hc]
  have hg' : partnerGreeted (notePeer none s) (tpPartner c) = true := hg
  have h1' : endFit 0 (twinCode (notePeer none s).twin.state) (twinClean (notePeer none s)) = true := h1
  rw [hmeet]
  simp only [notePeer] at hg' h1'
  simp only [meetPair, hg', h1', h2, hm, Bool.not_true, Bool.or_self, Bool.false_eq_true, if_false, if_true, paired, notePeer]

section
variable {port : Nat} (ha : awake s = true) (hp : 24 ≤ port) (hu : portUp s port = true)
include ha hp hu

/-- The partner's announcement of a TWIN_PAIR is noted and matched (R702). -/
theorem causewayJournal_announces {item : TwinItem} (hn : s.twin.state ≠ .fenced) (hk : item.kind = 14) (hl : 1 < item.words.length) :
    exec (.causewayJournal port item) s = .next (settled s (tryPair (notePeer (some item.words) s))) := by
  refine run_awake_eq ha ?_
  simp only [hu, Nat.not_lt.mpr hp, beq_eq_false_iff_ne.mpr hn, hk, Nat.not_le.mpr hl, Bool.not_true, decide_false, Bool.or_self,
    Bool.false_eq_true, if_false, if_true, notePeer]

/-- Any other item of state is applied and acknowledged (R707). -/
theorem causewayJournal_applies {item : TwinItem} (hn : s.twin.state ≠ .fenced) (h14 : item.kind ≠ 14) (h17 : item.kind ≠ 17)
    (hr : receiving s = true) :
    exec (.causewayJournal port item) s = .next (settled s
      (emit (.manage port s.twin.partner .twinAck [item.id, (applyItem item s).1.toNat]) (applyItem item s).2)) := by
  refine run_awake_eq ha ?_
  simp only [hu, Nat.not_lt.mpr hp, beq_eq_false_iff_ne.mpr hn, h14, h17, hr, Bool.not_true, decide_false, Bool.or_self,
    Bool.false_eq_true, if_false]

theorem twinAcknowledgement_goesOn (hn : s.twin.state ≠ .fenced) (id : Nat) (ok : Bool) :
    exec (.twinAcknowledgement port id ok) s = .next (settled s (pumpAll (acked id ok s))) :=
  run_awake_eq ha (if_pos (by simp [hp, hu, hn]))

/-- A heartbeat of the twin that fences nothing clears its silence (R709). -/
theorem heartbeat_clears {src : Nat} {e : BitVec 64} (hf : fencedBy src e s = false) (hs : src = s.twin.partner) (beat : BitVec 48) :
    exec (.heartbeat port src beat e) s = .next (settled s
      (let u := learnEpoch src e s; { u with twin := { u.twin with silent := 0 } })) := by
  subst hs
  refine run_awake_eq ha ?_
  simp only [hu, Nat.not_lt.mpr hp, hf, learnEpoch_twin, Bool.not_true, decide_false, Bool.or_self, Bool.false_eq_true, if_false, if_true]

theorem heartbeat_fences {src : Nat} {e : BitVec 64} (hf : fencedBy src e s = true) (beat : BitVec 48) :
    exec (.heartbeat port src beat e) s = .next (settled s (fenceSelf 1 e.toNat s)) := by
  refine run_awake_eq ha ?_
  simp only [hu, Nat.not_lt.mpr hp, hf, Bool.not_true, decide_false, Bool.or_self, Bool.false_eq_true, if_false, if_true]

/-- The notice of a twin that has fenced itself, by the state of the pair (R716). -/
theorem fenceNotice_heard {src : Nat} (hs : src = s.twin.partner) : exec (.fenceNotice port src) s = .next (settled s
    (if s.twin.state = .paired then takeOver 3 s
     else if s.twin.state = .resync then (if s.twin.peerSource = true then loseSource 3 s else loseSpare s) else s)) := by
  refine run_awake_eq ha ?_
  simp only [hu, Nat.not_lt.mpr hp, hs, bne_self_eq_false, Bool.not_true, decide_false, Bool.or_self, Bool.false_eq_true, if_false, beq_iff_eq]

/-- Image parts at a boot ROM that waits for one: the first begins the image, the next in order continues it (R647). -/
theorem imagePart_taken {off total : Nat} {bs : List Byte} (hb : s.harbour.boot = 0 ∨ s.harbour.boot = 1 ∨ s.harbour.boot = 4) :
    exec (.imagePart port off total bs) s = .next (settled s
      (if off = 0 then { s with harbour := { s.harbour with parts := bs, partsTotal := total } }
       else if off = s.harbour.parts.length ∧ total = s.harbour.partsTotal then
         { s with harbour := { s.harbour with parts := s.harbour.parts ++ bs } }
       else s)) := by
  have hb' : (s.harbour.boot == 0 || s.harbour.boot == 1 || s.harbour.boot == 4) = true := by simpa [or_assoc] using hb
  refine run_awake_eq ha ?_
  simp only [hu, Nat.not_lt.mpr hp, hb', Bool.not_true, decide_false, Bool.or_self, Bool.false_eq_true, if_false]

end

section
variable (ha : awake s = true)
include ha

theorem probe_answered {port src : Nat} (hu : portUp s port = true) (hb : s.harbour.boot = 3) : exec (.probe port src) s = .next (settled s
    (let u := emit (.manage port src .probeAck [s.pool.id]) s
     if s.twin.state = .paired ∧ src = s.twin.partner then degrade u else u)) := by
  refine run_awake_eq ha ?_
  simp only [hu, hb, bne_self_eq_false, Bool.not_true, Bool.or_self, Bool.false_eq_true, if_false, emit_twin, Bool.and_eq_true, beq_iff_eq]

theorem probeAck_degrades {port : Nat} (hu : portUp s port = true) (hp : s.twin.probing = true) (h1 : s.twin.state = .paired) :
    exec (.probeAck port s.twin.partner) s = .next (settled s (degrade s)) := by
  refine run_awake_eq ha ?_
  simp only [hu, hp, h1, bne_self_eq_false, Bool.not_true, Bool.or_self, Bool.false_eq_true, if_false, beq_self_eq_true, if_true]

/-- A pair whose Causeway has gone silent, or a spare whose source has, probes its partner by the partner's own route (R709, R710). -/
theorem causewayLost_probes {p : Nat} (hm : s.twin.hbMiss ≤ s.twin.silent) (hn : s.twin.probing = false)
    (h : s.twin.state = .paired ∨ (s.twin.state = .resync ∧ s.twin.peerSource = true))
    (hp : ownPort { s with twin := { s.twin with probing := true } } s.twin.partner 0 = some p) :
    exec .causewayLost s = .next (settled s
      (emit (.manage p s.twin.partner .probe [s.pool.id]) { s with twin := { s.twin with probing := true } })) := by
  have hs : (s.twin.state == .paired || s.twin.state == .resync) = true := by rcases h with h | ⟨h, -⟩ <;> simp [h]
  have hk : (s.twin.state == .resync && s.twin.source && !s.twin.peerSource) = false := by rcases h with h | ⟨-, h⟩ <;> simp [h]
  refine run_awake_eq ha ?_
  simp only [hm, hn, hs, hk, hp, decide_true, Bool.true_or, Bool.not_true, Bool.or_self, Bool.false_eq_true, if_false]

theorem probeTimeout_ends (hp : s.twin.probing = true) : exec .probeTimeout s = .next (settled s
    (if s.twin.state = .resync then loseSource 1 s else if s.twin.state = .paired then takeOver 1 s else s)) := by
  refine run_awake_eq ha ?_
  simp only [hp, Bool.not_true, Bool.false_eq_true, if_false, beq_iff_eq]

/-- A source that has copied every region says so (R730). -/
theorem resyncCopyDone_told (h1 : s.twin.state = .resync) (h2 : s.twin.source = true) (h3 : s.twin.toCopy = []) (h4 : s.twin.done.1 = false) :
    exec .resyncCopyDone s = .next (settled s
      (let u := twinSend 17 [s.twin.copied, s.twin.copiedBytes] [] s
       finishResync { u with twin := { u.twin with done := (true, u.twin.done.2) } })) := by
  refine run_awake_eq ha ?_
  simp only [h1, h2, h3, h4, bne_self_eq_false, Bool.not_true, Bool.or_self, Bool.false_eq_true, if_false]

/-- The copy's next watermark: the range crosses, the mark is journaled, and the cursor moves or the region is done (R729). -/
theorem resyncWatermark_copies {pid region mark isle : Nat} {r : Region} (h1 : s.twin.state = .resync) (h2 : s.twin.source = true)
    (hk : s.twin.toCopy.head? = some (regionKey pid region)) (hr : copyRegion s (regionKey pid region) = some (isle, r))
    (hm : mark = r.cursor.getD 0 / 2 ^ 26 + 1) :
    let stop := min r.len (mark * 2 ^ 26)
    let u := journalMark region 0 mark (twinSend 12 [pid, region, mark] [] (sendRange isle (r.va + r.cursor.getD 0) (stop - r.cursor.getD 0) s))
    exec (.resyncWatermark pid region mark) s = .next (settled s
      (if r.len ≤ stop then
        let v := setRegion isle region (some { r with cursor := none }) u
        { v with twin := { v.twin with
          toCopy := v.twin.toCopy.drop 1, copied := v.twin.copied + 1, copiedBytes := v.twin.copiedBytes + r.len } }
       else setRegion isle region (some { r with cursor := some stop }) u)) := by
  intro stop u
  refine run_awake_eq ha ?_
  simp only [h1, h2, hk, hr, bne_self_eq_false, Bool.not_true, Bool.or_self, Bool.false_eq_true, if_false]
  rw [if_neg (not_not.mpr hm)]
  by_cases hl : r.len ≤ stop
  · rw [if_pos hl, decide_eq_true hl]
    rfl
  · rw [if_neg hl, decide_eq_false hl]
    rfl

end

section
variable {k : CmdKey} {c : Cmd} (hc : Runs s k 0x0F30 c)
include hc

/-- A TWIN_PAIR that its end is fit for is announced, and waits for the partner's (R702, R703). -/
theorem twinPair_announces (hp : c.phase ≠ .running) (hf : pairFieldsOk c = true) (hg : partnerGreeted s (tpPartner c) = true)
    (he : endFit (tpMode c) (twinCode s.twin.state) (twinClean s || (tpMode c == 1 && s.twin.state == .degraded)) = true)
    (hn : s.twin.peerPair = none) :
    exec (.twinPair k) s = .next (settled s (twinSend 14 (pairWords s c) [] (startCmd k s))) := by
  refine run_withCmd_eq hc ?_
  simp only [beq_eq_false_iff_ne.mpr hp, hf, hg, he, Bool.not_true, Bool.or_self, Bool.false_eq_true, if_false]
  exact tryPair_waits hn

theorem twinPairTimeout_ends (hp : c.phase = .running) (hn : s.twin.pairCmd ≠ some k) :
    exec (.twinPairTimeout k) s = .next (settled s (endFree k stTimeout (twinSend 14 [s.pool.id] [] s))) := by
  refine run_withCmd_eq hc (if_pos ?_)
  simp [hp, hn]

end
end

/-- Settles O58: each row's branch for the premises; a pair forms by `tryPair_pairs`. -/
theorem twinsPairWatchResyncAndTakeOver : Obligations.TwinsPairWatchResyncAndTakeOver := by
  intro s
  refine ⟨fun k c hc hp => ?announce, fun k c => twinPairTimeout_ends, fun ha => ⟨fun port hp hu => ?causeway, ?probe, ?probeAck, ?lost,
    ?timeout, resyncCopyDone_told ha, ?mark⟩⟩
  case announce => exact fun hf hg he hn => twinPair_announces hc hp hf hg he hn
  case causeway =>
    refine ⟨?pair, fun item => causewayJournal_applies ha hp hu, fun id ok hn => twinAcknowledgement_goesOn ha hp hu hn id ok,
      fun src beat e hf hs => heartbeat_clears ha hp hu hf hs beat, ?fence, ?notice, ?image⟩
    case pair =>
      intro item c hn hk hl hc hm hg h1 h2
      rw [causewayJournal_announces ha hp hu hn hk hl, tryPair_pairs (s := notePeer (some item.words) s) rfl hc hm hg h1 h2]
      rfl
    case fence =>
      rintro src beat e rfl hn he
      exact heartbeat_fences ha hp hu (fencedBy_own hn he) beat
    case notice =>
      intro src hs
      rw [fenceNotice_heard ha hp hu hs]
      exact ⟨fun h => by rw [if_pos h], fun h => by rw [if_neg (by simp [h]), if_pos h]⟩
    case image =>
      intro off total bs hb
      rw [imagePart_taken ha hp hu hb]
      exact ⟨fun h => by rw [if_pos h], fun h0 h1 h2 => by rw [if_neg h0, if_pos ⟨h1, h2⟩]⟩
  case probe => exact fun port src hu hb => probe_answered ha hu hb
  case probeAck => exact fun port hu hp h1 => probeAck_degrades ha hu hp h1
  case lost => exact fun hm hn h p hp => causewayLost_probes ha hm hn h hp
  case timeout =>
    intro hp
    rw [probeTimeout_ends ha hp]
    exact ⟨fun h => by rw [if_neg (by simp [h]), if_pos h], fun h => by rw [if_pos h]⟩
  case mark =>
    intro pid region mark isle r h1 h2 hk hr hm stop u
    rw [resyncWatermark_copies ha h1 h2 hk hr hm]
    exact ⟨fun h => by rw [if_neg (Nat.not_le.mpr h)], fun h => by rw [if_pos h]⟩

end Sys2Proof.Machine
